-- ==== Sys2Proof/Word.lean ====
section
/-! DEFINITION. Words, addresses and object numbers of the part (00_scope 1.6), and the update of one
place of a fixed table. -/

namespace Sys2Proof

/-- A word: 16 bits (00_scope 1.6). -/
abbrev Word := BitVec 16

/-- A word address: 18 bits, 00000H to 3FFFFH (00_scope 1.6). -/
abbrev Addr := BitVec 18

/-- Ports P0 to P3; P0 is the supervisor port (00_scope 1.6). -/
abbrev PortId := Fin 4

/-- Channels C0 to C3. -/
abbrev ChanId := Fin 4

/-- Rings 0 to 7. -/
abbrev RingId := Fin 8

/-- Locks 0 to 15. -/
abbrev LockId := Fin 16

/-- Window entries W0 to W31. -/
abbrev WinId := Fin 32

/-- Slots 0 to 15 of a notice controller. -/
abbrev SlotId := Fin 16

/-- Slot levels 0 to 3, 0 the most urgent. -/
abbrev Level := Fin 4

/-- The bits in which the SRAM's answer to a read differs from what was stored: bit 16 is MDP, bits 15 to 0
are MD. Zero: the SRAM answers what was stored (log 13). -/
abbrev Upset := BitVec 17

/-- The table `v` with `f` applied to place `i`. -/
def upd {α : Type} {n : Nat} (v : Vector α n) (i : Fin n) (f : α → α) : Vector α n := v.set i (f v[i])

/-- Reading any place after an update. -/
theorem upd_getElem {α : Type} {n : Nat} (v : Vector α n) (i : Fin n) (f : α → α) (j : Nat) (h : j < n) :
    (upd v i f)[j] = if (i : Nat) = j then f v[j] else v[j] := by
  by_cases e : (i : Nat) = j
  · subst e; simp [upd]
  · simp [upd, e]

/-- Reading the updated place. -/
@[simp] theorem upd_same {α : Type} {n : Nat} (v : Vector α n) (i : Fin n) (f : α → α) :
    (upd v i f)[(i : Nat)] = f v[(i : Nat)] := by simp [upd_getElem]

/-- Reading a place that is not the updated one. -/
theorem upd_other {α : Type} {n : Nat} (v : Vector α n) {i j : Fin n} (f : α → α) (h : i ≠ j) :
    (upd v i f)[j] = v[j] := by
  have : (i : Nat) ≠ j := fun e => h (Fin.ext e)
  simp [upd_getElem, this]

/-- Reading a place named by a `Fin` after an update. -/
theorem upd_get {α : Type} {n : Nat} (v : Vector α n) (i j : Fin n) (f : α → α) :
    (upd v i f)[j] = if i = j then f v[j] else v[j] := by
  by_cases h : i = j
  · subst h; simp
  · rw [if_neg h, upd_other v f h]

end Sys2Proof
end

