-- ==== Sys2Proof/Config.lean ====
section
/-! DEFINITION. Fixed quantities of the part (Table 1-4) and the free values: what the manual leaves
undefined, as constants without a body. -/

namespace Sys2Proof.Config

/-- First address of the port window, 3FDF0H (Table 1-4). The span ends just below it. -/
def portWindowBase : Nat := 0x3FDF0

/-- First address of the table area, 3FE00H (Table 1-4). -/
def tableBase : Nat := 0x3FE00

/-- Words of the table area (Table 1-4). -/
def tableWords : Nat := 512

/-- Words that the sweep reads (R175). -/
def sweepWords : Nat := 276

/-- The refused read value FFFFH (Table 1-4). -/
def refusedRead : Word := 0xFFFF#16

/-- The NONE value of TAKE and PEEK (R47). -/
def noneWord : Word := 0x8000#16

/-- Most claimants in a lock's waiter queue (Table 1-4, R94). -/
def lockQueueMax : Nat := 7

/-- FREE VALUE (log 1): the word that a memory address holds after power-on number `n` while nothing has
written it (R142, R150: undefined). -/
opaque powerOnWord : Nat → Nat → Word

/-- FREE VALUE (log 1): the parity bit stored beside that word (R142: a read may report a parity error). -/
opaque powerOnParity : Nat → Nat → Bool

/-- FREE VALUE (log 10): which of the 24 orders of the four ports the cycles held on OFF ports are classified
in when start-up ends (R171: no order among them). -/
opaque startUpOrder : Nat → Fin 24

/-- The free choice of a place in a list of the given length, made from a number below 24. -/
def pickAt (n : Nat) (l : List PortId) : Option (PortId × List PortId) :=
  match l[n]? with
  | none => none
  | some p => some (p, l.eraseIdx n)

/-- The permutation of the four ports with number `k` of 24, by its Lehmer digits. -/
def portOrder (k : Nat) : List PortId :=
  match pickAt (k / 6) [0, 1, 2, 3] with
  | none => []
  | some (a, r) =>
    match pickAt (k % 6 / 2) r with
    | none => []
    | some (b, t) => a :: b :: (if k % 2 = 0 then t else t.reverse)

end Sys2Proof.Config
end

