-- ==== Sys2Proof/Syntax.lean ====
section
/-! DEFINITION. The commands: one constructor for each of the 57 rows of spec/opcode_table.json, with the
operands that the event names. A row that is a port cycle carries the port and, where the row does not fix them, the
address and the written word (log 8). -/

namespace Sys2Proof

/-- The direction of a master's cycle (R1). -/
inductive Dir where
  | read
  | write
  deriving DecidableEq, Repr

/-- The commands: one constructor per row of spec/opcode_table.json. -/
inductive Instr where
  /-- PONN goes low (R169). -/
  | ponnLow
  /-- PONN goes high (R170). -/
  | ponnHigh
  /-- One clear write completes (R170). -/
  | coldClearWriteComplete
  /-- RSTN goes low (R173). -/
  | rstnLow
  /-- RSTN goes high, and the sweep begins where a warm reset waits for it (R173). -/
  | sweepStart
  /-- A sweep read completes (R175); the SRAM's answer may have bits upset (log 13). -/
  | sweepReadComplete (upset : Upset)
  /-- PRSTN of `p` goes low (R177). -/
  | portReset (p : PortId)
  /-- The teardown of `p` is complete (R178). -/
  | teardownComplete (p : PortId)
  /-- PRSTN of `p` goes high (R177). -/
  | portUp (p : PortId)
  /-- The master of `p` negates its strobe (R2). -/
  | strobeNegated (p : PortId)
  /-- `p` reads address `a` (R16). -/
  | memoryRead (p : PortId) (a : Addr)
  /-- `p` writes `v` to address `a` (R16). -/
  | memoryWrite (p : PortId) (a : Addr) (v : Word)
  /-- P0 writes header word `n`, H0 to H3 (R153). -/
  | headerWrite (n : Fin 4) (v : Word)
  /-- P0 writes data word `k` of window entry `w` (R155). -/
  | windowDataWrite (w : WinId) (k : Fin 3) (v : Word)
  /-- P0 writes the control word of window entry `w` (R156). -/
  | windowCommit (w : WinId) (v : Word)
  /-- P0 writes data word `k` of ring record `r` (R159). -/
  | ringDataWrite (r : RingId) (k : Fin 7) (v : Word)
  /-- P0 writes word 7 of ring record `r` (R160). -/
  | ringCommit (r : RingId) (v : Word)
  /-- P0 writes the lease word of lock `l` (R162). -/
  | leaseWrite (l : LockId) (v : Word)
  /-- P0 writes the binding word of slot `i` of port `q` (R163). -/
  | bindingWrite (q : PortId) (i : SlotId) (v : Word)
  /-- `p` reads TAKE (R46). -/
  | take (p : PortId)
  /-- `p` reads PEEK (R49). -/
  | peek (p : PortId)
  /-- `p` writes `v`, not FFFFH, to END (R52). -/
  | endSpecific (p : PortId) (v : Word)
  /-- `p` writes FFFFH to END (R53). -/
  | endNonSpecific (p : PortId)
  /-- `p` writes `v` to PENDING (R40). -/
  | pendClear (p : PortId) (v : Word)
  /-- `p` writes `v` to MASK (R41). -/
  | maskSet (p : PortId) (v : Word)
  /-- `p` writes `v` to MASK-CLEAR (R41). -/
  | maskClear (p : PortId) (v : Word)
  /-- `p` writes `v` to THRESHOLD (R42). -/
  | threshold (p : PortId) (v : Word)
  /-- `p` writes `v` to SIGNAL (R55). -/
  | signal (p : PortId) (v : Word)
  /-- `p` reads REFUSAL-B (R19). -/
  | refusalBRead (p : PortId)
  /-- `p` reads IDENT (R180). -/
  | identRead (p : PortId)
  /-- `p` reads FAULT-B (R147). -/
  | faultBRead (p : PortId)
  /-- `p` writes `v` to a word that has no write row of its own (R8, R14, R9). -/
  | readOnlyWordWrite (p : PortId) (a : Addr) (v : Word)
  /-- `p` writes 01nnH to CONTROL (R179). -/
  | dropPort (p : PortId) (n : PortId)
  /-- `p` writes 02rrH to CONTROL (R89). -/
  | ringReset (p : PortId) (r : RingId)
  /-- `p` writes 03llH to CONTROL (R105). -/
  | lockFree (p : PortId) (l : LockId)
  /-- `p` writes 0400H to CONTROL (R148). -/
  | clearFault (p : PortId)
  /-- `p` writes `v` to the post word at `a` (R69). -/
  | ringPost (p : PortId) (a : Addr) (v : Word)
  /-- `p` reads the take word at `a` (R79). -/
  | ringTake (p : PortId) (a : Addr)
  /-- `p` reads the post word at `a` (R81). -/
  | freeCountRead (p : PortId) (a : Addr)
  /-- Ring `r` takes up its awaiting post and its hold list (R68). -/
  | holdListTakeUp (r : RingId)
  /-- The head of ring `r`'s stall queue opens (R76). -/
  | stalledPostOpen (r : RingId)
  /-- The stall limit of port `p`'s entry at ring `r` expires (R77). -/
  | stallLimitExpiry (r : RingId) (p : PortId)
  /-- `p` reads the try word at `a` (R97). -/
  | lockTry (p : PortId) (a : Addr)
  /-- `p` reads the wait word at `a` (R97). -/
  | lockWait (p : PortId) (a : Addr)
  /-- `p` writes a lock word at `a` (R100). -/
  | lockWrite (p : PortId) (a : Addr) (v : Word)
  /-- The head waiter of lock `l` becomes holder (R101). -/
  | lockHandover (l : LockId)
  /-- The lease of lock `l`'s holder expires (R103). -/
  | leaseExpiry (l : LockId)
  /-- A tick boundary (R154). -/
  | tickBoundary
  /-- `p` writes `v` to a channel word 0 to 6 at `a` (R116). -/
  | channelFieldWrite (p : PortId) (a : Addr) (v : Word)
  /-- `p` writes 0001H to the GO/STATE word at `a` (R120). -/
  | channelStart (p : PortId) (a : Addr)
  /-- `p` writes 0002H to the GO/STATE word at `a` (R130). -/
  | channelAbort (p : PortId) (a : Addr)
  /-- The access in flight of channel `c`, whose stop is pending, completes (R131). -/
  | stopPendingComplete (c : ChanId) (upset : Upset)
  /-- The transfer engine picks a channel and presents its access (R126). -/
  | channelPick
  /-- The arbiter grants a request (R139); the read half of a pair may have bits upset (log 12, log 13). -/
  | arbiterGrant (upset : Upset)
  /-- The access in progress completes (R137); a single read may have bits upset (log 13). -/
  | memoryAccessComplete (upset : Upset)
  /-- `p`, which is OFF, presents a cycle (R1). -/
  | cycleHeldOnOffPort (p : PortId) (d : Dir) (a : Addr) (v : Word)
  /-- `p` reads a word that has no read (R8). -/
  | writeOnlyWordRead (p : PortId) (a : Addr)
  deriving DecidableEq, Repr

end Sys2Proof
end

