-- ==== Sys2Proof/WellFormed.lean ====
section
/-! DEFINITION. When a command is the event its row names: the checks on its operands that need no state.
`exec` does not lean on them: a cycle at any address does what the address says (log 8). -/

namespace Sys2Proof

/-- Addresses of the span, 00000H to 3FDEFH (00_scope 1.6): windows and ring storage lie there. -/
def inSpan (a : Addr) : Bool := decide (a.toNat < Config.portWindowBase)

/-- The word of the port window that an address names (Table 2-1). -/
def portWordOf (a : Addr) : Option (Fin 16) :=
  if h : Config.portWindowBase ≤ a.toNat ∧ a.toNat < Config.tableBase then
    some ⟨a.toNat - Config.portWindowBase, by simp only [Config.portWindowBase, Config.tableBase] at h ⊢; omega⟩
  else none

/-- The offset of an address in the table area. -/
def tableOffsetOf (a : Addr) : Option Nat :=
  if Config.tableBase ≤ a.toNat then some (a.toNat - Config.tableBase) else none

/-- Port-window words whose read is a row of its own: TAKE, PEEK, REFUSAL-B, IDENT, FAULT-B, and the reads of
END, SIGNAL and CONTROL that are refused. -/
def readRowWords : List (Fin 16) := [0, 1, 2, 9, 11, 12, 13, 15]

/-- Port-window words whose write is a row of its own or a CONTROL command. -/
def writeRowWords : List (Fin 16) := [2, 4, 6, 7, 8, 9, 13]

/-- The CONTROL values that Table 2-2 lists. -/
def controlListed (v : Word) : Bool :=
  let c := v.toNat / 256
  let n := v.toNat % 256
  (c == 1 && decide (n < 4)) || (c == 2 && decide (n < 8)) || (c == 3 && decide (n < 16)) || (c == 4 && n == 0)

/-- Table offsets whose P0 write is a row of its own (Table 9-1). -/
def tableRowOffset (o : Nat) : Bool := decide (o < 4) || (decide (16 ≤ o) && decide (o < 0x120))

/-- The operand checks of each command. -/
def Instr.wellFormed : Instr → Bool
  | .memoryRead _ a => (portWordOf a).all fun k => !readRowWords.contains k
  | .memoryWrite p a _ =>
    (portWordOf a).isNone && ((tableOffsetOf a).all fun o => !(p == 0 && tableRowOffset o))
  | .endSpecific _ v => decide (v ≠ 0xFFFF#16)
  | .readOnlyWordWrite _ a v =>
    match portWordOf a with
    | some k => !writeRowWords.contains k || (k == 13 && !controlListed v)
    | none => inSpan a
  | .writeOnlyWordRead p a =>
    (portWordOf a).any fun k => [2, 9, 13].contains k || (p != 0 && [14, 15].contains k)
  | .ringPost _ a _ => inSpan a
  | .ringTake _ a => inSpan a
  | .freeCountRead _ a => inSpan a
  | .lockTry _ a => inSpan a
  | .lockWait _ a => inSpan a
  | .lockWrite _ a _ => inSpan a
  | .channelFieldWrite _ a _ => inSpan a
  | .channelStart _ a => inSpan a
  | .channelAbort _ a => inSpan a
  | .ponnLow => true
  | .ponnHigh => true
  | .coldClearWriteComplete => true
  | .rstnLow => true
  | .sweepStart => true
  | .sweepReadComplete _ => true
  | .portReset _ => true
  | .teardownComplete _ => true
  | .portUp _ => true
  | .strobeNegated _ => true
  | .headerWrite _ _ => true
  | .windowDataWrite _ _ _ => true
  | .windowCommit _ _ => true
  | .ringDataWrite _ _ _ => true
  | .ringCommit _ _ => true
  | .leaseWrite _ _ => true
  | .bindingWrite _ _ _ => true
  | .take _ => true
  | .peek _ => true
  | .endNonSpecific _ => true
  | .pendClear _ _ => true
  | .maskSet _ _ => true
  | .maskClear _ _ => true
  | .threshold _ _ => true
  | .signal _ _ => true
  | .refusalBRead _ => true
  | .identRead _ => true
  | .faultBRead _ => true
  | .dropPort _ _ => true
  | .ringReset _ _ => true
  | .lockFree _ _ => true
  | .clearFault _ => true
  | .holdListTakeUp _ => true
  | .stalledPostOpen _ => true
  | .stallLimitExpiry _ _ => true
  | .lockHandover _ => true
  | .leaseExpiry _ => true
  | .tickBoundary => true
  | .stopPendingComplete _ _ => true
  | .channelPick => true
  | .arbiterGrant _ => true
  | .memoryAccessComplete _ => true
  | .cycleHeldOnOffPort _ _ _ _ => true

end Sys2Proof
end

