-- ==== Sys2Proof/Decode.lean ====
section
/-! DEFINITION. The commands that words spell by the table's bits. spec/opcode_table.json gives no row any bits, so
no word spells a command. -/

namespace Sys2Proof

/-- The command that a word spells by the bits of spec/opcode_table.json: none, since no row gives bits. -/
def decodeTableWord (_nbits _w : Nat) : Option Instr := none

end Sys2Proof
end

