-- ==== Sys2Proof/Machine/State.lean ====
section
/-! DEFINITION. The state of the part as plain data: every register, record, queue, counter, mode and pin that the
manual names, and the queue of commands. INVENTORY.md lists each field with the rule that names it. -/

namespace Sys2Proof.Machine

/-! ## Codes -/

/-- The part's start-up state (R168). -/
inductive PartState where
  | coldClear
  | sweep
  | running
  deriving DecidableEq, Repr

/-- The state of a port (R168). -/
inductive PortState where
  | off
  | up
  | down
  deriving DecidableEq, Repr

/-- The kind of the last part reset (R168). -/
inductive ResetKind where
  | cold
  | warm
  deriving DecidableEq, Repr

/-- A claimant: a port or a channel (Table 1-1). -/
inductive Claimant where
  | port (p : PortId)
  | chan (c : ChanId)
  deriving DecidableEq, Repr

/-- The claimant's code (Table 1-1). -/
def Claimant.code : Claimant → Nat
  | .port p => p.val
  | .chan c => 4 + c.val

/-- Refusal reasons (Table 11-10). -/
inductive Reason where
  | noReadRight
  | noWriteRight
  | ringStorage
  | tableWrite
  | windowWord
  | ringFull
  | ringAssembly
  | ringEmpty
  | ringReset
  | ringDisabled
  | lockNotHolder
  | channelBusy
  | channelRequest
  | endNotInService
  | supervisorOnly
  | badValue
  deriving DecidableEq, Repr

/-- The reason's code (Table 11-10). -/
def Reason.code : Reason → Nat
  | .noReadRight => 1
  | .noWriteRight => 2
  | .ringStorage => 3
  | .tableWrite => 4
  | .windowWord => 5
  | .ringFull => 6
  | .ringAssembly => 7
  | .ringEmpty => 8
  | .ringReset => 9
  | .ringDisabled => 10
  | .lockNotHolder => 11
  | .channelBusy => 12
  | .channelRequest => 13
  | .endNotInService => 14
  | .supervisorOnly => 15
  | .badValue => 16

/-- Table rejection reasons (Table 11-13). -/
inductive TableReason where
  | badKind
  | badFlags
  | badShape
  | outOfSpan
  | overlap
  | alreadyMapped
  | badSource
  | badIndex
  | duplicate
  | parity
  deriving DecidableEq, Repr

/-- The rejection reason's code (Table 11-13). -/
def TableReason.code : TableReason → Nat
  | .badKind => 1
  | .badFlags => 2
  | .badShape => 3
  | .outOfSpan => 4
  | .overlap => 5
  | .alreadyMapped => 6
  | .badSource => 7
  | .badIndex => 8
  | .duplicate => 9
  | .parity => 10

/-- A notice source: its kind and, where the kind has one, its index (Table 4-1, R36). -/
inductive Source where
  | watch (w : WinId)
  | ringData (r : RingId)
  | ringSpace (r : RingId)
  | ringFault (r : RingId)
  | lockGrant
  | lockLost
  | chanDone (c : ChanId)
  | chanMark (c : ChanId)
  | signal (p : PortId)
  | refusal
  | parity
  | table
  deriving DecidableEq, Repr

/-- The source kind's code (Table 11-11). -/
def Source.code : Source → Nat
  | .watch _ => 1
  | .ringData _ => 2
  | .ringSpace _ => 3
  | .ringFault _ => 4
  | .lockGrant => 5
  | .lockLost => 6
  | .chanDone _ => 7
  | .chanMark _ => 8
  | .signal _ => 9
  | .refusal => 10
  | .parity => 11
  | .table => 12

/-- Channel status (Table 11-12). -/
inductive Status where
  | none
  | done
  | aborted
  | mismatch
  | parity
  | leaseLost
  | ringReset
  | dropped
  | badDescriptor
  deriving DecidableEq, Repr

/-- The status code (Table 11-12). -/
def Status.code : Status → Nat
  | .none => 0
  | .done => 1
  | .aborted => 2
  | .mismatch => 3
  | .parity => 4
  | .leaseLost => 5
  | .ringReset => 6
  | .dropped => 7
  | .badDescriptor => 8

/-- Channel states (R113). -/
inductive ChanState where
  | idle
  | lockWait
  | run
  | stall
  | fetch
  deriving DecidableEq, Repr

/-- The channel state's code (Table 11-8). -/
def ChanState.code : ChanState → Nat
  | .idle => 0
  | .lockWait => 1
  | .run => 2
  | .stall => 3
  | .fetch => 4

/-! ## Notice controllers (R35) -/

/-- The binding of a slot (R35). -/
structure Binding where
  source : Source
  level : Level
  deriving DecidableEq, Repr

/-- What a pending latched slot holds (R35, R38). -/
structure Notice where
  detail : Word
  repeated : Bool
  deriving DecidableEq, Repr

/-- A slot: its binding, and the notice of a pending latched slot. A level slot's pending flag is a function of
the state (R39, `slotPending`). -/
structure Slot where
  binding : Option Binding
  notice : Option Notice
  deriving DecidableEq, Repr

/-- An in-service entry: the slot and its level-at-take (R51). -/
structure InService where
  slot : SlotId
  level : Level
  deriving DecidableEq, Repr

/-- The taken record's contents: the source of the taken notice and its detail (R50). -/
structure Taken where
  source : Source
  detail : Word
  deriving DecidableEq, Repr

/-- A notice controller (R35). Its two mode flags have their home in H1 (R58). -/
structure Controller where
  slots : Vector Slot 16
  mask : Word
  threshold : Fin 5
  inService : List InService
  rotation : SlotId
  taken : Option Taken
  deriving DecidableEq, Repr

/-! ## Ports (R1 to R3, R18, R168) -/

/-- What a cycle in progress waits for; from `memory` on it carries the classification made on arrival (R5). -/
inductive CycleWait where
  /-- Held on an OFF port, not yet classified (R1). -/
  | unclassified
  /-- In the hands of the access path or of the owner that answers it at once. -/
  | arriving
  /-- Its request is presented or its access is in progress (R16). -/
  | memory
  /-- Its redirected access of ring `r` is issued (R70, R79). -/
  | ringAccess (r : RingId)
  /-- In the hold list of ring `r` (R68). -/
  | ringHold (r : RingId)
  /-- In the stall queue of ring `r` (R74). -/
  | ringStall (r : RingId)
  /-- The opened post awaiting issue of ring `r` (R76). -/
  | ringAwait (r : RingId)
  /-- A DROP_PORT `n` write whose teardown is not complete (R9). -/
  | control (n : PortId)
  /-- A LOCK_FREE write that has stopped channel `c`, whose stop is pending (R132). -/
  | lockFree (c : ChanId)
  deriving DecidableEq, Repr

/-- A cycle in progress (R1, R2). `strobe`: the master still asserts its strobe. -/
structure Cycle where
  dir : Dir
  addr : Addr
  data : Word
  strobe : Bool
  wait : CycleWait
  deriving DecidableEq, Repr

/-- An occupied refusal record (R18). -/
structure RefusalRec where
  addr : Addr
  kind : Dir
  reason : Reason
  further : Bool
  deriving DecidableEq, Repr

/-- How a port's last cycle came to its end (R2, R3): the model's own record (log 21). -/
inductive CycleEnd where
  | read (w : Word)
  | write
  | abandoned
  deriving DecidableEq, Repr

/-- What caused the teardown in progress (R178, R179). -/
inductive TeardownCause where
  | prstn
  | drop
  deriving DecidableEq, Repr

/-- One master port with its share of the access path and of start-up control. -/
structure Port where
  state : PortState
  prstn : Bool
  dropped : Bool
  cycle : Option Cycle
  refusal : Option RefusalRec
  pd : Option Word
  last : Option CycleEnd
  teardown : Option TeardownCause
  deriving DecidableEq, Repr

/-! ## Shadow (R151) -/

/-- The fields that a window's control word carries (Table 11-9). -/
structure WinCtl where
  kind : BitVec 3
  link : BitVec 4
  count : BitVec 5
  onWrite : Bool
  onRead : Bool
  changedOnly : Bool
  deriving DecidableEq, Repr

/-- A window entry: the live part (`valid`, `data`, `ctl`), the staged part, and the sweep's damage mark
(R155, R167). -/
structure WinEntry where
  valid : Bool
  data : Vector Word 3
  ctl : WinCtl
  staged : Vector (Option Word) 3
  damaged : Bool
  deriving DecidableEq, Repr

/-- A ring record: live configuration (`data`, `enable`), staged part, damage mark (R159, R167). -/
structure RingRec where
  data : Vector Word 7
  enable : Bool
  staged : Vector (Option Word) 7
  damaged : Bool
  deriving DecidableEq, Repr

/-! ## Rings (R66) -/

/-- A post assembly (R66). -/
structure PostAsm where
  owner : Claimant
  words : Nat
  deriving DecidableEq, Repr

/-- A take assembly (R66). -/
structure TakeAsm where
  owner : PortId
  words : Nat
  deriving DecidableEq, Repr

/-- A post: its claimant and word. `live`: a channel's post still counts for the channel's run; a ring reset
that stops the channel makes it false (R131, log 24). -/
structure Post where
  who : Claimant
  word : Word
  live : Bool
  deriving DecidableEq, Repr

/-- A stall queue entry: the held post and, for a port entry, the remaining ticks (R75); 0 ticks: the expiry is
due (log 5). -/
structure StallEntry where
  post : Post
  ticks : Option Nat
  deriving DecidableEq, Repr

/-- An item of the hold list (R68). -/
inductive HoldItem where
  | post (q : Post)
  | take (p : PortId)
  deriving DecidableEq, Repr

/-- The access in flight of a ring: claimant and word (`post`), direction and storage address (R66); whether it
still belongs to an assembly (R90, R92); whether it has been presented at the arbiter (R126); whether its channel leaves
the ring when it has completed (R87, log 24). -/
structure InFlight where
  post : Post
  dir : Dir
  addr : Addr
  attached : Bool
  presented : Bool
  leaving : Bool
  deriving DecidableEq, Repr

/-- The dynamic part of a ring (R66). -/
structure Ring where
  head : Nat
  tail : Nat
  count : Nat
  postAsm : Option PostAsm
  takeAsm : Option TakeAsm
  stall : List StallEntry
  inFlight : Option InFlight
  hold : List HoldItem
  awaiting : Option Post
  deriving DecidableEq, Repr

/-! ## Locks (R94) -/

/-- A lock: FREE when it has no holder; `timer` is the lease timer, absent when not running, 0 when the expiry
is due (log 5). -/
structure Lock where
  holder : Option Claimant
  waiters : List Claimant
  timer : Option Nat
  deriving DecidableEq, Repr

/-! ## Channels (R113) -/

/-- The working fields of a channel, which are also the contents of a descriptor (R113, R127). -/
structure Desc where
  src : Addr
  dst : Addr
  count : Word
  data : Word
  link : Addr
  mode : Word
  deriving DecidableEq, Repr

/-- A transfer channel (R113). -/
structure Chan where
  desc : Desc
  state : ChanState
  last : Status
  owner : Option PortId
  descCount : BitVec 8
  fetchBuf : List Word
  holding : Option Word
  wordsDone : Nat
  stopPending : Option Status
  deriving DecidableEq, Repr

/-! ## Memory port (R137 to R146) -/

/-- The kind of an access, with the word to be written (R137). -/
inductive AccKind where
  | read
  | write (w : Word)
  | pair (w : Word)
  deriving DecidableEq, Repr

/-- What the watch unit takes when an access is issued (R23). -/
structure WatchTag where
  win : WinId
  offset : Word
  target : PortId
  onWrite : Bool
  onRead : Bool
  changedOnly : Bool
  deriving DecidableEq, Repr

/-- Which of a channel's accesses an access is (Table 7-4, R123, R127). -/
inductive ChanStep where
  | srcRead
  | dstRead
  | dstWrite
  | sumWrite
  | fetchRead
  deriving DecidableEq, Repr

/-- The block that an access's result passes to (R137). -/
inductive Issuer where
  /-- A cycle passing to memory (R16). -/
  | port (p : PortId)
  /-- The redirected access of ring `r` (R70, R79). -/
  | ring (r : RingId)
  /-- A channel's own access. -/
  | chan (c : ChanId) (step : ChanStep)
  /-- Clear write number `i` (R170). -/
  | clear (i : Nat)
  /-- Sweep read number `i` (R175). -/
  | sweep (i : Nat)
  /-- An access granted before a warm reset: it completes and its result is discarded (R149). -/
  | stale
  deriving DecidableEq, Repr

/-- A request at the arbiter (R138). `abandoned`: its result is discarded (R3, R131). -/
structure Request where
  kind : AccKind
  addr : Addr
  code : Nat
  issuer : Issuer
  watch : Option WatchTag
  abandoned : Bool
  deriving DecidableEq, Repr

/-- A word of memory with its stored parity bit MDP (R142). -/
structure MemCell where
  word : Word
  par : Bool
  deriving DecidableEq, Repr

/-- The access in progress (R137): the granted request and, for a pair, the old word with its parity verdict
(`true`: parity error). -/
structure Access where
  req : Request
  old : Option (Word × Bool)
  deriving DecidableEq, Repr

/-- An occupied fault record (R146). -/
structure FaultRec where
  addr : Addr
  code : Nat
  further : Bool
  deriving DecidableEq, Repr

/-- The shared SRAM: the words written since power-on, by address; an unlisted word is undefined (log 1,
log 22). -/
abbrev Memory := List (Nat × MemCell)

/-! ## The state -/

/-- The state of the part, the SRAM behind it and the queue of commands. -/
structure State where
  part : PartState
  ponn : Bool
  rstn : Bool
  kind : ResetKind
  ports : Vector Port 4
  ctls : Vector Controller 4
  header : Vector Word 4
  windows : Vector WinEntry 32
  recs : Vector RingRec 8
  leases : Vector Word 16
  tick : Nat
  rings : Vector Ring 8
  locks : Vector Lock 16
  chans : Vector Chan 4
  lastChan : ChanId
  reqs : Vector (Option Request) 5
  inProg : Option Access
  lastGrant : Fin 5
  fault : Option FaultRec
  mem : Memory
  powerOns : Nat
  freeUse : Nat
  pending : List Instr
  deriving DecidableEq, Repr

/-- Reasons for which a step can stop with a fault. There are none: the part answers illegal programming with a
refusal record, a notice, a status or a fault record, and goes on (log 28). -/
inductive Fault where
  deriving DecidableEq, Repr

/-- Reasons for which a command has no answer. -/
inductive Refusal where
  /-- The command has no meaning in this model yet. Raised by `exec`'s arm of that command; safe. -/
  | notModelled (mnemonic : String)
  deriving DecidableEq, Repr

/-! ## Reset values -/

/-- An unbound slot that is not pending (R61). -/
def Slot.empty : Slot := { binding := none, notice := none }

/-- A controller after power-on (R61). -/
def Controller.reset : Controller :=
  { slots := Vector.replicate 16 Slot.empty, mask := 0xFFFF#16, threshold := 4, inService := [], rotation := 0,
    taken := none }

/-- A port in power-on reset (R169, R22, R181); PRSTN is an input (log 2). -/
def Port.reset : Port :=
  { state := .off, prstn := true, dropped := false, cycle := none, refusal := none, pd := none, last := none,
    teardown := none }

/-- The control fields of kind NONE (R166). -/
def WinCtl.none : WinCtl :=
  { kind := 0, link := 0, count := 0, onWrite := false, onRead := false, changedOnly := false }

/-- An INVALID window entry (R166). -/
def WinEntry.reset : WinEntry :=
  { valid := false, data := Vector.replicate 3 0#16, ctl := WinCtl.none, staged := Vector.replicate 3 .none,
    damaged := false }

/-- A disabled ring record (R166). -/
def RingRec.reset : RingRec :=
  { data := Vector.replicate 7 0#16, enable := false, staged := Vector.replicate 7 .none, damaged := false }

/-- A ring's dynamic part after power-on (R93). -/
def Ring.reset : Ring :=
  { head := 0, tail := 0, count := 0, postAsm := none, takeAsm := none, stall := [], inFlight := none, hold := [],
    awaiting := none }

/-- A FREE lock (R112). -/
def Lock.reset : Lock := { holder := none, waiters := [], timer := none }

/-- Working fields of 0 (R136). -/
def Desc.zero : Desc := { src := 0, dst := 0, count := 0, data := 0, link := 0, mode := 0 }

/-- A channel after power-on (R136). -/
def Chan.reset : Chan :=
  { desc := Desc.zero, state := .idle, last := .none, owner := none, descCount := 0, fetchBuf := [], holding := none,
    wordsDone := 0, stopPending := none }

/-- The machine in power-on reset, with PONN low (R169): every block at its power-on value. The clear begins when
PONN goes high (R170). -/
def State.reset : State :=
  { part := .coldClear, ponn := false, rstn := true, kind := .cold,
    ports := Vector.replicate 4 Port.reset,
    ctls := Vector.replicate 4 Controller.reset,
    header := Vector.replicate 4 0#16,
    windows := Vector.replicate 32 WinEntry.reset,
    recs := Vector.replicate 8 RingRec.reset,
    leases := Vector.replicate 16 0#16,
    tick := 0,
    rings := Vector.replicate 8 Ring.reset,
    locks := Vector.replicate 16 Lock.reset,
    chans := Vector.replicate 4 Chan.reset,
    lastChan := 3,
    reqs := Vector.replicate 5 none,
    inProg := none,
    lastGrant := 4,
    fault := none,
    mem := [],
    powerOns := 0,
    freeUse := 0,
    pending := [] }

end Sys2Proof.Machine
end

