-- ==== Sys2Proof/Machine/Operands.lean ====
section
/-! DEFINITION. The layouts of words (file 10): the fields that the part reads out of written and stored words, and the
words that it forms in answer to reads. -/

namespace Sys2Proof.Machine

/-! ## Numbers of objects -/

/-- All ports, in order. -/
def allPorts : List PortId := [0, 1, 2, 3]

/-- All channels, in order. -/
def allChans : List ChanId := [0, 1, 2, 3]

/-- All rings, in order. -/
def allRings : List RingId := [0, 1, 2, 3, 4, 5, 6, 7]

/-- All slots, in order. -/
def allSlots : List SlotId := [0, 1, 2, 3, 4, 5, 6, 7, 8, 9, 10, 11, 12, 13, 14, 15]

/-- All locks, in order. -/
def allLocks : List LockId := [0, 1, 2, 3, 4, 5, 6, 7, 8, 9, 10, 11, 12, 13, 14, 15]

/-- All window entries, in order. -/
def allWins : List WinId :=
  [0, 1, 2, 3, 4, 5, 6, 7, 8, 9, 10, 11, 12, 13, 14, 15] ++ [16, 17, 18, 19, 20, 21, 22, 23, 24, 25, 26, 27, 28, 29, 30, 31]

/-- The bits `lo` to `lo + n - 1` of a word as a number. -/
def field (w : Word) (lo n : Nat) : Nat := w.toNat / 2 ^ lo % 2 ^ n

/-- Bit `i` of a word. -/
def bit (w : Word) (i : Nat) : Bool := w.getLsbD i

/-- The word with bit `i` set exactly where `f` holds (section 11.1: bit s stands for slot s). -/
def wordOfSlots (f : SlotId → Bool) : Word :=
  BitVec.ofNat 16 (allSlots.foldr (fun i n => n + (if f i then 2 ^ i.val else 0)) 0)

/-- An 18-bit address from bits 17–16 and bits 15–0. -/
def addrOf (hi : Nat) (lo : Word) : Addr := BitVec.ofNat 18 (hi % 4 * 65536 + lo.toNat)

/-- Address bits 15–0. -/
def addrLo (a : Addr) : Word := BitVec.ofNat 16 (a.toNat % 65536)

/-- Address bits 17–16. -/
def addrHi (a : Addr) : Nat := a.toNat / 65536

/-! ## Ranges of addresses -/

/-- The address range of `len` words from `base`. -/
structure Range where
  base : Nat
  len : Nat
  deriving DecidableEq, Repr

/-- The range holds the address. -/
def Range.has (g : Range) (a : Nat) : Bool := decide (g.base ≤ a) && decide (a < g.base + g.len)

/-- The ranges have a word in common. -/
def Range.meets (g h : Range) : Bool :=
  decide (0 < g.len) && decide (0 < h.len) && decide (g.base < h.base + h.len) && decide (h.base < g.base + g.len)

/-- Every word of the range lies in the span (00_scope 1.6). -/
def Range.inSpan (g : Range) : Bool := decide (g.base + g.len ≤ Config.portWindowBase)

/-! ## Header (Table 11-9) -/

/-- Header enable, H0 bit 0 (R6). -/
def State.headerEnable (s : State) : Bool := bit s.header[(0 : Fin 4)] 0

/-- The auto-end flag of port `p`, H1 bit 2p (R58). -/
def State.autoEnd (s : State) (p : PortId) : Bool := bit s.header[(1 : Fin 4)] (2 * p.val)

/-- The rotating flag of port `p`, H1 bit 2p + 1 (R58). -/
def State.rotating (s : State) (p : PortId) : Bool := bit s.header[(1 : Fin 4)] (2 * p.val + 1)

/-- Channel rotate, H2 bit 0 (R126). -/
def State.chanRotate (s : State) : Bool := bit s.header[(2 : Fin 4)] 0

/-- CLK periods in one tick: 256 × (PRESCALE + 1), PRESCALE from H3 (R154). -/
def State.tickLength (s : State) : Nat := 256 * ((s.header[(3 : Fin 4)]).toNat + 1)

/-! ## Window entries (Table 11-9) -/

/-- Window kinds that name a meaning. -/
inductive WinKind where
  | plain
  | watch
  | ring
  | lock
  | channel
  deriving DecidableEq, Repr

/-- The control fields of a written control word. -/
def winCtlOf (v : Word) : WinCtl :=
  { kind := BitVec.ofNat 3 (field v 0 3), link := BitVec.ofNat 4 (field v 4 4), count := BitVec.ofNat 5 (field v 8 5),
    onWrite := bit v 13, onRead := bit v 14, changedOnly := bit v 15 }

/-- The kind; none for NONE and for the unknown codes 6 and 7. -/
def WinCtl.winKind (c : WinCtl) : Option WinKind :=
  match c.kind.toNat with
  | 1 => some .plain
  | 2 => some .watch
  | 3 => some .ring
  | 4 => some .lock
  | 5 => some .channel
  | _ => Option.none

/-- A window's base: bits 15–0 in word 0, bits 17–16 in word 2. -/
def winBase (d : Vector Word 3) : Nat := field d[(2 : Fin 3)] 0 2 * 65536 + (d[(0 : Fin 3)]).toNat

/-- A window's length; 0 names 65536. -/
def winLen (d : Vector Word 3) : Nat := if (d[(1 : Fin 3)]).toNat = 0 then 65536 else (d[(1 : Fin 3)]).toNat

/-- A window's address range. -/
def winRange (d : Vector Word 3) : Range := { base := winBase d, len := winLen d }

/-- Port `p` is in the read set, word 2 bit 4 + p. -/
def inReadSet (d : Vector Word 3) (p : PortId) : Bool := bit d[(2 : Fin 3)] (4 + p.val)

/-- Port `p` is in the write set, word 2 bit 8 + p. -/
def inWriteSet (d : Vector Word 3) (p : PortId) : Bool := bit d[(2 : Fin 3)] (8 + p.val)

/-- A number below 4 as a port number. -/
def portOfNat (n : Nat) : PortId := Fin.ofNat 4 n

/-- The target port, word 2 bits 13–12. -/
def winTarget (d : Vector Word 3) : PortId := portOfNat (field d[(2 : Fin 3)] 12 2)

/-! ## Ring records (Table 11-9) -/

/-- Storage base. -/
def RingRec.base (r : RingRec) : Nat := field r.data[(1 : Fin 7)] 0 2 * 65536 + (r.data[(0 : Fin 7)]).toNat

/-- Entry size field, word 1 bits 6–4. -/
def RingRec.entrySize (r : RingRec) : Nat := field r.data[(1 : Fin 7)] 4 3

/-- Capacity, word 2. -/
def RingRec.capacity (r : RingRec) : Nat := (r.data[(2 : Fin 7)]).toNat

/-- Watermark, word 3. -/
def RingRec.watermark (r : RingRec) : Nat := (r.data[(3 : Fin 7)]).toNat

/-- Stall limit, word 4. -/
def RingRec.stallLimit (r : RingRec) : Nat := (r.data[(4 : Fin 7)]).toNat

/-- Full policy field, word 5 bits 1–0: 0 REFUSE, 1 STALL. -/
def RingRec.policy (r : RingRec) : Nat := field r.data[(5 : Fin 7)] 0 2

/-- Consumer port, word 6 bits 1–0. -/
def RingRec.consumer (r : RingRec) : PortId := portOfNat (field r.data[(6 : Fin 7)] 0 2)

/-- Producer port, word 6 bits 5–4. -/
def RingRec.producer (r : RingRec) : PortId := portOfNat (field r.data[(6 : Fin 7)] 4 2)

/-- The storage of a ring: capacity × entry size words from the base (R65). -/
def RingRec.storage (r : RingRec) : Range := { base := r.base, len := r.capacity * r.entrySize }

/-- Word `k` of entry `i` (R65, R67). -/
def RingRec.wordAddr (r : RingRec) (i k : Nat) : Addr := BitVec.ofNat 18 (r.base + i * r.entrySize + k)

/-! ## Bindings (Table 11-9, Table 11-11) -/

/-- The source that a kind code and an index name: `none` for unbound, otherwise the source or the reason
for which it is rejected (R163 checks 1 and 2). -/
def sourceOf (kind idx : Nat) : Except TableReason (Option Source) :=
  match kind with
  | 0 => .ok none
  | 1 => if h : idx < 32 then .ok (some (.watch ⟨idx, h⟩)) else .error .badIndex
  | 2 => if h : idx < 8 then .ok (some (.ringData ⟨idx, h⟩)) else .error .badIndex
  | 3 => if h : idx < 8 then .ok (some (.ringSpace ⟨idx, h⟩)) else .error .badIndex
  | 4 => if h : idx < 8 then .ok (some (.ringFault ⟨idx, h⟩)) else .error .badIndex
  | 5 => if idx = 0 then .ok (some .lockGrant) else .error .badIndex
  | 6 => if idx = 0 then .ok (some .lockLost) else .error .badIndex
  | 7 => if h : idx < 4 then .ok (some (.chanDone ⟨idx, h⟩)) else .error .badIndex
  | 8 => if h : idx < 4 then .ok (some (.chanMark ⟨idx, h⟩)) else .error .badIndex
  | 9 => if h : idx < 4 then .ok (some (.signal ⟨idx, h⟩)) else .error .badIndex
  | 10 => if idx = 0 then .ok (some .refusal) else .error .badIndex
  | 11 => if idx = 0 then .ok (some .parity) else .error .badIndex
  | 12 => if idx = 0 then .ok (some .table) else .error .badIndex
  | _ => .error .badSource

/-- The level field of a binding word, bits 13–12. -/
def levelOf (v : Word) : Level := Fin.ofNat 4 (field v 12 2)

/-- The binding that a binding word names, or the reason for its rejection (R163 checks 1 and 2). -/
def bindingOf (v : Word) : Except TableReason (Option Binding) :=
  match sourceOf (field v 8 4) (field v 0 5) with
  | .ok none => .ok none
  | .ok (some src) => .ok (some { source := src, level := levelOf v })
  | .error e => .error e

/-- RING-DATA is the level-triggered kind (R39). -/
def Source.isLevel : Source → Bool
  | .ringData _ => true
  | _ => false

/-! ## Channel fields (Tables 11-6 and 11-7) -/

/-- The five operations (Table 7-1). -/
inductive Op where
  | copy
  | verify
  | fill
  | sum
  | feed
  deriving DecidableEq, Repr

/-- The operation, MODE bits 2–0; none for an unknown code. -/
def Desc.op (d : Desc) : Option Op :=
  match field d.mode 0 3 with
  | 1 => some .copy
  | 2 => some .verify
  | 3 => some .fill
  | 4 => some .sum
  | 5 => some .feed
  | _ => none

/-- The link flag, MODE bit 3. -/
def Desc.linkFlag (d : Desc) : Bool := bit d.mode 3

/-- The lock that the descriptor names: MODE bits 11–8 when bit 4, the lock-use flag, is set. -/
def Desc.lock (d : Desc) : Option LockId := if bit d.mode 4 then some (Fin.ofNat 16 (field d.mode 8 4)) else none

/-- The result target is DST, MODE bit 5 clear. -/
def Desc.toDst (d : Desc) : Bool := !bit d.mode 5

/-- The mark interval, MODE bits 14–12: `some 0` for OFF, none for an unknown code. -/
def Desc.mark (d : Desc) : Option Nat :=
  match field d.mode 12 3 with
  | 0 => some 0
  | 1 => some 16
  | 2 => some 32
  | 3 => some 64
  | 4 => some 128
  | 5 => some 256
  | _ => none

/-- The number of words that COUNT names (R114). -/
def Desc.length (d : Desc) : Nat := if d.count.toNat = 0 then 65536 else d.count.toNat

/-- The ring that a FEED descriptor's DATA names: the whole word, 0 to 7 (section 11.2). -/
def Desc.ring (d : Desc) : Option RingId := if h : d.data.toNat < 8 then some ⟨d.data.toNat, h⟩ else none

/-- Channel word `k` (0 to 6) as it reads back (R115, Table 11-6). -/
def Desc.word (d : Desc) (k : Nat) : Word :=
  match k with
  | 0 => addrLo d.src
  | 1 => addrLo d.dst
  | 2 => BitVec.ofNat 16 (addrHi d.src + 16 * addrHi d.dst + 256 * addrHi d.link)
  | 3 => d.count
  | 4 => d.data
  | 5 => addrLo d.link
  | _ => d.mode

/-- Channel word `k` (0 to 6) written with `v` (R116, Table 11-6); HI's unassigned bits are discarded and MODE
is stored whole (R182). -/
def Desc.setWord (d : Desc) (k : Nat) (v : Word) : Desc :=
  match k with
  | 0 => { d with src := addrOf (addrHi d.src) v }
  | 1 => { d with dst := addrOf (addrHi d.dst) v }
  | 2 => { d with src := addrOf (field v 0 2) (addrLo d.src), dst := addrOf (field v 4 2) (addrLo d.dst),
                  link := addrOf (field v 8 2) (addrLo d.link) }
  | 3 => { d with count := v }
  | 4 => { d with data := v }
  | 5 => { d with link := addrOf (addrHi d.link) v }
  | _ => { d with mode := v }

/-- The descriptor that seven words read from LINK upward give: what writing them to words 0 to 6 would give
(section 11.2). -/
def descOfWords (ws : List Word) : Desc :=
  (ws.foldl (fun (kd : Nat × Desc) w => (kd.1 + 1, kd.2.setWord kd.1 w)) (0, Desc.zero)).2

/-- Ranges, with the right needed, that an operation uses over `n` words (Table 7-3); `Dir.read` is the read right. -/
def Desc.ranges (d : Desc) : List (Range × Dir) :=
  match d.op with
  | some .copy => [({ base := d.src.toNat, len := d.length }, .read), ({ base := d.dst.toNat, len := d.length }, .write)]
  | some .verify => [({ base := d.src.toNat, len := d.length }, .read), ({ base := d.dst.toNat, len := d.length }, .read)]
  | some .fill => [({ base := d.dst.toNat, len := d.length }, .write)]
  | some .sum =>
    ({ base := d.src.toNat, len := d.length }, .read) ::
      (if d.toDst then [({ base := d.dst.toNat, len := 1 }, .write)] else [])
  | some .feed => [({ base := d.src.toNat, len := d.length }, .read)]
  | none => []

/-! ## Words formed in answer to reads -/

/-- TAKE and PEEK (Table 11-1). -/
def takeWord (slot : SlotId) (level : Level) (repeated : Bool) (src : Source) : Word :=
  BitVec.ofNat 16 (slot.val + 16 * level.val + (if repeated then 128 else 0) + 256 * src.code)

/-- REFUSAL-A (Table 11-3). -/
def refusalA : Option RefusalRec → Word
  | none => 0
  | some r => addrLo r.addr

/-- REFUSAL-B (Table 11-3). -/
def refusalB : Option RefusalRec → Word
  | none => 0
  | some r =>
    BitVec.ofNat 16 (addrHi r.addr + 256 * r.reason.code + (if r.kind = .write then 8192 else 0)
      + (if r.further then 16384 else 0) + 32768)

/-- FAULT-A (Table 11-5). -/
def faultA : Option FaultRec → Word
  | none => 0
  | some r => addrLo r.addr

/-- FAULT-B (Table 11-5). -/
def faultB : Option FaultRec → Word
  | none => 0
  | some r => BitVec.ofNat 16 (addrHi r.addr + 256 * r.code + (if r.further then 16384 else 0) + 32768)

/-- IDENT (Table 11-4); the revision code is 1. -/
def identWord (p : PortId) (k : ResetKind) (dropped : Bool) : Word :=
  BitVec.ofNat 16 (p.val + 16 + (if k = .warm then 256 else 0) + (if dropped then 512 else 0))

/-- The lock result word (section 11.2, R96): the code, and the holder after the read or FFH. -/
def lockWord (code : Nat) (holder : Option Claimant) : Word :=
  BitVec.ofNat 16 (code + 256 * (match holder with | some c => c.code | none => 255))

/-- The state word of a channel (Table 11-8). -/
def Chan.stateWord (k : Chan) : Word :=
  BitVec.ofNat 16 (k.descCount.toNat + 256 * (match k.owner with | some p => p.val | none => 0)
    + 1024 * (9 * k.state.code + k.last.code))

/-- The LOCK-LOST detail (Table 11-2): bit 15 set for FORCED. -/
def lockLostDetail (l : LockId) (forced : Bool) : Word := BitVec.ofNat 16 (l.val + (if forced then 32768 else 0))

/-- The TABLE detail (Table 11-2): the table word index and the reason. -/
def tableDetail (idx : Nat) (r : TableReason) : Word := BitVec.ofNat 16 (idx % 512 + 4096 * r.code)

end Sys2Proof.Machine
end

