-- ==== Sys2Proof/Machine/Flags.lean ====
section
/-! DEFINITION. The conditions that the manual derives from the state: pending and eligible slots, the selection of TAKE
and PEEK, the output lines, the rings' conditions, rights and ranges. -/

namespace Sys2Proof.Machine

/-! ## Rings -/

/-- The data condition (R39, R83): the ring is enabled and its count is at or above its watermark. -/
def State.dataCond (s : State) (r : RingId) : Bool :=
  s.recs[r].enable && decide (s.recs[r].watermark ≤ s.rings[r].count)

/-- The opening condition (R69): count below capacity and no post assembly. -/
def State.openingCond (s : State) (r : RingId) : Bool :=
  decide (s.rings[r].count < s.recs[r].capacity) && s.rings[r].postAsm.isNone

/-- The free count (R81). -/
def State.freeCount (s : State) (r : RingId) : Nat :=
  s.recs[r].capacity - s.rings[r].count - (if s.rings[r].postAsm.isSome then 1 else 0)

/-! ## Notice controllers -/

/-- The slot is pending (R39 for a level slot, R38 for a latched one; an unbound slot is not pending). -/
def State.slotPending (s : State) (p : PortId) (i : SlotId) : Bool :=
  match s.ctls[p].slots[i].binding with
  | none => false
  | some b =>
    match b.source with
    | .ringData r => decide (s.ports[p].state = .up) && decide (s.recs[r].consumer = p) && s.dataCond r
    | _ => s.ctls[p].slots[i].notice.isSome

/-- The slot's repeated flag; a level slot is never repeated (R39). -/
def State.slotRepeated (s : State) (p : PortId) (i : SlotId) : Bool :=
  match s.ctls[p].slots[i].binding with
  | none => false
  | some b => !b.source.isLevel && s.ctls[p].slots[i].notice.any (·.repeated)

/-- The level is below every level-at-take in service (R43 condition 6). -/
def belowInService (l : Level) (es : List InService) : Bool := es.all fun e => decide (l < e.level)

/-- The slot is eligible (R43). -/
def State.eligible (s : State) (p : PortId) (i : SlotId) : Bool :=
  match s.ctls[p].slots[i].binding with
  | none => false
  | some b =>
    s.slotPending p i && !bit s.ctls[p].mask i.val && (s.ctls[p].inService.all fun e => decide (e.slot ≠ i))
      && decide (b.level.val < s.ctls[p].threshold.val) && belowInService b.level s.ctls[p].inService

/-- The search order (R45): fixed from slot 0, or rotating from the slot after the rotation pointer. -/
def State.searchOrder (s : State) (p : PortId) : List SlotId :=
  if s.rotating p then allSlots.map fun k => s.ctls[p].rotation + 1 + k else allSlots

/-- The slot is eligible at this level. -/
def State.eligibleAt (s : State) (p : PortId) (l : Level) (i : SlotId) : Bool :=
  s.eligible p i && (match s.ctls[p].slots[i].binding with | some b => decide (b.level = l) | none => false)

/-- The selection of TAKE and PEEK (R45): the lowest level number first, then the search order. -/
def State.selected (s : State) (p : PortId) : Option SlotId :=
  [(0 : Level), 1, 2, 3].findSome? fun l => (s.searchOrder p).find? (s.eligibleAt p l)

/-- The word that a TAKE or PEEK read returns (R46, R47, R49). -/
def State.takeAnswer (s : State) (p : PortId) : Word :=
  match s.selected p with
  | none => Config.noneWord
  | some i =>
    match s.ctls[p].slots[i].binding with
    | some b => takeWord i b.level (s.slotRepeated p i) b.source
    | none => Config.noneWord

/-- PNTFN is asserted: the port is UP and a slot is eligible (R44). -/
def State.pntfn (s : State) (p : PortId) : Bool :=
  decide (s.ports[p].state = .up) && allSlots.any (s.eligible p)

/-- PWAITN is asserted: a cycle of the port is held (R2; log 21). -/
def State.pwaitn (s : State) (p : PortId) : Bool := s.ports[p].cycle.isSome

/-! ## Parity (R142, R143) -/

/-- The number of ones of a word is odd. -/
def oddOnes (w : Word) : Bool := (List.range 16).foldl (fun b i => xor b (w.getLsbD i)) false

/-- The parity bit that makes the number of ones of the word and the bit together odd (R142). -/
def parityFor (w : Word) : Bool := !oddOnes w

/-! ## The memory port's pins (R137) -/

/-- The word that the access is writing: a single write, or a pair whose read half has been made. -/
def Access.writing (a : Access) : Option Word :=
  match a.req.kind with
  | .read => none
  | .write w => some w
  | .pair w => if a.old.isSome then some w else none

/-- MWEN is asserted: the access in progress is a single write or the write of a pair. -/
def State.mwen (s : State) : Bool := s.inProg.any fun a => a.writing.isSome

/-- MOEN is asserted: the access in progress is a single read or the read of a pair. -/
def State.moen (s : State) : Bool := s.inProg.any fun a => a.writing.isNone

/-- The address on MA, while an access is in progress (log 21). -/
def State.ma (s : State) : Option Addr := s.inProg.map (·.req.addr)

/-- The word that the part drives on MD: that of a write; none while it drives nothing. -/
def State.md (s : State) : Option Word := s.inProg.bind (·.writing)

/-- The bit that the part drives on MDP with the word on MD (R142). -/
def State.mdp (s : State) : Option Bool := s.md.map parityFor

/-! ## Windows and rights -/

/-- The VALID window that holds the address, whatever the header enable. -/
def State.windowAt (s : State) (a : Nat) : Option WinId :=
  allWins.find? fun w => s.windows[w].valid && (winRange s.windows[w].data).has a

/-- The enabled ring whose storage holds the address (R11). -/
def State.storageAt (s : State) (a : Nat) : Option RingId :=
  allRings.find? fun r => s.recs[r].enable && (s.recs[r].storage).has a

/-- What the watch unit takes for an access at `a` through WATCH window `w` (R23). -/
def State.watchTag (s : State) (w : WinId) (a : Nat) : WatchTag :=
  { win := w, offset := BitVec.ofNat 16 (a - winBase s.windows[w].data), target := winTarget s.windows[w].data,
    onWrite := s.windows[w].ctl.onWrite, onRead := s.windows[w].ctl.onRead,
    changedOnly := s.windows[w].ctl.changedOnly }

/-- The watch unit's look-up for a channel write (R29). -/
def State.watchLookup (s : State) (a : Nat) : Option WatchTag :=
  if s.headerEnable then
    match s.windowAt a with
    | some w => if s.windows[w].ctl.winKind = some .watch then some (s.watchTag w a) else none
    | none => none
  else none

/-- The port holds the right over the window's words. -/
def hasRight (d : Vector Word 3) (p : PortId) : Dir → Bool
  | .read => inReadSet d p
  | .write => inWriteSet d p

/-- Checks 2 to 4 of R118 for one range: it lies in the span; it meets no storage of an enabled ring and no VALID
window of kind RING, LOCK or CHANNEL; where header enable is 1, the port has the right over every VALID PLAIN or WATCH
window that it meets. -/
def State.rangeOk (s : State) (p : PortId) (g : Range) (d : Dir) : Bool :=
  g.inSpan
  && (allRings.all fun r => !(s.recs[r].enable && (s.recs[r].storage).meets g))
  && (allWins.all fun w =>
    !(s.windows[w].valid && (winRange s.windows[w].data).meets g) ||
      (match s.windows[w].ctl.winKind with
       | some .plain => !s.headerEnable || hasRight s.windows[w].data p d
       | some .watch => !s.headerEnable || hasRight s.windows[w].data p d
       | _ => false))

/-- The VALID RING window that maps the ring (R158: at most one). -/
def State.ringWindow (s : State) (r : RingId) : Option WinId :=
  allWins.find? fun w =>
    s.windows[w].valid && decide (s.windows[w].ctl.winKind = some .ring) && decide (s.windows[w].ctl.link.toNat = r.val)

/-- The port may post to the ring (R118 check 5). -/
def State.mayPost (s : State) (p : PortId) (r : RingId) : Bool :=
  if s.headerEnable then
    match s.ringWindow r with
    | some w => inWriteSet s.windows[w].data p
    | none => decide (p = 0)
  else decide (p = 0)

/-- Check 5 of R118. -/
def State.feedOk (s : State) (p : PortId) (d : Desc) : Bool :=
  match d.ring with
  | none => false
  | some r =>
    s.recs[r].enable && decide (d.length % s.recs[r].entrySize = 0) && s.mayPost p r

/-- The validation of R118 with the rights of port `p`; `held` is the lock that the channel holds and would keep
(R128). -/
def State.descOk (s : State) (p : PortId) (held : Option LockId) (d : Desc) : Bool :=
  d.op.isSome && d.mark.isSome
  && (d.ranges.all fun g => s.rangeOk p g.1 g.2)
  && (decide (d.op ≠ some .feed) || s.feedOk p d)
  && (!d.linkFlag || s.rangeOk p { base := d.link.toNat, len := 7 } .read)
  && (match d.lock with
      | none => true
      | some l => decide (held = some l) || decide (s.locks[l].waiters.length < Config.lockQueueMax))

/-! ## Channels -/

/-- The ring's access in flight is a post write of the channel, of its present run or left by a run that a ring reset has
stopped. -/
def Ring.postInFlight (k : Ring) (c : ChanId) : Bool := k.inFlight.any fun f => decide (f.post.who = .chan c)

/-- A FEED post of the channel is issued and not complete (R131). -/
def State.postIssued (s : State) (c : ChanId) : Bool := allRings.any fun r => s.rings[r].postInFlight c

/-- The request is one of the channel's own accesses. -/
def Request.ofChan (q : Request) (c : ChanId) : Bool :=
  match q.issuer with
  | .chan c' _ => decide (c' = c)
  | _ => false

/-- An access of the channel is presented or in progress, or its post write is issued, those of a run that a ring reset has
stopped included (R131, log 24). -/
def State.chanPresented (s : State) (c : ChanId) : Bool :=
  (s.reqs[(4 : Fin 5)]).any (·.ofChan c) || s.inProg.any (·.req.ofChan c) || s.postIssued c

/-- The ring whose issued post write of the channel is not yet presented (R126). Where a ring reset has left such a write at a
second ring, the lower ring number goes first (log 18: DESIGN CHOICE). -/
def State.unpresentedPost (s : State) (c : ChanId) : Option RingId :=
  allRings.find? fun r =>
    match s.rings[r].inFlight with
    | some f => decide (f.post.who = .chan c) && !f.presented
    | none => false

/-- The next access that a running or fetching channel calls for (R121 to R124, R127). -/
def Chan.nextStep (k : Chan) : Option ChanStep :=
  match k.state with
  | .run =>
    match k.desc.op with
    | some .copy => some (if k.holding.isNone then .srcRead else .dstWrite)
    | some .verify => some (if k.holding.isNone then .srcRead else .dstRead)
    | some .fill => some .dstWrite
    | some .sum => some (if k.desc.count = 0 ∧ k.wordsDone ≠ 0 then .sumWrite else .srcRead)
    | some .feed => if k.holding.isNone then some .srcRead else none
    | none => none
  | .fetch => if k.fetchBuf.length < 7 then some .fetchRead else none
  | _ => none

/-- The channel needs an access (R126). -/
def State.needsAccess (s : State) (c : ChanId) : Bool :=
  (s.unpresentedPost c).isSome || (s.chans[c].stopPending.isNone && s.chans[c].nextStep.isSome)

/-- The transfer engine has an access presented or in progress (R126). -/
def State.engineBusy (s : State) : Bool :=
  (s.reqs[(4 : Fin 5)]).isSome || s.inProg.any fun a =>
    match a.req.issuer with
    | .chan _ _ => true
    | .ring _ => decide (4 ≤ a.req.code)
    | _ => false

/-- The order in which the transfer engine looks for a channel (R126). -/
def State.chanOrder (s : State) : List ChanId :=
  if s.chanRotate then allChans.map fun k => s.lastChan + 1 + k else allChans

/-! ## Ticks -/

/-- The lock's lease has run out and its expiry has not been taken (log 5). -/
def State.leaseDue (s : State) (l : LockId) : Bool := decide (s.locks[l].timer = some 0) && s.locks[l].holder.isSome

/-- The stall entry is one of port `p` whose ticks have run out (log 5). -/
def StallEntry.dueFor (e : StallEntry) (p : PortId) : Bool := decide (e.post.who = .port p) && decide (e.ticks = some 0)

end Sys2Proof.Machine
end

