-- ==== Sys2Proof/Machine/Ops.lean ====
section
/-! DEFINITION. The shared operations: changes of one record of the state, memory, the completion of cycles, deliveries
and refusals. -/

namespace Sys2Proof.Machine

/-! ## Changes of one record -/

/-- Change port `p`'s record. -/
def State.modPort (s : State) (p : PortId) (f : Port → Port) : State := { s with ports := upd s.ports p f }

/-- Change port `p`'s notice controller. -/
def State.modCtl (s : State) (p : PortId) (f : Controller → Controller) : State := { s with ctls := upd s.ctls p f }

/-- Change window entry `w`. -/
def State.modWin (s : State) (w : WinId) (f : WinEntry → WinEntry) : State := { s with windows := upd s.windows w f }

/-- Change ring record `r`. -/
def State.modRec (s : State) (r : RingId) (f : RingRec → RingRec) : State := { s with recs := upd s.recs r f }

/-- Change ring `r`'s dynamic part. -/
def State.modRing (s : State) (r : RingId) (f : Ring → Ring) : State := { s with rings := upd s.rings r f }

/-- Change lock `l`. -/
def State.modLock (s : State) (l : LockId) (f : Lock → Lock) : State := { s with locks := upd s.locks l f }

/-- Change channel `c`. -/
def State.modChan (s : State) (c : ChanId) (f : Chan → Chan) : State := { s with chans := upd s.chans c f }

/-- Change the request of requester `q`. -/
def State.modReq (s : State) (q : Fin 5) (f : Option Request → Option Request) : State :=
  { s with reqs := upd s.reqs q f }

/-- The arbiter's number of a port (R139: P0, P1, P2, P3, transfer engine). -/
def reqOfPort (p : PortId) : Fin 5 := p.castSucc

/-- The arbiter's number of the transfer engine (R139). -/
def reqOfEngine : Fin 5 := 4

/-! ## Memory (R137, R142, R143) -/

/-- A memory in canonical form: addresses strictly rising and inside the space (log 22). -/
def Mem.wfFrom : Nat → Memory → Bool
  | _, [] => true
  | lo, (a, _) :: m => decide (lo ≤ a) && decide (a < 262144) && Mem.wfFrom (a + 1) m

/-- The canonical form of memory. -/
def Mem.wf (m : Memory) : Bool := Mem.wfFrom 0 m

/-- The cell written at `a` since power-on, if any. -/
def Mem.get? : Memory → Nat → Option MemCell
  | [], _ => none
  | (b, c) :: m, a => if a < b then none else if a = b then some c else Mem.get? m a

/-- The memory with cell `c` at `a`. -/
def Mem.set : Memory → Nat → MemCell → Memory
  | [], a, c => [(a, c)]
  | (b, d) :: m, a, c =>
    if a < b then (a, c) :: (b, d) :: m else if a = b then (a, c) :: m else (b, d) :: Mem.set m a c

/-- The cell that a write stores: the word with correct parity (R142). -/
def goodCell (w : Word) : MemCell := { word := w, par := parityFor w }

/-- The cell has a parity error: an even number of ones in word and bit together (R143). -/
def MemCell.bad (c : MemCell) : Bool := !(xor (oddOnes c.word) c.par)

/-- What the memory holds at `a`: the cell last written, or undefined contents, a free value (R142, log 1). -/
def State.cellAt (s : State) (a : Addr) : MemCell :=
  match Mem.get? s.mem a.toNat with
  | some c => c
  | none => { word := Config.powerOnWord s.powerOns a.toNat, par := Config.powerOnParity s.powerOns a.toNat }

/-- The memory write of a word with correct parity (R142). -/
def State.memWrite (a : Addr) (w : Word) (s : State) : State := { s with mem := Mem.set s.mem a.toNat (goodCell w) }

/-- The cell with bits flipped. Flips never mend a cell: one that fails the check goes on failing until a write (R144,
log 13). -/
def MemCell.flipped (c : MemCell) (u : Upset) : MemCell :=
  let d : MemCell := { word := c.word ^^^ u.setWidth 16, par := xor c.par (u.getLsbD 16) }
  if c.bad && !d.bad then c else d

/-- Flip bits of the stored cell (log 13). No flip: nothing changes. An unwritten word stays undefined. -/
def State.memUpset (a : Addr) (u : Upset) (s : State) : State :=
  if u = 0 then s
  else
    match Mem.get? s.mem a.toNat with
    | some c => { s with mem := Mem.set s.mem a.toNat (c.flipped u) }
    | none => s

/-! ## Ends of cycles (R2, R3) -/

/-- The cycle of port `p`, if it has one in progress, completes; a read value is driven on PD unless the strobe has been
negated (R2). -/
def State.completeCycle (p : PortId) (e : CycleEnd) (s : State) : State :=
  s.modPort p fun pt =>
    match pt.cycle with
    | none => pt
    | some c =>
      { pt with
        cycle := none
        last := some e
        pd := match e with
          | .read w => if c.strobe then some w else none
          | _ => none }

/-- A read completes with its value. -/
def State.completeRead (p : PortId) (w : Word) (s : State) : State := s.completeCycle p (.read w)

/-- A write completes. -/
def State.completeWrite (p : PortId) (s : State) : State := s.completeCycle p .write

/-- The classification and place of port `p`'s cycle in progress become `w`. -/
def State.setWait (p : PortId) (w : CycleWait) (s : State) : State :=
  s.modPort p fun pt => { pt with cycle := pt.cycle.map fun c => { c with wait := w } }

/-! ## Deliveries (R37, R38) -/

/-- The controller of port `p` takes a delivery of this source: the port is UP, or it is a TABLE delivery to P0 during
the sweep (R37, R176). -/
def State.takesDelivery (s : State) (p : PortId) (src : Source) : Bool :=
  decide (s.ports[p].state = .up) || (decide (p = 0) && decide (src = .table) && decide (s.part = .sweep))

/-- The slot of port `p` that is bound to the source (R57: at most one). -/
def State.boundSlot (s : State) (p : PortId) (src : Source) : Option SlotId :=
  allSlots.find? fun i => decide ((s.ctls[p].slots[i].binding).map (·.source) = some src)

/-- A latched slot takes a delivery (R38). -/
def Slot.latch (sl : Slot) (d : Word) : Slot :=
  { sl with
    notice := some (match sl.notice with
      | none => { detail := d, repeated := false }
      | some n => { n with repeated := true }) }

/-- A delivery of a latched source with its detail to port `p`'s controller (R37, R38). -/
def State.deliver (p : PortId) (src : Source) (d : Word) (s : State) : State :=
  if s.takesDelivery p src then
    match s.boundSlot p src with
    | none => s
    | some i => s.modCtl p fun k => { k with slots := upd k.slots i fun sl => sl.latch d }
  else s

/-! ## Refusals (R17, R18, R20) -/

/-- The refusal record after a refusal (R18). -/
def loadRefusal (old : Option RefusalRec) (a : Addr) (k : Dir) (r : Reason) : Option RefusalRec :=
  match old with
  | none => some { addr := a, kind := k, reason := r, further := false }
  | some o => some { o with further := true }

/-- How a refused cycle completes: a read with the refused read value (R17). -/
def refusedEnd : Dir → CycleEnd
  | .read => .read Config.refusedRead
  | .write => .write

/-- The cycle in progress on port `p` is refused: the record is loaded or its further flag set, REFUSAL is delivered to
the port, and the cycle completes (R17, R18, R20). -/
def State.refuse (p : PortId) (r : Reason) (s : State) : State :=
  match s.ports[p].cycle with
  | none => s
  | some c =>
    (((s.modPort p fun pt => { pt with refusal := loadRefusal pt.refusal c.addr c.dir r }).deliver p .refusal
      (BitVec.ofNat 16 r.code)).completeCycle p (refusedEnd c.dir))

/-! ## Parity reports (R143, R145, R146) -/

/-- The fault record after a parity error (R146). -/
def loadFault (old : Option FaultRec) (a : Addr) (code : Nat) : Option FaultRec :=
  match old with
  | none => some { addr := a, code := code, further := false }
  | some o => some { o with further := true }

/-- A read with a parity error: the fault record, then PARITY to P0 (R143). -/
def State.reportParity (a : Addr) (code : Nat) (s : State) : State :=
  ({ s with fault := loadFault s.fault a code }).deliver 0 .parity (BitVec.ofNat 16 code)

/-! ## TABLE events (R165) -/

/-- A rejection by the table unit delivers one TABLE event to P0 (R165). -/
def State.rejectTable (idx : Nat) (r : TableReason) (s : State) : State := s.deliver 0 .table (tableDetail idx r)

end Sys2Proof.Machine
end

