-- ==== Sys2Proof/Machine/LockUnit.lean ====
section
/-! DEFINITION. The lock unit (file 05): grants, queues and releases. -/

namespace Sys2Proof.Machine

/-- The lease timer as a grant loads it (R102). -/
def State.leaseOf (s : State) (l : LockId) : Option Nat :=
  if (s.leases[l]).toNat = 0 then none else some (s.leases[l]).toNat

/-- The claimant becomes holder and the lease timer is loaded (R97, R102). -/
def State.grantLock (l : LockId) (c : Claimant) (s : State) : State :=
  s.modLock l fun k => { k with holder := some c, timer := s.leaseOf l }

/-- The lock with the claimant at the end of its waiter queue; a claimant stands at most once among holder and queue
(R94). -/
def Lock.queue (k : Lock) (c : Claimant) : Lock :=
  if k.holder = some c ∨ c ∈ k.waiters then k else { k with waiters := k.waiters ++ [c] }

/-- The claimant joins the end of the waiter queue (R97, R108). -/
def State.queueLock (l : LockId) (c : Claimant) (s : State) : State := s.modLock l (·.queue c)

/-- The claimants that satisfy `out` leave the waiter queue; the others keep their order (R99). -/
def State.dropWaiters (l : LockId) (out : Claimant → Bool) (s : State) : State :=
  s.modLock l fun k => { k with waiters := k.waiters.filter fun c => !out c }

/-- The new holder of a hand-over is told: LOCK-GRANT to a port, LOCKWAIT to RUN for a channel (R101 steps 4, 5). -/
def State.announceGrant (l : LockId) (c : Claimant) (s : State) : State :=
  match c with
  | .port p => s.deliver p .lockGrant (BitVec.ofNat 16 l.val)
  | .chan d => s.modChan d fun k => { k with state := if k.state = .lockWait then .run else k.state }

/-- The release of a lock (R101): FREE with an empty queue, or handed to the head of the queue. -/
def State.releaseLock (l : LockId) (s : State) : State :=
  match s.locks[l].waiters with
  | [] => s.modLock l fun k => { k with holder := none, timer := none }
  | c :: rest => (((s.modLock l fun k => { k with waiters := rest }).grantLock l c).announceGrant l c)

/-- The answer to a try or wait read by port `p`, and the lock after it (R96, R97). -/
def State.readLock (wait : Bool) (p : PortId) (l : LockId) (s : State) : State × Word :=
  match s.locks[l].holder with
  | none => (s.grantLock l (.port p), lockWord 1 (some (.port p)))
  | some h =>
    if h = .port p then (s, lockWord 2 (some h))
    else if (.port p) ∈ s.locks[l].waiters then (s, lockWord 3 (some h))
    else if wait ∧ s.locks[l].waiters.length < Config.lockQueueMax then
      (s.queueLock l (.port p), lockWord 3 (some h))
    else (s, lockWord 4 (some h))

/-- A write to a lock word by port `p` (R100): release, cancel or refusal; the cycle completes. -/
def State.writeLock (p : PortId) (l : LockId) (s : State) : State :=
  if s.locks[l].holder = some (.port p) then (s.releaseLock l).completeWrite p
  else if s.locks[l].holder.isSome ∧ (.port p) ∈ s.locks[l].waiters then
    (s.dropWaiters l fun c => decide (c = .port p)).completeWrite p
  else s.refuse p .lockNotHolder

/-- A channel's start or fetch acquires lock `l` (R108): it becomes holder and enters RUN, or joins the queue and enters
LOCKWAIT. -/
def State.acquireForChan (c : ChanId) (l : LockId) (s : State) : State :=
  match s.locks[l].holder with
  | none => (s.grantLock l (.chan c)).modChan c fun k => { k with state := .run }
  | some _ => (s.queueLock l (.chan c)).modChan c fun k => { k with state := .lockWait }

/-- At the end of a run the channel gives up lock `l` (R110), or its place in the queue (R99, R109). -/
def State.releaseForChan (c : ChanId) (l : LockId) (s : State) : State :=
  if s.locks[l].holder = some (.chan c) then s.releaseLock l
  else s.dropWaiters l fun d => decide (d = .chan c)

end Sys2Proof.Machine
end

