-- ==== Sys2Proof/Machine/RingEngine.lean ====
section
/-! DEFINITION. The ring engine (file 04), as far as no channel stops by it: issue, opening, the stall queue, the
effects of completed accesses, and the withdrawal of a claimant. -/

namespace Sys2Proof.Machine

/-- The kind of a redirected access (Table 8-1). -/
def Post.kind (q : Post) (d : Dir) : AccKind :=
  match d with
  | .read => .read
  | .write => .write q.word

/-- The request of a port's redirected access (R138, Table 8-1). -/
def ringRequest (r : RingId) (p : PortId) (q : Post) (d : Dir) (a : Addr) : Request :=
  { kind := q.kind d, addr := a, code := p.val, issuer := .ring r, watch := none, abandoned := false }

/-- The ring with a redirected access in flight (R66). -/
def Ring.launch (k : Ring) (q : Post) (d : Dir) (a : Addr) (presented : Bool) : Ring :=
  { k with inFlight := some { post := q, dir := d, addr := a, attached := true, presented := presented, leaving := false } }

/-- A redirected access becomes the ring's access in flight. A port's is presented at the arbiter at once (R138); a
channel's waits for the transfer engine to present it (R124, R126). -/
def State.issueRing (r : RingId) (q : Post) (d : Dir) (a : Addr) (s : State) : State :=
  match q.who with
  | .port p =>
    ((s.modRing r fun k => k.launch q d a true).modReq (reqOfPort p) fun _ => some (ringRequest r p q d a)).setWait p
      (.ringAccess r)
  | .chan _ => s.modRing r fun k => k.launch q d a false

/-- The words written so far under the post assembly. -/
def Ring.postWords (k : Ring) : Nat := match k.postAsm with | some a => a.words | none => 0

/-- The words read so far under the take assembly. -/
def Ring.takeWords (k : Ring) : Nat := match k.takeAsm with | some a => a.words | none => 0

/-- The word of a post is issued as a write to the entry at the tail (R70, R71). -/
def State.issuePost (r : RingId) (q : Post) (s : State) : State :=
  s.issueRing r q .write (s.recs[r].wordAddr s.rings[r].tail s.rings[r].postWords)

/-- A post opens (R70): the assembly is present with 0 words, and the write is issued, or waits as the opened post
awaiting issue while an access is in flight (R76). -/
def State.openPost (r : RingId) (q : Post) (s : State) : State :=
  let t := s.modRing r fun k => { k with postAsm := some { owner := q.who, words := 0 } }
  if t.rings[r].inFlight.isSome then
    let u := t.modRing r fun k => { k with awaiting := some q }
    match q.who with
    | .port p => u.setWait p (.ringAwait r)
    | .chan _ => u
  else t.issuePost r q

/-- A channel whose live post opens from the stall queue returns from STALL to RUN (R76, R86). -/
def State.unstall (q : Post) (s : State) : State :=
  match q.who with
  | .port _ => s
  | .chan c => if q.live then s.modChan c fun k => { k with state := if k.state = .stall then .run else k.state } else s

/-- Where the opening condition holds and the stall queue is not empty, its head leaves and opens (R76). -/
def State.openHead (r : RingId) (s : State) : State :=
  if s.openingCond r then
    match s.rings[r].stall with
    | [] => s
    | e :: rest => ((s.modRing r fun k => { k with stall := rest }).unstall e.post).openPost r e.post
  else s

/-- The claimant's entries leave the ring's stall queue (R87 step 1). -/
def Ring.withoutStalled (k : Ring) (c : Claimant) : Ring :=
  { k with stall := k.stall.filter fun e => decide (e.post.who ≠ c) }

/-- The ring with the post at the end of its stall queue, where its claimant stands at most once (R75). An entry that the
claimant has there already is one that a ring reset left to an earlier run of the channel, and it is removed (log 24:
DEDUCED). -/
def Ring.stalled (k : Ring) (q : Post) (ticks : Option Nat) : Ring :=
  { k with stall := (k.withoutStalled q.who).stall ++ [{ post := q, ticks := ticks }] }

/-- A post that cannot open joins the end of the stall queue (R74, R86). -/
def State.joinStall (r : RingId) (q : Post) (s : State) : State :=
  match q.who with
  | .port p => (s.modRing r (·.stalled q (some s.recs[r].stallLimit))).setWait p (.ringStall r)
  | .chan c =>
    let t := s.modRing r (·.stalled q none)
    if q.live then t.modChan c fun k => { k with state := .stall } else t

/-- The next place after `i` of `cap` entries, wrapping (R72, R80). -/
def wrapNext (i cap : Nat) : Nat := if i + 1 = cap then 0 else i + 1

/-- The ring when the last word of its tail entry has been written (R72 steps 1 to 3). -/
def Ring.pushed (k : Ring) (cap : Nat) : Ring :=
  { k with postAsm := none, tail := wrapNext k.tail cap, count := k.count + 1 }

/-- The write of a word of the post assembly has completed (R70 to R72). -/
def State.postWritten (r : RingId) (s : State) : State :=
  match s.rings[r].postAsm with
  | none => s
  | some a =>
    if a.words + 1 = s.recs[r].entrySize then (s.modRing r fun k => k.pushed s.recs[r].capacity).openHead r
    else s.modRing r fun k => { k with postAsm := some { a with words := a.words + 1 } }

/-- The ring when the last word of its head entry has been read (R80 steps 1 to 3). -/
def Ring.popped (k : Ring) (cap : Nat) : Ring :=
  { k with takeAsm := none, head := wrapNext k.head cap, count := k.count - 1 }

/-- RING-SPACE to the producer, where the ring was full before the take (R80 step 4, R84). -/
def State.tellSpace (r : RingId) (wasFull : Bool) (s : State) : State :=
  if wasFull then s.deliver s.recs[r].producer (.ringSpace r) (BitVec.ofNat 16 r.val) else s

/-- The read of a word of the head entry has completed (R79, R80). RING-SPACE is delivered before a stalled post
opens. -/
def State.takeRead (r : RingId) (s : State) : State :=
  match s.rings[r].takeAsm with
  | none => s
  | some a =>
    if a.words + 1 = s.recs[r].entrySize then
      ((s.modRing r fun k => k.popped s.recs[r].capacity).tellSpace r
        (decide (s.rings[r].count = s.recs[r].capacity))).openHead r
    else s.modRing r fun k => { k with takeAsm := some { a with words := a.words + 1 } }

/-- The hold item belongs to the claimant. -/
def HoldItem.ofClaimant (c : Claimant) : HoldItem → Bool
  | .post q => decide (q.who = c)
  | .take p => decide (c = .port p)

/-- The claimant's entries leave the ring's stall queue and hold list (R87 steps 1, 2). -/
def Ring.withoutClaimant (k : Ring) (c : Claimant) : Ring :=
  { k.withoutStalled c with hold := k.hold.filter fun i => !i.ofClaimant c }

/-- Nothing of the channel waits at the ring: no entry in the stall queue or the hold list, no opened post awaiting issue
(R130, R76). -/
def Ring.withoutWaiting (k : Ring) (c : ChanId) : Ring :=
  { k.withoutClaimant (.chan c) with awaiting := k.awaiting.filter fun q => decide (q.who ≠ .chan c) }

/-- The post assembly, if the claimant owns it, is discarded, and with it the opened post awaiting issue (R76, R87,
R92). -/
def Ring.discardPost (k : Ring) (c : Claimant) : Ring :=
  match k.postAsm with
  | some a => if a.owner = c then { k with postAsm := none, awaiting := none } else k
  | none => k

/-- The claimant owns the post assembly. -/
def Ring.ownsPost (k : Ring) (c : Claimant) : Bool := k.postAsm.any fun a => decide (a.owner = c)

/-- The claimant's post assembly, if it owns the ring's, is discarded, and then the head of the stall queue opens where the
condition has become true (R87 steps 3, 4). -/
def State.dropAssembly (c : Claimant) (r : RingId) (s : State) : State :=
  let t := s.modRing r (·.discardPost c)
  if s.rings[r].ownsPost c then t.openHead r else t

/-- The channel's assembly goes when the access in flight, a write of its own, has completed (R87). -/
def Ring.leaveAfter (k : Ring) : Ring := { k with inFlight := k.inFlight.map fun f => { f with leaving := true } }

/-- The post assembly that a channel owns at a ring is discarded (R71, R87 steps 3, 4), not before a write of its own that is
in flight there has completed. -/
def State.closeAssembly (c : ChanId) (r : RingId) (s : State) : State :=
  if s.rings[r].ownsPost (.chan c) && s.rings[r].postInFlight c then s.modRing r (·.leaveAfter) else s.dropAssembly (.chan c) r

/-- Every post assembly that a channel owns is discarded, ascending by ring (R71, log 24). -/
def State.closeAssemblies (c : ChanId) (s : State) : State := allRings.foldl (fun t r => t.closeAssembly c r) s

/-- After the effects of a write of a channel that was to leave with it, the channel's assembly is discarded (R71, R87). -/
def State.finishLeaving (r : RingId) (f : InFlight) (s : State) : State :=
  match f.post.who with
  | .port _ => s
  | .chan c => if f.leaving then s.dropAssembly (.chan c) r else s

end Sys2Proof.Machine
end

