-- ==== Sys2Proof/Machine/ChannelStops.lean ====
section
/-! DEFINITION. The ends of channel runs (sections 7.6 and 7.7), and the ring engine's steps that may stop a channel:
take-up, the hold list and the ring reset. -/

namespace Sys2Proof.Machine

/-! ## Ends of runs -/

/-- CHAN-DONE reports the status to the run owner (R134). -/
def State.deliverDone (c : ChanId) (st : Status) (s : State) : State :=
  match s.chans[c].owner with
  | some p => s.deliver p (.chanDone c) (BitVec.ofNat 16 st.code)
  | none => s

/-- The channel of a run that ends: IDLE with the status; holding word, fetch buffer and pending stop emptied
(R127, R132 step 1). -/
def Chan.ended (k : Chan) (st : Status) : Chan :=
  { k with state := .idle, last := st, holding := none, fetchBuf := [], stopPending := none }

/-- The ring that a channel running FEED posts to. -/
def Chan.feedRing (k : Chan) : Option RingId := if k.desc.op = some .feed then k.desc.ring else none

/-- A FEED channel's waiting posts leave its ring (R87 steps 1, 2), and every post assembly that the channel owns is discarded
(R87 steps 3, 4), also one at another ring, which a post that a ring reset left there has opened (R71). -/
def State.withdrawFromRings (c : ChanId) (s : State) : State :=
  match s.chans[c].feedRing with
  | some r => (s.modRing r (·.withoutClaimant (.chan c))).closeAssemblies c
  | none => s.closeAssemblies c

/-- The lock that the channel's descriptor names is released, or the channel leaves its queue (R110, R109). -/
def State.leaveLock (c : ChanId) (s : State) : State :=
  match (s.chans[c].desc).lock with
  | some l => s.releaseForChan c l
  | none => s

/-- A LOCK_FREE write of P0 that waits for the stop of this channel completes (R132). -/
def State.finishLockFree (c : ChanId) (s : State) : State :=
  if (s.ports[(0 : PortId)].cycle).any (fun k => decide (k.wait = .lockFree c)) then s.completeWrite 0 else s

/-- A run ends with a status (R127 with DONE, R132 with a stop's status): the channel becomes IDLE, leaves its rings,
releases its lock, and CHAN-DONE is delivered; then a LOCK_FREE write that has caused the stop completes. -/
def State.endRun (c : ChanId) (st : Status) (s : State) : State :=
  ((((s.modChan c fun k => k.ended st).withdrawFromRings c).leaveLock c).deliverDone c st).finishLockFree c

/-- What the channel waits for is given up: its place in a lock's queue (R109: LOCKWAIT), and its posts in the stall queue and
the hold list of its ring and an opened post awaiting issue (R130, R76). -/
def State.leaveQueue (c : ChanId) (s : State) : State :=
  let t := if s.chans[c].state = .lockWait then s.leaveLock c else s
  match s.chans[c].feedRing with
  | some r => t.modRing r (·.withoutWaiting c)
  | none => t

/-- A stop cause from outside is taken: the stop is pending while an access of the channel is presented, and otherwise
completes at once (R131). What waits is given up in either case (R130, log 24). A stop that arises from the channel's own
read is never pending (R131): it is `endRun`. -/
def State.stopRun (c : ChanId) (st : Status) (s : State) : State :=
  if s.chanPresented c then (s.leaveQueue c).modChan c fun k => { k with stopPending := some st } else s.endRun c st

/-- A stop cause is taken (R130, R133): no effect on an IDLE channel or where a stop is pending already. -/
def State.stopChan (c : ChanId) (st : Status) (s : State) : State :=
  if s.chans[c].state = .idle then s
  else if s.chans[c].stopPending.isSome then s
  else s.stopRun c st

/-- A pending stop completes when nothing of the channel is presented any more (R131). -/
def State.settleStop (c : ChanId) (s : State) : State :=
  match s.chans[c].stopPending with
  | some st => if s.chanPresented c then s else s.endRun c st
  | none => s

/-- The result of the request is to be discarded if it is an access of the channel's own. -/
def Request.discardFor (c : ChanId) (q : Request) : Request :=
  if q.ofChan c then { q with abandoned := true } else q

/-- The post no longer counts for the channel's run. -/
def Post.unlive (q : Post) (c : ChanId) : Post := if q.who = .chan c then { q with live := false } else q

/-- The channel's posts at the ring no longer count for its run (R131, log 24). -/
def Ring.unlive (k : Ring) (c : ChanId) : Ring :=
  { k with
    stall := k.stall.map fun e => { e with post := e.post.unlive c }
    awaiting := k.awaiting.map (·.unlive c)
    inFlight := k.inFlight.map fun f => { f with post := f.post.unlive c }
    hold := k.hold.map fun i => match i with | .post q => .post (q.unlive c) | .take p => .take p }

/-- What the channel has at the arbiter, at the memory port and at the rings no longer counts for its run. It stays where it is,
also at another ring than the one reset: the removals of R87 do not apply to a ring reset (log 24). -/
def State.detachChan (c : ChanId) (s : State) : State :=
  let t := s.modReq reqOfEngine fun q => q.map (·.discardFor c)
  { t with
    inProg := t.inProg.map fun (a : Access) => { a with req := a.req.discardFor c }
    rings := Vector.ofFn fun r : RingId => (t.rings[r]).unlive c }

/-- A run that a ring reset stops ends: as `endRun`, but the removals at the ring are those of the reset and the hold list is
kept (R87, R90); an assembly that the channel owns at another ring goes with the stop (R71). No LOCK_FREE write waits for it, since
the reset is a cycle of P0 itself. -/
def State.endRunByReset (c : ChanId) (st : Status) (s : State) : State :=
  ((((s.modChan c fun k => k.ended st).closeAssemblies c).leaveLock c).deliverDone c st)

/-- A ring reset stops a channel (R131, R133): at once, under the status already fixed if a stop is pending; an IDLE channel has
nothing to stop. The channel need not feed the ring that is reset: through a post that an earlier reset left, it may stand in that
ring's stall queue or own its assembly while it runs another descriptor. R89 steps 4 and 5 stop it, while Table 7-5 of R129 speaks
of the FEED channel's ring; the model follows R89 (log 32: DESIGN CHOICE). -/
def State.stopByReset (c : ChanId) (s : State) : State :=
  if s.chans[c].state = .idle then s
  else (s.detachChan c).endRunByReset c (match s.chans[c].stopPending with | some st => st | none => .ringReset)

/-! ## Take-up (R68, R69) -/

/-- A RING_FULL refusal of port `p`'s post: RING-FAULT to the producer, and the refusal (R73, R77, R84). -/
def State.refuseFull (r : RingId) (p : PortId) (s : State) : State :=
  (s.deliver s.recs[r].producer (.ringFault r) (BitVec.ofNat 16 p.val)).refuse p .ringFull

/-- A post is taken up (R69): disabled ring, later word, opening, or the full policy. At a disabled ring a channel's post stops its
channel (R87, R90), also one that a ring reset left to an earlier run (log 32: DESIGN CHOICE). -/
def State.takeUpPost (r : RingId) (q : Post) (s : State) : State :=
  if !s.recs[r].enable then
    match q.who with
    | .port p => s.refuse p .ringDisabled
    | .chan c => s.stopChan c .ringReset
  else if s.rings[r].ownsPost q.who then s.issuePost r q
  else if s.openingCond r then s.openPost r q
  else
    match q.who with
    | .port p =>
      if s.recs[r].policy = 1 then s.joinStall r q
      else if s.rings[r].count = s.recs[r].capacity then s.refuseFull r p
      else s.refuse p .ringAssembly
    | .chan _ => s.joinStall r q

/-- A take is taken up (R69, R79). -/
def State.takeUpTake (r : RingId) (p : PortId) (s : State) : State :=
  let go (t : State) : State :=
    t.issueRing r { who := .port p, word := 0, live := true } .read
      (t.recs[r].wordAddr t.rings[r].head t.rings[r].takeWords)
  if !s.recs[r].enable then s.refuse p .ringDisabled
  else if s.rings[r].count = 0 then s.refuse p .ringEmpty
  else
    match s.rings[r].takeAsm with
    | some a => if a.owner = p then go s else s.refuse p .ringAssembly
    | none => go (s.modRing r fun k => { k with takeAsm := some { owner := p, words := 0 } })

/-- A post or a take is taken up (R69). -/
def State.takeUp (r : RingId) (i : HoldItem) (s : State) : State :=
  match i with
  | .post q => s.takeUpPost r q
  | .take p => s.takeUpTake r p

/-- The port's cycle of a hold item is held in the ring's hold list. -/
def State.holdWait (r : RingId) (i : HoldItem) (s : State) : State :=
  match i with
  | .post q => (match q.who with | .port p => s.setWait p (.ringHold r) | .chan _ => s)
  | .take p => s.setWait p (.ringHold r)

/-- A post or a take reaches the ring engine (R68). -/
def State.ringArrive (r : RingId) (i : HoldItem) (s : State) : State :=
  if s.rings[r].inFlight.isSome then (s.modRing r fun k => { k with hold := k.hold ++ [i] }).holdWait r i
  else s.takeUp r i

/-- The hold list is taken up from its front until an item issues an access or the list is empty (R68); `n` bounds the
number of items. -/
def State.takeUpHold (r : RingId) : Nat → State → State
  | 0, s => s
  | n + 1, s =>
    if s.rings[r].inFlight.isSome then s
    else
      match s.rings[r].hold with
      | [] => s
      | i :: rest => State.takeUpHold r n ((s.modRing r fun k => { k with hold := rest }).takeUp r i)

/-- While no access is in flight: the opened post awaiting issue is issued, and then the hold list is taken up (R68,
R76). -/
def State.resumeRing (r : RingId) (s : State) : State :=
  if s.rings[r].inFlight.isSome then s
  else
    match s.rings[r].awaiting with
    | some q => (s.modRing r fun k => { k with awaiting := none }).issuePost r q
    | none => s.takeUpHold r s.rings[r].hold.length

/-! ## Ring reset (R88 to R90) -/

/-- The dynamic part after a ring reset: the access in flight goes on without an assembly, and the hold list is kept
(R89, R90). -/
def Ring.cleared (k : Ring) : Ring :=
  { Ring.reset with inFlight := k.inFlight.map fun f => { f with attached := false, leaving := false }, hold := k.hold }

/-- What a ring reset does to the claimant of an entry in the stall queue (R89 steps 3, 4): every channel with an entry there
stops, whatever it runs (log 32: DESIGN CHOICE where an earlier reset left the entry). -/
def State.resetClaimant (q : Post) (s : State) : State :=
  match q.who with
  | .port p => s.refuse p .ringReset
  | .chan c => s.stopByReset c

/-- A claimant whose opened post awaits issue: a port's cycle is refused (R76); a channel stops as owner of the
assembly (R89 step 5). -/
def State.resetAwaiting (q : Option Post) (s : State) : State :=
  match q with
  | some a => (match a.who with | .port p => s.refuse p .ringReset | .chan _ => s)
  | none => s

/-- The FEED channel that owned the discarded post assembly stops, whichever ring its fields name (R89 step 5). A channel that
runs another operation, and owns the assembly through a post of an earlier FEED run, is no FEED channel and goes on (log 32:
DESIGN CHOICE). -/
def State.resetOwner (a : Option PostAsm) (s : State) : State :=
  match a with
  | some o =>
    match o.owner with
    | .chan c => if s.chans[c].desc.op = some .feed then s.stopByReset c else s
    | .port _ => s
  | none => s

/-- A ring reset (R89). -/
def State.resetRing (r : RingId) (s : State) : State :=
  let k := s.rings[r]
  (k.stall.foldl (fun t e => t.resetClaimant e.post) ((s.modRing r (·.cleared)).resetAwaiting k.awaiting)).resetOwner k.postAsm

end Sys2Proof.Machine
end

