-- ==== Sys2Proof/Machine/TransferEngine.lean ====
section
/-! DEFINITION. The transfer engine (file 06): the channel window, starts and aborts, the words of a run, descriptors, and
the engine's choice of channel. -/

namespace Sys2Proof.Machine

/-! ## The channel window (section 7.2) -/

/-- Channel word `k` as a read returns it (R115). -/
def Chan.readWord (c : Chan) (k : Nat) : Word := if k = 7 then c.stateWord else c.desc.word k

/-- A start by port `p` (R117, R118, R120); the cycle completes or is refused. -/
def State.startChan (p : PortId) (c : ChanId) (s : State) : State :=
  if s.chans[c].state ≠ .idle then s.refuse p .channelBusy
  else if s.descOk p none s.chans[c].desc then
    let t := s.modChan c fun k =>
      { k with owner := some p, descCount := 0, wordsDone := 0, holding := none, fetchBuf := [], state := .run }
    (match s.chans[c].desc.lock with
     | some l => t.acquireForChan c l
     | none => t).completeWrite p
  else s.refuse p .channelRequest

/-- An abort by port `p` (R117, R130). -/
def State.abortChan (p : PortId) (c : ChanId) (s : State) : State :=
  if p = 0 ∨ s.chans[c].owner = some p then (s.stopChan c .aborted).completeWrite p
  else s.refuse p .badValue

/-- A rightful write of channel word `k` by port `p` (R116, R117). -/
def State.writeChan (p : PortId) (c : ChanId) (k : Nat) (v : Word) (s : State) : State :=
  if k = 7 then
    if v = 1 then s.startChan p c
    else if v = 2 then s.abortChan p c
    else s.refuse p .badValue
  else if s.chans[c].state = .idle then
    (s.modChan c fun x => { x with desc := x.desc.setWord k v }).completeWrite p
  else s.refuse p .channelBusy

/-! ## Words done (R121 to R125) -/

/-- One bit folded into the CRC (R123). -/
def crcBit (crc : Word) (b : Bool) : Word :=
  if xor (crc.getLsbD 15) b then (crc <<< 1) ^^^ 0x1021#16 else crc <<< 1

/-- One word folded into the CRC, bit 15 first (R123). -/
def crcWord (crc w : Word) : Word :=
  [15, 14, 13, 12, 11, 10, 9, 8, 7, 6, 5, 4, 3, 2, 1, 0].foldl (fun c i => crcBit c (w.getLsbD i)) crc

/-- The working fields stepped when a word is done (Table 7-4); `w` is the word read, which SUM folds. -/
def Desc.step (d : Desc) (w : Word) : Desc :=
  let d := { d with count := d.count - 1 }
  match d.op with
  | some .copy => { d with src := d.src + 1, dst := d.dst + 1 }
  | some .verify => { d with src := d.src + 1, dst := d.dst + 1 }
  | some .fill => { d with dst := d.dst + 1 }
  | some .sum => { d with src := d.src + 1, data := crcWord d.data w }
  | some .feed => { d with src := d.src + 1 }
  | none => d

/-- A mark falls due (R125): marks are on and words done is a multiple of the interval. -/
def Chan.markDue (k : Chan) : Bool :=
  match k.desc.mark with
  | some n => decide (n ≠ 0) && decide (k.wordsDone % n = 0)
  | none => false

/-- CHAN-MARK to the run owner with COUNT as detail, where it falls due and no stop is pending (R125, R131). -/
def State.deliverMark (c : ChanId) (s : State) : State :=
  if s.chans[c].markDue && s.chans[c].stopPending.isNone then
    match s.chans[c].owner with
    | some p => s.deliver p (.chanMark c) s.chans[c].desc.count
    | none => s
  else s

/-- A descriptor is complete (R127): an assembly that the channel owns is discarded (R71, R87); the run ends with DONE, or the
channel enters FETCH. -/
def State.descComplete (c : ChanId) (s : State) : State :=
  let t := s.withdrawFromRings c
  if t.chans[c].desc.linkFlag then t.modChan c fun k => { k with state := .fetch, fetchBuf := [], holding := none }
  else t.endRun c .done

/-- A word is done (R121): fields step, a mark may be delivered; then a pending stop completes, or terminal count is
reached, or the run goes on. -/
def State.wordDone (c : ChanId) (w : Word) (s : State) : State :=
  let t := (s.modChan c fun k =>
    { k with desc := k.desc.step w, wordsDone := k.wordsDone + 1, holding := none }).deliverMark c
  if t.chans[c].stopPending.isSome then t.settleStop c
  else if t.chans[c].desc.count = 0 then
    if t.chans[c].desc.op = some .sum ∧ t.chans[c].desc.toDst then t else t.descComplete c
  else t

/-! ## Chained descriptors (R128) -/

/-- The lock that the channel holds under its present descriptor. -/
def State.heldLock (s : State) (c : ChanId) : Option LockId :=
  match s.chans[c].desc.lock with
  | some l => if s.locks[l].holder = some (.chan c) then some l else none
  | none => none

/-- The lock hand-over between two descriptors (R110, R128 step 4): kept if the new one names the lock held; otherwise
the old lock is released and the new one acquired, which may leave the channel in LOCKWAIT. -/
def State.chainLock (c : ChanId) (old new : Option LockId) (s : State) : State :=
  if old.isSome ∧ old = new then s
  else
    let t := match old with | some l => s.releaseLock l | none => s
    match new with
    | some l => t.acquireForChan c l
    | none => t

/-- The descriptor passes the checks of R118 with the run owner's rights (R128). -/
def State.ownerAccepts (s : State) (c : ChanId) (held : Option LockId) (d : Desc) : Bool :=
  match s.chans[c].owner with
  | some p => s.descOk p held d
  | none => false

/-- The lock that the channel holds, if the new descriptor names it too (R128). -/
def State.keptLock (s : State) (c : ChanId) (d : Desc) : Option LockId :=
  if s.heldLock c = d.lock then s.heldLock c else none

/-- The channel with a fetched descriptor installed (R128 steps 1 to 3, 5). -/
def Chan.installed (k : Chan) (d : Desc) : Chan :=
  { k with desc := d, descCount := k.descCount + 1, wordsDone := 0, fetchBuf := [], holding := none, state := .run }

/-- The buffered descriptor is validated with the run owner's rights and installed, or the channel stops with
BAD_DESCRIPTOR (R128). -/
def State.installDesc (c : ChanId) (ws : List Word) (s : State) : State :=
  if s.ownerAccepts c (s.keptLock c (descOfWords ws)) (descOfWords ws) then
    (s.modChan c fun k => k.installed (descOfWords ws)).chainLock c (s.heldLock c) (descOfWords ws).lock
  else s.endRun c .badDescriptor

/-! ## Completed accesses of a channel (R121, R129, R131) -/

/-- The end of a read that is not taken up: a pending stop completes and the data are discarded (R131), or a parity error
stops the channel (R129), at once (R131). A stop that was taken while the descriptor's last word was being read leaves that
word undone, as R131 says of reads, where R133 has the last word done (log 31: DESIGN CHOICE). -/
def State.readStopped (c : ChanId) (bad : Bool) (s : State) : Option State :=
  if s.chans[c].stopPending.isSome then some (s.settleStop c)
  else if bad then some (s.endRun c .parity)
  else none

/-- A SRC read has completed (Table 7-4): held for the second access of the word, folded, or posted. -/
def State.srcReadDone (c : ChanId) (w : Word) (s : State) : State :=
  match s.chans[c].desc.op with
  | some .sum => s.wordDone c w
  | some .feed =>
    let t := s.modChan c fun k => { k with holding := some w }
    match s.chans[c].feedRing with
    | some r => t.ringArrive r (.post { who := .chan c, word := w, live := true })
    | none => t
  | _ => s.modChan c fun k => { k with holding := some w }

/-- A DST read of VERIFY has completed (R122); a stop with MISMATCH is never pending (R131). -/
def State.dstReadDone (c : ChanId) (w : Word) (s : State) : State :=
  if s.chans[c].holding = some w then s.wordDone c w else s.endRun c .mismatch

/-- A descriptor read has completed (R127, R128). -/
def State.fetchReadDone (c : ChanId) (w : Word) (s : State) : State :=
  let ws := s.chans[c].fetchBuf ++ [w]
  if ws.length = 7 then s.installDesc c ws else s.modChan c fun k => { k with fetchBuf := ws }

/-- The result write of SUM has completed (R123); a pending stop takes precedence (R133). -/
def State.sumWriteDone (c : ChanId) (s : State) : State :=
  if s.chans[c].stopPending.isSome then s.settleStop c else s.descComplete c

/-- An access of the channel's own has completed with word `w` read and its parity verdict. -/
def State.chanAccessDone (c : ChanId) (step : ChanStep) (w : Word) (bad : Bool) (s : State) : State :=
  match step with
  | .srcRead => (match s.readStopped c bad with | some t => t | none => s.srcReadDone c w)
  | .dstRead => (match s.readStopped c bad with | some t => t | none => s.dstReadDone c w)
  | .fetchRead => (match s.readStopped c bad with | some t => t | none => s.fetchReadDone c w)
  | .dstWrite => s.wordDone c w
  | .sumWrite => s.sumWriteDone c

/-! ## The choice of channel (R126) -/

/-- The request of a channel write at `a`, a locked pair where the watch unit's look-up says so (R29). -/
def State.chanWriteReq (c : ChanId) (step : ChanStep) (a : Addr) (w : Word) (s : State) : Request :=
  let tag := s.watchLookup a.toNat
  { kind := if tag.any (·.changedOnly) then .pair w else .write w, addr := a, code := 4 + c.val,
    issuer := .chan c step, watch := tag, abandoned := false }

/-- The request of a channel read at `a`: never judged by the watch unit (R28). -/
def chanReadReq (c : ChanId) (step : ChanStep) (a : Addr) : Request :=
  { kind := .read, addr := a, code := 4 + c.val, issuer := .chan c step, watch := none, abandoned := false }

/-- The request for the channel's next access (Table 7-4). -/
def State.chanRequest (c : ChanId) (step : ChanStep) (s : State) : Request :=
  let k := s.chans[c]
  match step with
  | .srcRead => chanReadReq c .srcRead k.desc.src
  | .dstRead => chanReadReq c .dstRead k.desc.dst
  | .fetchRead => chanReadReq c .fetchRead (k.desc.link + BitVec.ofNat 18 k.fetchBuf.length)
  | .dstWrite =>
    s.chanWriteReq c .dstWrite k.desc.dst
      (if k.desc.op = some .fill then k.desc.data else (match k.holding with | some w => w | none => 0))
  | .sumWrite => s.chanWriteReq c .sumWrite k.desc.dst k.desc.data

/-- The request of a FEED post write that the ring engine has issued (R124, Table 8-1). -/
def feedRequest (c : ChanId) (r : RingId) (f : InFlight) : Request :=
  { kind := .write f.post.word, addr := f.addr, code := 4 + c.val, issuer := .ring r, watch := none,
    abandoned := false }

/-- The access of the picked channel is presented (R126): an issued post write before an access of its own (log 18). -/
def State.presentChan (c : ChanId) (s : State) : State :=
  let t := { s with lastChan := c }
  match s.unpresentedPost c with
  | some r =>
    match s.rings[r].inFlight with
    | some f =>
      (t.modRing r fun k => { k with inFlight := some { f with presented := true } }).modReq reqOfEngine fun _ =>
        some (feedRequest c r f)
    | none => s
  | none =>
    match s.chans[c].nextStep with
    | some step => t.modReq reqOfEngine fun _ => some (s.chanRequest c step)
    | none => s

/-- The transfer engine picks a channel that needs an access, where it has none presented (R126). -/
def State.pickChan (s : State) : State :=
  if s.engineBusy then s
  else
    match s.chanOrder.find? s.needsAccess with
    | some c => s.presentChan c
    | none => s

end Sys2Proof.Machine
end

