-- ==== Sys2Proof/Machine/TableUnit.lean ====
section
/-! DEFINITION. The table unit (file 08): what a word of the table area, written by P0 or read by the sweep, does to
the shadow. -/

namespace Sys2Proof.Machine

/-! ## Table word indexes (Table 9-1) -/

/-- The index of word `k` of window entry `w`. -/
def winIndex (w : WinId) (k : Nat) : Nat := 0x10 + 4 * w.val + k

/-- The index of word `k` of ring record `r`. -/
def ringIndex (r : RingId) (k : Nat) : Nat := 0x90 + 8 * r.val + k

/-- The index of the lease word of lock `l`. -/
def leaseIndex (l : LockId) : Nat := 0xD0 + l.val

/-- The index of the binding word of slot `i` of port `p`. -/
def bindingIndex (p : PortId) (i : SlotId) : Nat := 0xE0 + 16 * p.val + i.val

/-- The address of a table word. -/
def tableAddr (idx : Nat) : Addr := BitVec.ofNat 18 (Config.tableBase + idx)

/-! ## Window entries (R155 to R158) -/

/-- The candidate's data words: staged over live (R156, R159). -/
def candidate {n : Nat} (live : Vector Word n) (staged : Vector (Option Word) n) : Vector Word n :=
  Vector.ofFn fun i => match staged[i] with | some v => v | none => live[i]

/-- The shape check of Table 9-2. -/
def shapeOk (k : WinKind) (d : Vector Word 3) (c : WinCtl) : Bool :=
  let len := winLen d
  let link := c.link.toNat
  let count := c.count.toNat
  match k with
  | .plain => true
  | .watch => true
  | .ring => decide (len = 2) && decide (link < 8)
  | .lock => decide (1 ≤ count) && decide (count ≤ 16) && decide (len = 2 * count) && decide (link + count ≤ 16)
  | .channel => decide (1 ≤ count) && decide (count ≤ 4) && decide (len = 8 * count) && decide (link + count ≤ 4)

/-- The objects that a window maps, as a range of numbers of its kind. -/
def mapped (k : WinKind) (c : WinCtl) : Range :=
  match k with
  | .ring => { base := c.link.toNat, len := 1 }
  | .lock => { base := c.link.toNat, len := c.count.toNat }
  | .channel => { base := c.link.toNat, len := c.count.toNat }
  | .plain => { base := 0, len := 0 }
  | .watch => { base := 0, len := 0 }

/-- The range meets no other VALID window and no storage of an enabled ring (R157 check 5, R158). -/
def State.winRangeFree (s : State) (w : WinId) (g : Range) : Bool :=
  (allWins.all fun v => decide (v = w) || !(s.windows[v].valid && (winRange s.windows[v].data).meets g))
  && (allRings.all fun r => !(s.recs[r].enable && (s.recs[r].storage).meets g))

/-- No object that the candidate maps is mapped by another VALID window (R157 check 6). -/
def State.notMapped (s : State) (w : WinId) (k : WinKind) (c : WinCtl) : Bool :=
  allWins.all fun v =>
    decide (v = w) || !(s.windows[v].valid && decide (s.windows[v].ctl.winKind = some k)
      && (mapped k s.windows[v].ctl).meets (mapped k c))

/-- The validation of a window candidate of entry `w` (R157): none if it passes, else the first reason. -/
def State.winReject (s : State) (w : WinId) (d : Vector Word 3) (c : WinCtl) : Option TableReason :=
  match c.winKind with
  | none => some .badKind
  | some k =>
    if k = .watch ∧ c.changedOnly = true ∧ c.onWrite = false then some .badFlags
    else if !shapeOk k d c then some .badShape
    else if !(winRange d).inSpan then some .outOfSpan
    else if !s.winRangeFree w (winRange d) then some .overlap
    else if !s.notMapped w k c then some .alreadyMapped
    else none

/-- Data word `k` of window entry `w` is staged (R155). -/
def State.stageWin (w : WinId) (k : Fin 3) (v : Word) (s : State) : State :=
  s.modWin w fun e => { e with staged := upd e.staged k fun _ => some v }

/-- The staged part is emptied, and the mark of damage is cleared (R156, R167). -/
def WinEntry.unstage (e : WinEntry) : WinEntry := { e with staged := Vector.replicate 3 none, damaged := false }

/-- The candidate becomes the live part (R156). -/
def WinEntry.installed (valid : Bool) (d : Vector Word 3) (c : WinCtl) : WinEntry :=
  { valid := valid, data := d, ctl := c, staged := Vector.replicate 3 none, damaged := false }

/-- A commit of window entry `w` by its control word (R156, R167). -/
def State.commitWin (w : WinId) (v : Word) (s : State) : State :=
  let e := s.windows[w]
  let d := candidate e.data e.staged
  let c := winCtlOf v
  if e.damaged then (s.modWin w (·.unstage)).rejectTable (winIndex w 3) .parity
  else if c.kind = 0 then s.modWin w fun _ => WinEntry.installed false d c
  else
    match s.winReject w d c with
    | none => s.modWin w fun _ => WinEntry.installed true d c
    | some r => (s.modWin w (·.unstage)).rejectTable (winIndex w 3) r

/-! ## Ring records (R159 to R161) -/

/-- The record with these data words, for the checks of a candidate. -/
def recOf (d : Vector Word 7) : RingRec :=
  { data := d, enable := true, staged := Vector.replicate 7 none, damaged := false }

/-- The storage meets no VALID window and no storage of another enabled ring (R160 check 3). -/
def State.storageFree (s : State) (r : RingId) (g : Range) : Bool :=
  (allWins.all fun v => !(s.windows[v].valid && (winRange s.windows[v].data).meets g))
  && (allRings.all fun q => decide (q = r) || !(s.recs[q].enable && (s.recs[q].storage).meets g))

/-- The shape check of R160. -/
def ringShapeOk (k : RingRec) : Bool :=
  decide (1 ≤ k.entrySize) && decide (k.entrySize ≤ 4) && decide (1 ≤ k.capacity) && decide (k.capacity ≤ 4096)
  && decide (1 ≤ k.watermark) && decide (k.watermark ≤ k.capacity) && decide (1 ≤ k.stallLimit)
  && decide (k.policy ≤ 1)

/-- The validation of a ring candidate (R160). -/
def State.ringReject (s : State) (r : RingId) (d : Vector Word 7) : Option TableReason :=
  let k := recOf d
  if !ringShapeOk k then some .badShape
  else if !(k.storage).inSpan then some .outOfSpan
  else if !s.storageFree r k.storage then some .overlap
  else none

/-- Data word `k` of ring record `r` is staged (R159). -/
def State.stageRing (r : RingId) (k : Fin 7) (v : Word) (s : State) : State :=
  s.modRec r fun e => { e with staged := upd e.staged k fun _ => some v }

/-- The staged part of a record is emptied, and the mark of damage is cleared (R160, R167). -/
def RingRec.unstage (e : RingRec) : RingRec := { e with staged := Vector.replicate 7 none, damaged := false }

/-- An accepted commit: the ring reset under the old configuration, then the new one at once (R91). -/
def State.installRing (r : RingId) (d : Vector Word 7) (en : Bool) (s : State) : State :=
  (s.resetRing r).modRec r fun _ => { data := d, enable := en, staged := Vector.replicate 7 none, damaged := false }

/-- A commit of ring record `r` by its word 7 (R159, R160, R167). -/
def State.commitRing (r : RingId) (v : Word) (s : State) : State :=
  let e := s.recs[r]
  let d := candidate e.data e.staged
  if e.damaged then (s.modRec r (·.unstage)).rejectTable (ringIndex r 7) .parity
  else if bit v 0 = false then s.installRing r d false
  else
    match s.ringReject r d with
    | none => s.installRing r d true
    | some x => (s.modRec r (·.unstage)).rejectTable (ringIndex r 7) x

/-! ## Header, leases and bindings (R153, R162, R163) -/

/-- A header word takes the written value (R153). -/
def State.writeHeader (n : Fin 4) (v : Word) (s : State) : State := { s with header := upd s.header n fun _ => v }

/-- A lease value (R162). -/
def State.writeLease (l : LockId) (v : Word) (s : State) : State := { s with leases := upd s.leases l fun _ => v }

/-- Another slot of the port is bound to the source (R163 check 3, R164). -/
def State.boundElsewhere (s : State) (p : PortId) (i : SlotId) (src : Source) : Bool :=
  allSlots.any fun j => decide (j ≠ i) && decide ((s.ctls[p].slots[j].binding).map (·.source) = some src)

/-- The slot takes a binding (R59): left as it is if the binding is the same, otherwise its notice is discarded. -/
def Slot.rebind (sl : Slot) (b : Option Binding) : Slot :=
  if sl.binding = b then sl else { binding := b, notice := none }

/-- Slot `i` of port `p` takes a binding. -/
def State.setBinding (p : PortId) (i : SlotId) (b : Option Binding) (s : State) : State :=
  s.modCtl p fun k => { k with slots := upd k.slots i fun sl => sl.rebind b }

/-- The reason for which a binding word is rejected, or the binding that it names (R163). -/
def State.checkBinding (s : State) (p : PortId) (i : SlotId) (v : Word) : Except TableReason (Option Binding) :=
  match bindingOf v with
  | .error e => .error e
  | .ok none => .ok none
  | .ok (some b) => if s.boundElsewhere p i b.source then .error .duplicate else .ok (some b)

/-- A binding word is applied (R163, R59, R60). -/
def State.writeBinding (p : PortId) (i : SlotId) (v : Word) (s : State) : State :=
  match s.checkBinding p i v with
  | .ok b => s.setBinding p i b
  | .error e => (s.setBinding p i none).rejectTable (bindingIndex p i) e

/-! ## A table word, by its index (Table 9-1) -/

/-- What a word of the table area is. -/
inductive TableWord where
  | header (n : Fin 4)
  | winData (w : WinId) (k : Fin 3)
  | winCtl (w : WinId)
  | ringData (r : RingId) (k : Fin 7)
  | ringCtl (r : RingId)
  | lease (l : LockId)
  | binding (p : PortId) (i : SlotId)
  /-- H4–H15 and words 120H–1FFH: memory only (R152). -/
  | plain
  deriving DecidableEq, Repr

/-- The region of a table word index (Table 9-1). -/
def tableWordOf (idx : Nat) : TableWord :=
  if h : idx < 4 then .header ⟨idx, h⟩
  else if idx < 0x10 then .plain
  else if idx < 0x90 then
    if h : (idx - 0x10) % 4 < 3 then .winData (Fin.ofNat 32 ((idx - 0x10) / 4)) ⟨(idx - 0x10) % 4, h⟩
    else .winCtl (Fin.ofNat 32 ((idx - 0x10) / 4))
  else if idx < 0xD0 then
    if h : (idx - 0x90) % 8 < 7 then .ringData (Fin.ofNat 8 ((idx - 0x90) / 8)) ⟨(idx - 0x90) % 8, h⟩
    else .ringCtl (Fin.ofNat 8 ((idx - 0x90) / 8))
  else if idx < 0xE0 then .lease (Fin.ofNat 16 (idx - 0xD0))
  else if idx < 0x120 then .binding (Fin.ofNat 4 ((idx - 0xE0) / 16)) (Fin.ofNat 16 ((idx - 0xE0) % 16))
  else .plain

/-- The table unit takes up a word (R152): of a P0 write, or of a sweep read without a parity error (R175). -/
def State.applyTable (t : TableWord) (v : Word) (s : State) : State :=
  match t with
  | .header n => s.writeHeader n v
  | .winData w k => s.stageWin w k v
  | .winCtl w => s.commitWin w v
  | .ringData r k => s.stageRing r k v
  | .ringCtl r => s.commitRing r v
  | .lease l => s.writeLease l v
  | .binding p i => s.writeBinding p i v
  | .plain => s

/-- A sweep word with a parity error is not applied (R167): a data word marks its entry or record damaged, a control word
clears the mark and makes no commit, and a binding word leaves its slot unbound (R60). -/
def State.damageTable (t : TableWord) (s : State) : State :=
  match t with
  | .winData w _ => s.modWin w fun e => { e with damaged := true }
  | .winCtl w => s.modWin w fun e => { e with damaged := false }
  | .ringData r _ => s.modRec r fun e => { e with damaged := true }
  | .ringCtl r => s.modRec r fun e => { e with damaged := false }
  | .binding p i => s.setBinding p i none
  | .header _ => s
  | .lease _ => s
  | .plain => s

end Sys2Proof.Machine
end

