-- ==== Sys2Proof/Machine/Teardown.lean ====
section
/-! DEFINITION. Abandoned cycles, the teardown of a port (R178) with each block's part of it, and the forcing of a lock
from its holder. -/

namespace Sys2Proof.Machine

/-! ## Abandonment (R3, R149) -/

/-- The result of the request is discarded when it completes (R149). -/
def Request.abandon (q : Request) : Request := { q with abandoned := true }

/-- An access in progress for a cycle of port `p` goes on, and its result is discarded (R3, R149). -/
def Access.abandonFor (p : PortId) (a : Access) : Access :=
  if a.req.code = p.val then { a with req := a.req.abandon } else a

/-- The port record without a cycle: PWAITN negated, PD not driven (R3). PD of a read that has completed, its strobe still
asserted, is given up too (log 21: DESIGN CHOICE). -/
def Port.abandonCycle (pt : Port) : Port :=
  { pt with cycle := none, pd := none, last := if pt.cycle.isSome then some .abandoned else pt.last }

/-- The cycle of port `p` is abandoned (R3): its request is withdrawn, or its granted access completes and its result is
discarded. -/
def State.abandonCycle (p : PortId) (s : State) : State :=
  let t := (s.modPort p (·.abandonCycle)).modReq (reqOfPort p) fun _ => none
  { t with inProg := t.inProg.map (·.abandonFor p) }

/-! ## The controller's part (R63) -/

/-- A controller as a teardown leaves it: bindings kept, everything else at its reset value (R63). -/
def Controller.cleared (k : Controller) : Controller :=
  { k with
    slots := allSlots.foldl (fun sl i => upd sl i fun x => { x with notice := none }) k.slots
    mask := 0xFFFF#16, threshold := 4, inService := [], rotation := 0, taken := none }

/-! ## The lock unit's part (R111) -/

/-- The claimant is withdrawn by the teardown of `p`: `p` itself, or a channel whose run `p` owns and which is not
IDLE. -/
def State.torn (s : State) (p : PortId) : Claimant → Bool
  | .port q => decide (q = p)
  | .chan c => decide (s.chans[c].owner = some p) && decide (s.chans[c].state ≠ .idle)

/-- The lock unit's part of a teardown (R111): first the queues, then the locks held, from lock 0 upward. -/
def State.tearLocks (p : PortId) (s : State) : State :=
  let t := allLocks.foldl (fun u l => u.dropWaiters l (s.torn p)) s
  allLocks.foldl (fun u l => if (s.locks[l].holder).any (s.torn p) then u.releaseLock l else u) t

/-! ## The ring engine's part (R92) -/

/-- The claimant of a hold item. -/
def HoldItem.who : HoldItem → Claimant
  | .post q => q.who
  | .take p => .port p

/-- The take assembly is closed if port `p` owns it; the entry stays at the head (R92 step 4). -/
def Ring.closeTake (k : Ring) (p : PortId) : Ring :=
  match k.takeAsm with
  | some a => if a.owner = p then { k with takeAsm := none } else k
  | none => k

/-- The access in flight is one of port `p`. -/
def Ring.flightOf (k : Ring) (p : PortId) : Bool := k.inFlight.any fun f => decide (f.post.who = .port p)

/-- An access of `p` in flight: if granted it goes on without an assembly; a withdrawn one is gone (R92 steps 3 and
4, R3, log 16). -/
def Ring.dropFlight (k : Ring) (p : PortId) (granted : Bool) : Ring :=
  if k.flightOf p then
    { k with inFlight := if granted then k.inFlight.map fun f => { f with attached := false } else none }
  else k

/-- The opened post awaiting issue is one of a withdrawn claimant. -/
def Ring.losesAwaiting (k : Ring) (out : Claimant → Bool) : Bool := k.awaiting.any fun q => out q.who

/-- An opened post of a withdrawn claimant is dropped with its assembly before its write is issued (R76, log 17). -/
def Ring.dropAwaiting (k : Ring) (out : Claimant → Bool) : Ring :=
  if k.losesAwaiting out then { k with postAsm := none, awaiting := none } else k

/-- Ring `r` with `p` and its channels withdrawn, before any opening (R92 steps 1 to 4, log 17). -/
def Ring.tear (k : Ring) (p : PortId) (out : Claimant → Bool) (granted : Bool) : Ring :=
  (((({ k with stall := k.stall.filter fun e => !out e.post.who
               hold := k.hold.filter fun i => !out i.who }).discardPost (.port p)).dropAwaiting out).closeTake
    p).dropFlight p granted

/-- The access in progress is the redirected access of ring `r`. -/
def State.ringGranted (s : State) (r : RingId) : Bool := s.inProg.any fun a => decide (a.req.issuer = .ring r)

/-- After the withdrawals the head of the stall queue opens where the condition has become true (R92 step 5), and a ring
that has become free goes on with its awaiting post and hold list (log 16). -/
def State.settleRing (r : RingId) (s : State) : State := (s.openHead r).resumeRing r

/-- The ring engine's part of a teardown (R92). -/
def State.tearRings (p : PortId) (s : State) : State :=
  let t := allRings.foldl (fun u r => u.modRing r fun k => k.tear p (s.torn p) (s.ringGranted r)) s
  allRings.foldl
    (fun u r =>
      if s.rings[r].ownsPost (.port p) || s.rings[r].losesAwaiting (s.torn p) || s.rings[r].flightOf p then u.settleRing r
      else u) t

/-! ## The transfer engine's part (R135) -/

/-- Every channel of port `p` that is not IDLE stops with DROPPED (R135). -/
def State.tearChans (p : PortId) (s : State) : State :=
  allChans.foldl
    (fun u c => if u.chans[c].owner = some p ∧ u.chans[c].state ≠ .idle then u.stopChan c .dropped else u) s

/-! ## The whole teardown (R178) -/

/-- The port record as a teardown leaves it (R178, R22): DOWN, the flag set, the refusal record empty. -/
def Port.tornDown (pt : Port) (cause : TeardownCause) : Port :=
  { pt with state := .down, dropped := true, refusal := none, teardown := some cause }

/-- The teardown of a port that is UP (R178), up to the channel stops that still wait for an access. The DROP_PORT write
that causes the teardown of P0 is not abandoned (R9). A ring that has become free goes on before the assemblies of the port's
FEED channels are discarded (log 17: DESIGN CHOICE). -/
def State.startTeardown (p : PortId) (cause : TeardownCause) (s : State) : State :=
  let t := s.modPort p (·.tornDown cause)
  let u := if cause = .drop ∧ p = 0 then t else t.abandonCycle p
  (((u.modCtl p (·.cleared)).tearLocks p).tearRings p).tearChans p

/-- A channel stop that the teardown of `p` waits for (R178). -/
def State.teardownWaits (s : State) (p : PortId) : Bool :=
  allChans.any fun c => decide (s.chans[c].owner = some p) && s.chans[c].stopPending.isSome

/-- The port after its teardown: UP if its PRSTN is high, else DOWN (R177, R179, log 9). -/
def Port.afterTeardown (pt : Port) : Port :=
  { pt with teardown := none, state := if pt.prstn then .up else .down }

/-- The DROP_PORT `p` write, if it is still in progress at P0, comes to its end (R9): it completes, or is abandoned where
P0 dropped itself and its PRSTN is low. -/
def State.endDrop (p : PortId) (s : State) : State :=
  if (s.ports[(0 : PortId)].cycle).any (fun c => decide (c.wait = .control p)) then
    if s.ports[(0 : PortId)].state = .up then s.completeWrite 0 else s.abandonCycle 0
  else s

/-- The teardown of `p` is complete when no channel stop that it waits for is pending (R178). -/
def State.finishTeardown (p : PortId) (s : State) : State :=
  if s.ports[p].teardown.isSome ∧ s.teardownWaits p = false then
    (s.modPort p (·.afterTeardown)).endDrop p
  else s

/-- A teardown, complete at once where nothing keeps it waiting (R178, log 9). -/
def State.tearDown (p : PortId) (cause : TeardownCause) (s : State) : State :=
  (s.startTeardown p cause).finishTeardown p

/-! ## Forcing a lock from its holder (R103, R105) -/

/-- The holder of lock `l` loses it: a port is told by LOCK-LOST, the lock is released, and a channel is stopped with
LEASE_LOST (R103, R105; the order of release and stop: log 20). A FREE lock stays as it is. -/
def State.forceLock (l : LockId) (forced : Bool) (s : State) : State :=
  match s.locks[l].holder with
  | none => s
  | some (.port p) => (s.deliver p .lockLost (lockLostDetail l forced)).releaseLock l
  | some (.chan c) => (s.releaseLock l).stopChan c .leaseLost

end Sys2Proof.Machine
end

