-- ==== Sys2Proof/Machine/AccessPath.lean ====
section
/-! DEFINITION. The access path (file 01): classification, the port window, CONTROL, the windows, and the presentation of
a cycle. -/

namespace Sys2Proof.Machine

/-! ## Classification (R5) -/

/-- What an address is to the access path (R5). -/
inductive Place where
  | portWord (k : Fin 16)
  | table (o : Nat)
  | storage
  | window (w : WinId)
  | memory
  deriving DecidableEq, Repr

/-- The window that claims the address, where header enable is 1 (R5, R6). -/
def State.claimedBy (s : State) (a : Addr) : Option WinId := if s.headerEnable then s.windowAt a.toNat else none

/-- The classification of an address (R5): the first that contains it. -/
def State.classify (s : State) (a : Addr) : Place :=
  match portWordOf a with
  | some k => .portWord k
  | none =>
    match tableOffsetOf a with
    | some o => .table o
    | none =>
      if (s.storageAt a.toNat).isSome then .storage
      else
        match s.claimedBy a with
        | some w => .window w
        | none => .memory

/-! ## Passing to memory (R16) -/

/-- A cycle of port `p` becomes a request at the arbiter, and is held until its access completes (R16). -/
def State.toMemory (p : PortId) (kind : AccKind) (a : Addr) (tag : Option WatchTag) (s : State) : State :=
  (s.modReq (reqOfPort p) fun _ =>
    some { kind := kind, addr := a, code := p.val, issuer := .port p, watch := tag, abandoned := false }).setWait p
      .memory

/-- The kind of the single access that a cycle passes on. -/
def singleKind (d : Dir) (v : Word) : AccKind :=
  match d with
  | .read => .read
  | .write => .write v

/-! ## The words of the notice controller (sections 4.3 to 4.7) -/

/-- The detail that TAKE loads (R46 step 1): a level slot's is the ring's count. -/
def State.takenDetail (s : State) (p : PortId) (i : SlotId) (src : Source) : Word :=
  match src with
  | .ringData r => BitVec.ofNat 16 s.rings[r].count
  | _ => (match s.ctls[p].slots[i].notice with | some n => n.detail | none => 0)

/-- What TAKE does to the controller when it selects slot `i` bound by `b` (R46). -/
def Controller.accept (k : Controller) (i : SlotId) (b : Binding) (d : Word) (autoEnd : Bool) : Controller :=
  { k with
    taken := some { source := b.source, detail := d }
    slots := if b.source.isLevel then k.slots else upd k.slots i fun x => { x with notice := none }
    inService := if autoEnd then k.inService else k.inService ++ [{ slot := i, level := b.level }]
    rotation := i }

/-- The change that a TAKE read makes (R46, R47). -/
def State.takeNotice (p : PortId) (s : State) : State :=
  match s.selected p with
  | none => s
  | some i =>
    match s.ctls[p].slots[i].binding with
    | some b => s.modCtl p fun k => k.accept i b (s.takenDetail p i b.source) (s.autoEnd p)
    | none => s

/-- A read of TAKE (R46, R47). -/
def State.readTake (p : PortId) (s : State) : State := (s.takeNotice p).completeRead p (s.takeAnswer p)

/-- A read of PEEK (R49). -/
def State.readPeek (p : PortId) (s : State) : State := s.completeRead p (s.takeAnswer p)

/-- The word DETAIL (R50). -/
def Controller.detailWord (k : Controller) : Word := match k.taken with | some t => t.detail | none => 0

/-- The word INSERVICE (R51). -/
def Controller.inServiceWord (k : Controller) : Word :=
  wordOfSlots fun i => k.inService.any fun e => decide (e.slot = i)

/-- A slot that PEND-CLEAR marks: a latched slot becomes not pending (R40). -/
def Slot.pendCleared (sl : Slot) : Slot :=
  match sl.binding with
  | some b => if b.source.isLevel then sl else { sl with notice := none }
  | none => sl

/-- The slots after PEND-CLEAR (R40). -/
def clearMarked (v : Word) (slots : Vector Slot 16) : Vector Slot 16 :=
  allSlots.foldl (fun sl i => if bit v i.val then upd sl i (·.pendCleared) else sl) slots

/-- A write to PENDING (R40). -/
def State.writePending (p : PortId) (v : Word) (s : State) : State :=
  (s.modCtl p fun k => { k with slots := clearMarked v k.slots }).completeWrite p

/-- A write to MASK (R41). -/
def State.writeMask (p : PortId) (v : Word) (s : State) : State :=
  (s.modCtl p fun k => { k with mask := k.mask ||| v }).completeWrite p

/-- A write to MASK-CLEAR (R41). -/
def State.writeMaskClear (p : PortId) (v : Word) (s : State) : State :=
  (s.modCtl p fun k => { k with mask := k.mask &&& ~~~v }).completeWrite p

/-- A write to THRESHOLD (R42, R182). -/
def State.writeThreshold (p : PortId) (v : Word) (s : State) : State :=
  if h : v.toNat < 5 then (s.modCtl p fun k => { k with threshold := ⟨v.toNat, h⟩ }).completeWrite p
  else s.refuse p .badValue

/-- The in-service entry with the smallest level-at-take (R53). -/
def mostUrgent (es : List InService) : Option InService :=
  [(0 : Level), 1, 2, 3].findSome? fun l => es.find? fun e => decide (e.level = l)

/-- A specific end of slot `i` (R52). -/
def State.endSlot (p : PortId) (i : SlotId) (s : State) : State :=
  if s.ctls[p].inService.any (fun e => decide (e.slot = i)) then
    (s.modCtl p fun k => { k with inService := k.inService.filter fun e => decide (e.slot ≠ i) }).completeWrite p
  else s.refuse p .endNotInService

/-- A non-specific end (R53). -/
def State.endUrgent (p : PortId) (s : State) : State :=
  match mostUrgent s.ctls[p].inService with
  | some x => (s.modCtl p fun k => { k with inService := k.inService.filter fun e => decide (e ≠ x) }).completeWrite p
  | none => s.refuse p .endNotInService

/-- A write to END (R52 to R54). -/
def State.writeEnd (p : PortId) (v : Word) (s : State) : State :=
  if v = 0xFFFF#16 then s.endUrgent p
  else if h : v.toNat < 16 then s.endSlot p ⟨v.toNat, h⟩
  else s.refuse p .badValue

/-- A write to SIGNAL (R55). -/
def State.writeSignal (p : PortId) (v : Word) (s : State) : State :=
  if h : v.toNat / 256 < 4 then
    (s.deliver ⟨v.toNat / 256, h⟩ (.signal p) (BitVec.ofNat 16 (v.toNat % 256))).completeWrite p
  else s.refuse p .badValue

/-! ## The other words that are read -/

/-- A read of REFUSAL-B (R19). -/
def State.readRefusalB (p : PortId) (s : State) : State :=
  (s.modPort p fun pt => { pt with refusal := none }).completeRead p (refusalB s.ports[p].refusal)

/-- A read of IDENT (R180). -/
def State.readIdent (p : PortId) (s : State) : State :=
  (s.modPort p fun pt => { pt with dropped := false }).completeRead p (identWord p s.kind s.ports[p].dropped)

/-- A read of FAULT-B (R147). -/
def State.readFaultB (p : PortId) (s : State) : State := ({ s with fault := none }).completeRead p (faultB s.fault)

/-! ## CONTROL (R9) -/

/-- The commands of Table 2-2. -/
inductive Control where
  | dropPort (n : PortId)
  | ringReset (r : RingId)
  | lockFree (l : LockId)
  | clearFault
  deriving DecidableEq, Repr

/-- The command that a CONTROL word names (Table 2-2). -/
def controlOf (v : Word) : Option Control :=
  let n := v.toNat % 256
  match v.toNat / 256 with
  | 1 => if h : n < 4 then some (.dropPort ⟨n, h⟩) else none
  | 2 => if h : n < 8 then some (.ringReset ⟨n, h⟩) else none
  | 3 => if h : n < 16 then some (.lockFree ⟨n, h⟩) else none
  | 4 => if n = 0 then some .clearFault else none
  | _ => none

/-- The CONTROL word that names a command. -/
def Control.word : Control → Word
  | .dropPort n => BitVec.ofNat 16 (256 + n.val)
  | .ringReset r => BitVec.ofNat 16 (512 + r.val)
  | .lockFree l => BitVec.ofNat 16 (768 + l.val)
  | .clearFault => 0x0400#16

/-- DROP_PORT `n` (R179): the write waits for the teardown of an UP port; a DOWN port is left as it is. -/
def State.doDropPort (n : PortId) (s : State) : State :=
  if s.ports[n].state = .up then (s.setWait 0 (.control n)).tearDown n .drop else s.completeWrite 0

/-- RING_RESET `r` (R88). -/
def State.doRingReset (r : RingId) (s : State) : State :=
  (if s.recs[r].enable then s.resetRing r else s).completeWrite 0

/-- The channel whose stop the forcing of lock `l` in `s` has left pending in `t`: the holder, where no earlier stop was pending
(R131, R133). -/
def State.stopsPending (s : State) (l : LockId) (t : State) : Option ChanId :=
  match s.locks[l].holder with
  | some (.chan c) => if s.chans[c].stopPending.isNone && t.chans[c].stopPending.isSome then some c else none
  | _ => none

/-- LOCK_FREE `l` (R105): the write completes with the lock unit's part done, and where it has stopped a channel, with the stop:
while the stop is pending the write is held (R4, R9, R132; log 20). -/
def State.doLockFree (l : LockId) (s : State) : State :=
  let t := s.forceLock l true
  match s.stopsPending l t with
  | some c => t.setWait 0 (.lockFree c)
  | none => t.completeWrite 0

/-- CLEAR_FAULT (R148). -/
def State.doClearFault (s : State) : State := ({ s with fault := none }).completeWrite 0

/-- A CONTROL command of P0 is carried out (R9). -/
def State.doControl (c : Control) (s : State) : State :=
  match c with
  | .dropPort n => s.doDropPort n
  | .ringReset r => s.doRingReset r
  | .lockFree l => s.doLockFree l
  | .clearFault => s.doClearFault

/-- A CONTROL write of P0 (R9). -/
def State.writeControl (p : PortId) (v : Word) (s : State) : State :=
  match controlOf v with
  | some c => s.doControl c
  | none => s.refuse p .badValue

/-! ## The port window (R8) -/

/-- The address of port-window word `k`. -/
def portWordAddr (k : Fin 16) : Addr := BitVec.ofNat 18 (Config.portWindowBase + k.val)

/-- The words that may be read (Table 2-1): all but END, SIGNAL and CONTROL. -/
def portReadable (k : Fin 16) : Bool := !([2, 9, 13] : List (Fin 16)).contains k

/-- The words that may be written (Table 2-1). -/
def portWritable (k : Fin 16) : Bool := ([2, 4, 6, 7, 8, 9, 13] : List (Fin 16)).contains k

/-- The words of P0 alone (Table 2-1). -/
def supervisorWord (k : Fin 16) : Bool := decide (13 ≤ k.val)

/-- A permitted read of port-window word `k` (Table 2-1). -/
def State.readPortWord (p : PortId) (k : Fin 16) (s : State) : State :=
  match k.val with
  | 0 => s.readTake p
  | 1 => s.readPeek p
  | 3 => s.completeRead p s.ctls[p].detailWord
  | 4 => s.completeRead p (wordOfSlots (s.slotPending p))
  | 5 => s.completeRead p s.ctls[p].inServiceWord
  | 6 => s.completeRead p s.ctls[p].mask
  | 7 => s.completeRead p s.ctls[p].mask
  | 8 => s.completeRead p (BitVec.ofNat 16 s.ctls[p].threshold.val)
  | 10 => s.completeRead p (refusalA s.ports[p].refusal)
  | 11 => s.readRefusalB p
  | 12 => s.readIdent p
  | 14 => s.completeRead p (faultA s.fault)
  | 15 => s.readFaultB p
  | _ => s.refuse p .windowWord

/-- A permitted write of port-window word `k` (Table 2-1). -/
def State.writePortWord (p : PortId) (k : Fin 16) (v : Word) (s : State) : State :=
  match k.val with
  | 2 => s.writeEnd p v
  | 4 => s.writePending p v
  | 6 => s.writeMask p v
  | 7 => s.writeMaskClear p v
  | 8 => s.writeThreshold p v
  | 9 => s.writeSignal p v
  | 13 => s.writeControl p v
  | _ => s.refuse p .windowWord

/-- A cycle classified to the port window (R8): direction, then supervisor, then the owner. -/
def State.portWindow (p : PortId) (k : Fin 16) (d : Dir) (v : Word) (s : State) : State :=
  match d with
  | .read =>
    if !portReadable k then s.refuse p .windowWord
    else if supervisorWord k && decide (p ≠ 0) then s.refuse p .supervisorOnly
    else s.readPortWord p k
  | .write =>
    if !portWritable k then s.refuse p .windowWord
    else if supervisorWord k && decide (p ≠ 0) then s.refuse p .supervisorOnly
    else s.writePortWord p k v

/-! ## The table area (R10) -/

/-- A cycle classified to the table area (R10): a P0 write is taken up by the table unit and becomes a memory write at the
same time. -/
def State.tableCycle (p : PortId) (o : Nat) (d : Dir) (a : Addr) (v : Word) (s : State) : State :=
  match d with
  | .read => s.toMemory p .read a none
  | .write =>
    if p = 0 then (s.applyTable (tableWordOf o) v).toMemory p (.write v) a none else s.refuse p .tableWrite

/-! ## Windows (R12 to R15) -/

/-- The reason for which a cycle without the right is refused (R13 to R15). -/
def noRight : Dir → Reason
  | .read => .noReadRight
  | .write => .noWriteRight

/-- A rightful cycle through a WATCH window (R13, R16, R26). -/
def State.watchCycle (p : PortId) (w : WinId) (d : Dir) (a : Addr) (v : Word) (s : State) : State :=
  let tag := s.watchTag w a.toNat
  match d with
  | .read => s.toMemory p .read a (some tag)
  | .write => s.toMemory p (if tag.changedOnly then .pair v else .write v) a (some tag)

/-- A read of the post word (R81, R82). -/
def State.readFree (p : PortId) (r : RingId) (s : State) : State :=
  if s.recs[r].enable then s.completeRead p (BitVec.ofNat 16 (s.freeCount r)) else s.refuse p .ringDisabled

/-- A post of port `p` reaches the ring engine (R68, R69). -/
def State.portPost (p : PortId) (r : RingId) (v : Word) (s : State) : State :=
  s.ringArrive r (.post { who := .port p, word := v, live := true })

/-- A take of port `p` reaches the ring engine (R68, R69). -/
def State.portTake (p : PortId) (r : RingId) (s : State) : State := s.ringArrive r (.take p)

/-- A rightful cycle through a RING window at word offset `o` (R14). -/
def State.ringCycle (p : PortId) (r : RingId) (o : Nat) (d : Dir) (v : Word) (s : State) : State :=
  match d with
  | .write => s.portPost p r v
  | .read => if o = 0 then s.readFree p r else s.portTake p r

/-- A rightful read through a LOCK window (R15, R97): an odd offset is the wait word. -/
def State.lockRead (p : PortId) (l : LockId) (wait : Bool) (s : State) : State :=
  (s.readLock wait p l).1.completeRead p (s.readLock wait p l).2

/-- A rightful cycle through a LOCK window whose link is `link` (R15). -/
def State.lockCycle (p : PortId) (link o : Nat) (d : Dir) (s : State) : State :=
  let l : LockId := Fin.ofNat 16 (link + o / 2)
  match d with
  | .read => s.lockRead p l (decide (o % 2 = 1))
  | .write => s.writeLock p l

/-- A rightful cycle through a CHANNEL window whose link is `link` (R15, R115). -/
def State.chanCycle (p : PortId) (link o : Nat) (d : Dir) (v : Word) (s : State) : State :=
  let c : ChanId := Fin.ofNat 4 (link + o / 8)
  match d with
  | .read => s.completeRead p (s.chans[c].readWord (o % 8))
  | .write => s.writeChan p c (o % 8) v

/-- A cycle through window `w` that holds the right (R12). A VALID window has one of the five kinds (R157). -/
def State.rightfulCycle (p : PortId) (w : WinId) (d : Dir) (a : Addr) (v : Word) (s : State) : State :=
  let o := a.toNat - winBase s.windows[w].data
  let link := s.windows[w].ctl.link.toNat
  match s.windows[w].ctl.winKind with
  | some .plain => s.toMemory p (singleKind d v) a none
  | some .watch => s.watchCycle p w d a v
  | some .ring => s.ringCycle p (Fin.ofNat 8 link) o d v
  | some .lock => s.lockCycle p link o d
  | some .channel => s.chanCycle p link o d v
  | none => s.toMemory p (singleKind d v) a none

/-- The cycle is a write to the take word of a RING window (R14). -/
def State.takeWordWrite (s : State) (w : WinId) (d : Dir) (a : Addr) : Bool :=
  decide (s.windows[w].ctl.winKind = some .ring) && decide (d = .write)
    && decide (a.toNat - winBase s.windows[w].data ≠ 0)

/-- A cycle claimed by window `w` (R12 to R15). -/
def State.windowCycle (p : PortId) (w : WinId) (d : Dir) (a : Addr) (v : Word) (s : State) : State :=
  if s.takeWordWrite w d a then s.refuse p .windowWord
  else if hasRight s.windows[w].data p d then s.rightfulCycle p w d a v
  else s.refuse p (noRight d)

/-! ## The arrival and the presentation of a cycle (R1, R5) -/

/-- The access path classifies the cycle of port `p` and hands it to its owner (R5). -/
def State.arrive (p : PortId) (d : Dir) (a : Addr) (v : Word) (s : State) : State :=
  match s.classify a with
  | .portWord k => s.portWindow p k d v
  | .table o => s.tableCycle p o d a v
  | .storage => s.refuse p .ringStorage
  | .window w => s.windowCycle p w d a v
  | .memory => s.toMemory p (singleKind d v) a none

/-- The port takes a cycle: it is in progress, and PD is no longer driven from the cycle before (R1, log 21). -/
def Port.accept (pt : Port) (d : Dir) (a : Addr) (v : Word) (w : CycleWait) : Port :=
  { pt with cycle := some { dir := d, addr := a, data := v, strobe := true, wait := w }, pd := none }

/-- A master presents a cycle on port `p` (R1). With a cycle in progress none is presented (log 6). -/
def State.present (p : PortId) (d : Dir) (a : Addr) (v : Word) (s : State) : State :=
  if s.ports[p].cycle.isSome then s
  else
    match s.ports[p].state with
    | .down => s
    | .off => s.modPort p fun pt => pt.accept d a v .unclassified
    | .up => (s.modPort p fun pt => pt.accept d a v .arriving).arrive p d a v

end Sys2Proof.Machine
end

