-- ==== Sys2Proof/Machine/StartUp.lean ====
section
/-! DEFINITION. Start-up control (file 09): the power-on reset, the clear, the warm reset, the sweep and the end of
start-up. -/

namespace Sys2Proof.Machine

/-! ## What both resets do -/

/-- A port as a part reset leaves it: OFF, its cycle abandoned, its record empty, its flag clear (R22, R169, R173). -/
def Port.partReset (pt : Port) : Port :=
  { pt.abandonCycle with state := .off, refusal := none, dropped := false, teardown := none }

/-- Every block's dynamic state and the shadow at their reset values (R22, R61, R62, R93, R112, R136, R150, R166). The
access in progress, the fault record and the part's own state are not touched here. -/
def State.resetBlocks (s : State) : State :=
  { s with
    ports := allPorts.foldl (fun v p => upd v p (·.partReset)) s.ports
    ctls := Vector.replicate 4 Controller.reset
    header := Vector.replicate 4 0#16
    windows := Vector.replicate 32 WinEntry.reset
    recs := Vector.replicate 8 RingRec.reset
    leases := Vector.replicate 16 0#16
    tick := 0
    rings := Vector.replicate 8 Ring.reset
    locks := Vector.replicate 16 Lock.reset
    chans := Vector.replicate 4 Chan.reset
    lastChan := 3
    reqs := Vector.replicate 5 none
    lastGrant := 4 }

/-! ## Power-on reset (R169) -/

/-- PONN goes low (R169): an access in progress completes within this step, and the memory is undefined (R150, log 14). With
PONN low already nothing changes (log 6). -/
def State.powerDown (s : State) : State :=
  if s.ponn then
    { s.resetBlocks with
      ponn := false, part := .coldClear, kind := .cold, inProg := none, fault := none, mem := [],
      powerOns := s.powerOns + 1 }
  else s

/-! ## Accesses of start-up control (R141) -/

/-- Start-up control's access to the table word at this offset is carried; it is no grant of the arbiter. Its code is 8,
SWEEP, for a clear write too (log 29: DESIGN CHOICE). -/
def State.startAccess (k : AccKind) (i : Issuer) (off : Nat) (s : State) : State :=
  { s with
    inProg := some { req := { kind := k, addr := tableAddr off, code := 8, issuer := i, watch := none,
                              abandoned := false }, old := none } }

/-- Clear write number `i` (R170). -/
def State.startClear (i : Nat) (s : State) : State := s.startAccess (.write 0) (.clear i) i

/-- The offset of sweep read number `i`, in the order of R175. -/
def sweepOffset (i : Nat) : Nat :=
  if i < 4 then i
  else if i < 68 then 0xE0 + (i - 4)
  else if i < 196 then 0x10 + (i - 68)
  else if i < 260 then 0x90 + (i - 196)
  else 0xD0 + (i - 260)

/-- Sweep read number `i` (R175). -/
def State.startSweep (i : Nat) (s : State) : State := s.startAccess .read (.sweep i) (sweepOffset i)

/-- PONN goes high: the clear begins (R170). -/
def State.powerUp (s : State) : State := if s.ponn then s else ({ s with ponn := true }).startClear 0

/-! ## Warm reset (R173) -/

/-- The access is one granted before a warm reset (R149). -/
def Access.stale (a : Access) : Access := { a with req := { a.req with issuer := .stale } }

/-- The DROP_PORT write of a teardown that has been taken and still waits completes before the reset (R174), unless P0 drops
itself with its PRSTN low, where the write is to be abandoned (R9, log 30). -/
def State.endTakenDrop (s : State) : State :=
  match s.ports[(0 : PortId)].cycle with
  | some c =>
    match c.wait with
    | .control n => if n = 0 ∧ s.ports[(0 : PortId)].prstn = false then s else s.completeWrite 0
    | _ => s
  | none => s

/-- A warm reset is taken (R173). The fault record is emptied at once, or when the access in progress has completed
(R149). -/
def State.warmReset (s : State) : State :=
  { s.endTakenDrop.resetBlocks with
    part := .sweep, kind := .warm, inProg := s.inProg.map (·.stale),
    fault := if s.inProg.isSome then s.fault else none }

/-- RSTN goes low: a warm reset, unless the part is in COLD_CLEAR (R170, R173). -/
def State.rstnFalls (s : State) : State :=
  if s.rstn then
    if s.part = .coldClear then { s with rstn := false } else ({ s with rstn := false }).warmReset
  else s

/-- The sweep begins where the part waits for it: RSTN is high and no access is in progress (R173, log 15). -/
def State.beginSweep (s : State) : State :=
  if s.part = .sweep ∧ s.rstn = true ∧ s.inProg = none then s.startSweep 0 else s

/-- RSTN goes high (R173). -/
def State.rstnRises (s : State) : State := if s.rstn then s else ({ s with rstn := true }).beginSweep

/-! ## The end of start-up (R171) -/

/-- A port's state at the end of start-up, by its PRSTN (R171). -/
def Port.leaveOff (pt : Port) : Port :=
  if pt.prstn then { pt with state := .up } else { pt.abandonCycle with state := .down }

/-- Port `p` leaves OFF; the controller of a port that goes DOWN is cleared (R171). -/
def State.leaveOff (p : PortId) (s : State) : State :=
  let t := s.modPort p (·.leaveOff)
  if s.ports[p].prstn then t else t.modCtl p (·.cleared)

/-- A cycle held unclassified on a port that is UP reaches the access path (R171). -/
def State.arriveHeld (p : PortId) (s : State) : State :=
  match s.ports[p].cycle with
  | none => s
  | some c =>
    if s.ports[p].state = .up ∧ c.wait = .unclassified then (s.setWait p .arriving).arrive p c.dir c.addr c.data else s

/-- How many ports hold a cycle that has not been classified. -/
def State.heldCount (s : State) : Nat :=
  (allPorts.filter fun p => (s.ports[p].cycle).any fun c => decide (c.wait = .unclassified)).length

/-- The held cycles reach the access path, in an order that is free where there are several (R171, log 10). -/
def State.arriveAll (s : State) : State :=
  if s.heldCount < 2 then allPorts.foldl (fun (u : State) p => u.arriveHeld p) s
  else
    (Config.portOrder (Config.startUpOrder s.freeUse).val).foldl (fun (u : State) p => u.arriveHeld p)
      { s with freeUse := s.freeUse + 1 }

/-- The start-up ends (R171). -/
def State.endStartUp (s : State) : State :=
  (allPorts.foldl (fun (u : State) p => u.leaveOff p) { s with part := .running }).arriveAll

/-! ## The clear (R170) -/

/-- Clear write number `i`, at address `a`, completes: the next one follows; after the last the start-up ends, or a warm
reset is taken with RSTN low (R170, R171). -/
def State.clearDone (i : Nat) (a : Addr) (s : State) : State :=
  let t := ({ s with inProg := none }).memWrite a 0
  if i + 1 < Config.tableWords then t.startClear (i + 1)
  else if t.rstn then t.endStartUp
  else t.warmReset

/-! ## The sweep (R175) -/

/-- The word of a sweep read is taken up by the table unit, or rejected with PARITY after its parity error has been
reported (R143, R167, R175). -/
def State.takeSwept (off : Nat) (c : MemCell) (s : State) : State :=
  if c.bad then
    ((s.reportParity (tableAddr off) 8).damageTable (tableWordOf off)).rejectTable off .parity
  else s.applyTable (tableWordOf off) c.word

/-- Sweep read number `i`, at address `a`, completes: the word is taken up, and the next read or the end of start-up
follows (R175). -/
def State.sweepDone (i : Nat) (a : Addr) (u : Upset) (s : State) : State :=
  let t := ({ s with inProg := none }).memUpset a u
  let v := t.takeSwept (sweepOffset i) (t.cellAt a)
  if i + 1 < Config.sweepWords then v.startSweep (i + 1) else v.endStartUp

/-! ## An access granted before a warm reset (R149) -/

/-- The memory after an access; a read may find bits upset, a pair's read was made at its grant (log 12, log 13). -/
def State.memEffect (q : Request) (u : Upset) (s : State) : State :=
  match q.kind with
  | .read => s.memUpset q.addr u
  | .write w => s.memWrite q.addr w
  | .pair w => s.memWrite q.addr w

/-- A stale access completes at the SRAM. Every port is OFF, so its deliveries are dropped; the fault record is emptied
after it; then a sweep that waits for it begins (R149, R173, log 15). -/
def State.staleDone (a : Access) (u : Upset) (s : State) : State :=
  ({ ({ s with inProg := none }).memEffect a.req u with fault := none }).beginSweep

end Sys2Proof.Machine
end

