-- ==== Sys2Proof/Machine/MemoryPort.lean ====
section
/-! DEFINITION. The memory port, the arbiter and the watch unit (files 07 and 02): grants, and the completion of the access
in progress. -/

namespace Sys2Proof.Machine

/-! ## Grants (R139, R140) -/

/-- The arbiter's search order: from the requester after the last-grant pointer (R139). -/
def State.grantOrder (s : State) : List (Fin 5) := ([0, 1, 2, 3, 4] : List (Fin 5)).map fun k => s.lastGrant + 1 + k

/-- The requester that a grant would serve (R139). -/
def State.nextGrant (s : State) : Option (Fin 5) := s.grantOrder.find? fun q => (s.reqs[q]).isSome

/-- The request of requester `q` becomes the access in progress; a pair's read half is made with the grant (R139, R140,
log 12). -/
def State.beginAccess (q : Fin 5) (r : Request) (u : Upset) (s : State) : State :=
  let t := { s.modReq q fun _ => none with lastGrant := q }
  match r.kind with
  | .pair _ =>
    let v := t.memUpset r.addr u
    let c := v.cellAt r.addr
    { v with inProg := some { req := r, old := some (c.word, c.bad) } }
  | _ => { t with inProg := some { req := r, old := none } }

/-- The arbiter grants a request, where the part is RUNNING, no access is in progress and a request is presented
(R139, R171). -/
def State.grant (u : Upset) (s : State) : State :=
  if s.part = .running ∧ s.inProg = none then
    match s.nextGrant with
    | some q => (match s.reqs[q] with | some r => s.beginAccess q r u | none => s)
    | none => s
  else s

/-! ## The watch unit's judgement (R23 to R27) -/

/-- The access is a hit (Table 3-1): `old` is a pair's old word with its parity verdict. -/
def WatchTag.hit (t : WatchTag) (k : AccKind) (old : Option (Word × Bool)) : Bool :=
  match k with
  | .read => t.onRead
  | .write _ => t.onWrite
  | .pair w => (match old with | some (o, bad) => bad || decide (o ≠ w) | none => false)

/-- A hit delivers WATCH to the target port (R31). -/
def State.judge (tag : Option WatchTag) (k : AccKind) (old : Option (Word × Bool)) (s : State) : State :=
  match tag with
  | some t => if t.hit k old then s.deliver t.target (.watch t.win) t.offset else s
  | none => s

/-! ## The result passes to the issuer (R137) -/

/-- A port's cycle completes with the result of its access (R16, R79). -/
def State.portDone (p : PortId) (k : AccKind) (w : Word) (s : State) : State :=
  match k with
  | .read => s.completeRead p w
  | _ => s.completeWrite p

/-- The effects on ring `r` of its completed access, if it still belongs to an assembly (R70 to R72, R79, R80, R90). -/
def State.ringEffect (r : RingId) (f : InFlight) (s : State) : State :=
  if f.attached then
    match f.dir with
    | .write => s.postWritten r
    | .read => s.takeRead r
  else s

/-- A ring's access is reported to its claimant: the port's cycle completes unless it was abandoned, the channel's word is
done unless a ring reset has stopped its run (R85, R90); then a stop of the next run that waits for the write completes
(R131). -/
def State.ringReport (q : Request) (f : InFlight) (w : Word) (s : State) : State :=
  match f.post.who with
  | .port p => if q.abandoned then s else s.portDone p q.kind w
  | .chan c => if f.post.live then s.wordDone c w else s.settleStop c

/-- The access in flight of ring `r` completes (R68): its effects, the leaving of a channel that
waits for it (R87), the report, then the awaiting post and the hold list. -/
def State.ringDone (r : RingId) (q : Request) (w : Word) (s : State) : State :=
  match s.rings[r].inFlight with
  | none => s
  | some f =>
    (((((s.modRing r fun k => { k with inFlight := none }).ringEffect r f).finishLeaving r f).ringReport q f w).resumeRing r)

/-- The result of a completed access passes to the block that issued it (R137, R149). -/
def State.passResult (q : Request) (w : Word) (bad : Bool) (s : State) : State :=
  match q.issuer with
  | .port p => if q.abandoned then s else s.portDone p q.kind w
  | .ring r => s.ringDone r q w
  | .chan c step => if q.abandoned then s.settleStop c else s.chanAccessDone c step w bad
  | .clear _ => s
  | .sweep _ => s
  | .stale => s

/-- The word that the access passes on, and whether its read had a parity error (R143). -/
def State.readBack (a : Access) (s : State) : Word × Bool :=
  match a.req.kind with
  | .read => ((s.cellAt a.req.addr).word, (s.cellAt a.req.addr).bad)
  | .write w => (w, false)
  | .pair w => (w, (match a.old with | some (_, bad) => bad | none => false))

/-- A parity error is reported (R143). -/
def State.reportIf (bad : Bool) (a : Addr) (code : Nat) (s : State) : State :=
  if bad then s.reportParity a code else s

/-- A granted access completes (R137): memory, parity report, watch judgement, and the issuer. A pair's parity error does
not reach its issuer (Table 8-2). -/
def State.grantedDone (a : Access) (u : Upset) (s : State) : State :=
  let t := ({ s with inProg := none }).memEffect a.req u
  let r := t.readBack a
  (((t.reportIf r.2 a.req.addr a.req.code).judge a.req.watch a.req.kind a.old).passResult a.req r.1 r.2)

/-- The access in progress completes (R137). -/
def State.completeAccess (u : Upset) (s : State) : State :=
  match s.inProg with
  | none => s
  | some a =>
    match a.req.issuer with
    | .clear i => s.clearDone i a.req.addr
    | .sweep i => s.sweepDone i a.req.addr u
    | .stale => s.staleDone a u
    | .port _ => s.grantedDone a u
    | .ring _ => s.grantedDone a u
    | .chan _ _ => s.grantedDone a u

/-- A clear write completes, if one is in progress (R170). -/
def State.completeClear (s : State) : State :=
  match s.inProg with
  | some a => (match a.req.issuer with | .clear i => s.clearDone i a.req.addr | _ => s)
  | none => s

/-- A sweep read completes, if one is in progress: applied, or not applied if a warm reset was taken meanwhile (R173,
R175). -/
def State.completeSweep (u : Upset) (s : State) : State :=
  match s.inProg with
  | some a =>
    (match a.req.issuer with
     | .sweep i => s.sweepDone i a.req.addr u
     | .stale => if a.req.code = 8 then s.staleDone a u else s
     | _ => s)
  | none => s

/-- The access in progress is one of channel `c`: its own, or the write of its post. -/
def State.accessOf (c : ChanId) (s : State) : Bool :=
  match s.inProg with
  | none => false
  | some a =>
    match a.req.issuer with
    | .chan _ _ => a.req.ofChan c
    | .ring r => s.rings[r].postInFlight c
    | _ => false

/-- A pending stop of channel `c` completes (R131): with the completion of its access, or, with nothing presented, at
once. -/
def State.completeStop (c : ChanId) (u : Upset) (s : State) : State :=
  if s.chans[c].stopPending.isNone then s
  else if s.accessOf c then s.completeAccess u
  else s.settleStop c

end Sys2Proof.Machine
end

