-- ==== Sys2Proof/Machine/Ticks.lean ====
section
/-! DEFINITION. The tick generator and what happens on a tick boundary (R77, R103, R154). -/

namespace Sys2Proof.Machine

/-- The lease of lock `l` has run out: its expiry is taken (R103). -/
def State.leaseExpires (l : LockId) (s : State) : State := if s.leaseDue l then s.forceLock l false else s

/-- The stall limit of port `p`'s entry at ring `r` has run out: its expiry is taken (R77). -/
def State.stallExpires (r : RingId) (p : PortId) (s : State) : State :=
  if s.rings[r].stall.any (·.dueFor p) then
    (s.modRing r fun k => { k with stall := k.stall.filter fun e => !e.dueFor p }).refuseFull r p
  else s

/-- Expiries of the last boundary that have not been taken are taken, in ascending order (log 5). -/
def State.settleDue (s : State) : State :=
  allRings.foldl (fun u r => allPorts.foldl (fun v p => v.stallExpires r p) u)
    (allLocks.foldl (fun u l => u.leaseExpires l) s)

/-- A lease timer on a boundary (R103). -/
def Lock.ticked (k : Lock) : Lock := if k.holder.isSome then { k with timer := k.timer.map (· - 1) } else k

/-- A ring's stall queue on a boundary: port entries count down, channel entries carry no count (R77). -/
def Ring.ticked (k : Ring) : Ring := { k with stall := k.stall.map fun e => { e with ticks := e.ticks.map (· - 1) } }

/-- Every running lease timer and every port entry's ticks decrease by 1 (R154). -/
def State.countDown (s : State) : State :=
  allRings.foldl (fun u r => u.modRing r (·.ticked)) (allLocks.foldl (fun u l => u.modLock l (·.ticked)) s)

/-- A tick boundary (R154): the counter returns to 0. While PONN is low none occurs. -/
def State.boundary (s : State) : State := if s.ponn then { s.settleDue.countDown with tick := 0 } else s

/-- One CLK period (R154). While PONN is low the counter stays 0 (R166, R169). -/
def State.clockPeriod (s : State) : State :=
  if s.ponn then
    let t := s.settleDue
    if t.tickLength ≤ t.tick + 1 then t.boundary else { t with tick := t.tick + 1 }
  else s

end Sys2Proof.Machine
end

