-- ==== Sys2Proof/Machine/ChannelCommands.lean ====
section
/-! DEFINITION. The meanings of the channel commands (file 06). -/

namespace Sys2Proof.Machine

/-- CHANNEL_FIELD_WRITE (R116). -/
def execChannelFieldWrite (p : PortId) (a : Addr) (v : Word) (s : State) : Host.Outcome State Fault Refusal :=
  .next (s.present p .write a v)

/-- CHANNEL_START (R120). -/
def execChannelStart (p : PortId) (a : Addr) (s : State) : Host.Outcome State Fault Refusal :=
  .next (s.present p .write a 1)

/-- CHANNEL_ABORT (R130). -/
def execChannelAbort (p : PortId) (a : Addr) (s : State) : Host.Outcome State Fault Refusal :=
  .next (s.present p .write a 2)

/-- STOP_PENDING_COMPLETE (R131). -/
def execStopPendingComplete (c : ChanId) (u : Upset) (s : State) : Host.Outcome State Fault Refusal :=
  .next (s.completeStop c u)

/-- CHANNEL_PICK (R126). -/
def execChannelPick (s : State) : Host.Outcome State Fault Refusal :=
  .next (s.pickChan)

end Sys2Proof.Machine
end

