-- ==== Sys2Proof/Machine/LockCommands.lean ====
section
/-! DEFINITION. The meanings of the lock commands (file 05) and of the tick boundary. -/

namespace Sys2Proof.Machine

/-- LOCK_TRY (R97). -/
def execLockTry (p : PortId) (a : Addr) (s : State) : Host.Outcome State Fault Refusal :=
  .next (s.present p .read a 0)

/-- LOCK_WAIT (R97). -/
def execLockWait (p : PortId) (a : Addr) (s : State) : Host.Outcome State Fault Refusal :=
  .next (s.present p .read a 0)

/-- LOCK_WRITE (R100). -/
def execLockWrite (p : PortId) (a : Addr) (v : Word) (s : State) : Host.Outcome State Fault Refusal :=
  .next (s.present p .write a v)

/-- LOCK_HANDOVER (R101): acts where a lock without a holder has a waiter (log 7). -/
def execLockHandover (l : LockId) (s : State) : Host.Outcome State Fault Refusal :=
  .next (if s.locks[l].holder.isNone then s.releaseLock l else s)

/-- LEASE_EXPIRY (R103). -/
def execLeaseExpiry (l : LockId) (s : State) : Host.Outcome State Fault Refusal :=
  .next (s.leaseExpires l)

/-- TICK_BOUNDARY (R154). -/
def execTickBoundary (s : State) : Host.Outcome State Fault Refusal :=
  .next (s.boundary)

end Sys2Proof.Machine
end

