-- ==== Sys2Proof/Machine/MemoryCommands.lean ====
section
/-! DEFINITION. The meanings of memory cycles (section 2.5) and of the memory port's events (file 07). -/

namespace Sys2Proof.Machine

/-- MEMORY_READ (R16). -/
def execMemoryRead (p : PortId) (a : Addr) (s : State) : Host.Outcome State Fault Refusal :=
  .next (s.present p .read a 0)

/-- MEMORY_WRITE (R16). -/
def execMemoryWrite (p : PortId) (a : Addr) (v : Word) (s : State) : Host.Outcome State Fault Refusal :=
  .next (s.present p .write a v)

/-- ARBITER_GRANT (R139). -/
def execArbiterGrant (u : Upset) (s : State) : Host.Outcome State Fault Refusal :=
  .next (s.grant u)

/-- MEMORY_ACCESS_COMPLETE (R137). -/
def execMemoryAccessComplete (u : Upset) (s : State) : Host.Outcome State Fault Refusal :=
  .next (s.completeAccess u)

end Sys2Proof.Machine
end

