-- ==== Sys2Proof/Machine/ResetCommands.lean ====
section
/-! DEFINITION. The meanings of the reset and start-up commands (file 09) and of the port pins. -/

namespace Sys2Proof.Machine

/-- PONN_LOW (R169). -/
def execPonnLow (s : State) : Host.Outcome State Fault Refusal :=
  .next (s.powerDown)

/-- PONN_HIGH (R170). -/
def execPonnHigh (s : State) : Host.Outcome State Fault Refusal :=
  .next (s.powerUp)

/-- COLD_CLEAR_WRITE_COMPLETE (R170, R171). -/
def execColdClearWriteComplete (s : State) : Host.Outcome State Fault Refusal :=
  .next (s.completeClear)

/-- RSTN_LOW (R173). -/
def execRstnLow (s : State) : Host.Outcome State Fault Refusal :=
  .next (s.rstnFalls)

/-- SWEEP_START (R173, R175). -/
def execSweepStart (s : State) : Host.Outcome State Fault Refusal :=
  .next (s.rstnRises)

/-- SWEEP_READ_COMPLETE (R175). -/
def execSweepReadComplete (u : Upset) (s : State) : Host.Outcome State Fault Refusal :=
  .next (s.completeSweep u)

/-- PRSTN of a port goes low (R172, R177): while RUNNING an UP port is torn down. -/
def State.prstnFalls (p : PortId) (s : State) : State :=
  let t := s.modPort p fun pt => { pt with prstn := false }
  if s.part = .running ∧ s.ports[p].state = .up then t.tearDown p .prstn else t

/-- PRSTN of a port goes high (R172, R177): while RUNNING a DOWN port whose teardown is complete goes UP. -/
def Port.prstnRises (pt : Port) (running : Bool) : Port :=
  if running ∧ pt.state = .down ∧ pt.teardown = none then { pt with prstn := true, state := .up }
  else { pt with prstn := true }

/-- PORT_RESET (R177). -/
def execPortReset (p : PortId) (s : State) : Host.Outcome State Fault Refusal :=
  .next (s.prstnFalls p)

/-- TEARDOWN_COMPLETE (R178, R179). -/
def execTeardownComplete (p : PortId) (s : State) : Host.Outcome State Fault Refusal :=
  .next (s.finishTeardown p)

/-- PORT_UP (R177). -/
def execPortUp (p : PortId) (s : State) : Host.Outcome State Fault Refusal :=
  .next (s.modPort p fun pt => pt.prstnRises (decide (s.part = .running)))

/-- The strobe is negated (R2): a cycle in progress is carried on and its read value is not driven; otherwise PD is no
longer driven (00_scope 1.9). -/
def Port.strobeNegated (pt : Port) : Port :=
  match pt.cycle with
  | some c => { pt with cycle := some { c with strobe := false } }
  | none => { pt with pd := none }

/-- STROBE_NEGATED (R2). -/
def execStrobeNegated (p : PortId) (s : State) : Host.Outcome State Fault Refusal :=
  .next (s.modPort p (·.strobeNegated))

/-- CYCLE_HELD_ON_OFF_PORT (R1): a cycle is presented on a port that is OFF. -/
def execCycleHeldOnOffPort (p : PortId) (d : Dir) (a : Addr) (v : Word) (s : State) : Host.Outcome State Fault Refusal :=
  .next (s.present p d a v)

end Sys2Proof.Machine
end

