-- ==== Sys2Proof/Machine/RingCommands.lean ====
section
/-! DEFINITION. The meanings of the ring commands (file 04). -/

namespace Sys2Proof.Machine

/-- RING_POST (R69). -/
def execRingPost (p : PortId) (a : Addr) (v : Word) (s : State) : Host.Outcome State Fault Refusal :=
  .next (s.present p .write a v)

/-- RING_TAKE (R79). -/
def execRingTake (p : PortId) (a : Addr) (s : State) : Host.Outcome State Fault Refusal :=
  .next (s.present p .read a 0)

/-- FREE_COUNT_READ (R81). -/
def execFreeCountRead (p : PortId) (a : Addr) (s : State) : Host.Outcome State Fault Refusal :=
  .next (s.present p .read a 0)

/-- HOLD_LIST_TAKE_UP (R68): acts where something is left to take up (log 7). -/
def execHoldListTakeUp (r : RingId) (s : State) : Host.Outcome State Fault Refusal :=
  .next (s.resumeRing r)

/-- STALLED_POST_OPEN (R76): acts where the head can open (log 7). -/
def execStalledPostOpen (r : RingId) (s : State) : Host.Outcome State Fault Refusal :=
  .next (s.openHead r)

/-- STALL_LIMIT_EXPIRY (R77). -/
def execStallLimitExpiry (r : RingId) (p : PortId) (s : State) : Host.Outcome State Fault Refusal :=
  .next (s.stallExpires r p)

end Sys2Proof.Machine
end

