-- ==== Sys2Proof/Machine/TableCommands.lean ====
section
/-! DEFINITION. The meanings of P0's writes to the table area (file 08). -/

namespace Sys2Proof.Machine

/-- HEADER_WRITE (R153). -/
def execHeaderWrite (n : Fin 4) (v : Word) (s : State) : Host.Outcome State Fault Refusal :=
  .next (s.present 0 .write (tableAddr n.val) v)

/-- WINDOW_DATA_WRITE (R155). -/
def execWindowDataWrite (w : WinId) (k : Fin 3) (v : Word) (s : State) : Host.Outcome State Fault Refusal :=
  .next (s.present 0 .write (tableAddr (winIndex w k.val)) v)

/-- WINDOW_COMMIT (R156). -/
def execWindowCommit (w : WinId) (v : Word) (s : State) : Host.Outcome State Fault Refusal :=
  .next (s.present 0 .write (tableAddr (winIndex w 3)) v)

/-- RING_DATA_WRITE (R159). -/
def execRingDataWrite (r : RingId) (k : Fin 7) (v : Word) (s : State) : Host.Outcome State Fault Refusal :=
  .next (s.present 0 .write (tableAddr (ringIndex r k.val)) v)

/-- RING_COMMIT (R160). -/
def execRingCommit (r : RingId) (v : Word) (s : State) : Host.Outcome State Fault Refusal :=
  .next (s.present 0 .write (tableAddr (ringIndex r 7)) v)

/-- LEASE_WRITE (R162). -/
def execLeaseWrite (l : LockId) (v : Word) (s : State) : Host.Outcome State Fault Refusal :=
  .next (s.present 0 .write (tableAddr (leaseIndex l)) v)

/-- BINDING_WRITE (R163). -/
def execBindingWrite (q : PortId) (i : SlotId) (v : Word) (s : State) : Host.Outcome State Fault Refusal :=
  .next (s.present 0 .write (tableAddr (bindingIndex q i)) v)

end Sys2Proof.Machine
end

