-- ==== Sys2Proof/Machine/WindowCommands.lean ====
section
/-! DEFINITION. The meanings of the port-window commands (section 2.3, file 03 and the CONTROL commands). -/

namespace Sys2Proof.Machine

/-- TAKE (R46). -/
def execTake (p : PortId) (s : State) : Host.Outcome State Fault Refusal :=
  .next (s.present p .read (portWordAddr 0) 0)

/-- PEEK (R49). -/
def execPeek (p : PortId) (s : State) : Host.Outcome State Fault Refusal :=
  .next (s.present p .read (portWordAddr 1) 0)

/-- END_SPECIFIC (R52). -/
def execEndSpecific (p : PortId) (v : Word) (s : State) : Host.Outcome State Fault Refusal :=
  .next (s.present p .write (portWordAddr 2) v)

/-- END_NON_SPECIFIC (R53). -/
def execEndNonSpecific (p : PortId) (s : State) : Host.Outcome State Fault Refusal :=
  .next (s.present p .write (portWordAddr 2) 0xFFFF#16)

/-- PEND_CLEAR (R40). -/
def execPendClear (p : PortId) (v : Word) (s : State) : Host.Outcome State Fault Refusal :=
  .next (s.present p .write (portWordAddr 4) v)

/-- MASK_SET (R41). -/
def execMaskSet (p : PortId) (v : Word) (s : State) : Host.Outcome State Fault Refusal :=
  .next (s.present p .write (portWordAddr 6) v)

/-- MASK_CLEAR (R41). -/
def execMaskClear (p : PortId) (v : Word) (s : State) : Host.Outcome State Fault Refusal :=
  .next (s.present p .write (portWordAddr 7) v)

/-- THRESHOLD (R42). -/
def execThreshold (p : PortId) (v : Word) (s : State) : Host.Outcome State Fault Refusal :=
  .next (s.present p .write (portWordAddr 8) v)

/-- SIGNAL (R55). -/
def execSignal (p : PortId) (v : Word) (s : State) : Host.Outcome State Fault Refusal :=
  .next (s.present p .write (portWordAddr 9) v)

/-- REFUSAL_B_READ (R19). -/
def execRefusalBRead (p : PortId) (s : State) : Host.Outcome State Fault Refusal :=
  .next (s.present p .read (portWordAddr 11) 0)

/-- IDENT_READ (R180). -/
def execIdentRead (p : PortId) (s : State) : Host.Outcome State Fault Refusal :=
  .next (s.present p .read (portWordAddr 12) 0)

/-- FAULT_B_READ (R147). -/
def execFaultBRead (p : PortId) (s : State) : Host.Outcome State Fault Refusal :=
  .next (s.present p .read (portWordAddr 15) 0)

/-- DROP_PORT (R179). -/
def execDropPort (p : PortId) (n : PortId) (s : State) : Host.Outcome State Fault Refusal :=
  .next (s.present p .write (portWordAddr 13) (Control.dropPort n).word)

/-- RING_RESET (R89). -/
def execRingReset (p : PortId) (r : RingId) (s : State) : Host.Outcome State Fault Refusal :=
  .next (s.present p .write (portWordAddr 13) (Control.ringReset r).word)

/-- LOCK_FREE (R105). -/
def execLockFree (p : PortId) (l : LockId) (s : State) : Host.Outcome State Fault Refusal :=
  .next (s.present p .write (portWordAddr 13) (Control.lockFree l).word)

/-- CLEAR_FAULT (R148). -/
def execClearFault (p : PortId) (s : State) : Host.Outcome State Fault Refusal :=
  .next (s.present p .write (portWordAddr 13) Control.clearFault.word)

/-- READ_ONLY_WORD_WRITE (R8): a write to a word that has no write. -/
def execReadOnlyWordWrite (p : PortId) (a : Addr) (v : Word) (s : State) : Host.Outcome State Fault Refusal :=
  .next (s.present p .write a v)

/-- WRITE_ONLY_WORD_READ (R8): a read of a word that has no read. -/
def execWriteOnlyWordRead (p : PortId) (a : Addr) (s : State) : Host.Outcome State Fault Refusal :=
  .next (s.present p .read a 0)

end Sys2Proof.Machine
end

