-- ==== Sys2Proof/Machine/Dispatch.lean ====
section
/-! DEFINITION. The effect of each command on everything but the queue: one arm per row of spec/opcode_table.json. -/

namespace Sys2Proof.Machine

/-- The effect of a command. -/
def exec (i : Instr) (s : State) : Host.Outcome State Fault Refusal :=
  match i with
  | .ponnLow => Sys2Proof.Machine.execPonnLow s
  | .ponnHigh => Sys2Proof.Machine.execPonnHigh s
  | .coldClearWriteComplete => Sys2Proof.Machine.execColdClearWriteComplete s
  | .rstnLow => Sys2Proof.Machine.execRstnLow s
  | .sweepStart => Sys2Proof.Machine.execSweepStart s
  | .sweepReadComplete upset => Sys2Proof.Machine.execSweepReadComplete upset s
  | .portReset p => Sys2Proof.Machine.execPortReset p s
  | .teardownComplete p => Sys2Proof.Machine.execTeardownComplete p s
  | .portUp p => Sys2Proof.Machine.execPortUp p s
  | .strobeNegated p => Sys2Proof.Machine.execStrobeNegated p s
  | .memoryRead p a => Sys2Proof.Machine.execMemoryRead p a s
  | .memoryWrite p a v => Sys2Proof.Machine.execMemoryWrite p a v s
  | .headerWrite n v => Sys2Proof.Machine.execHeaderWrite n v s
  | .windowDataWrite w k v => Sys2Proof.Machine.execWindowDataWrite w k v s
  | .windowCommit w v => Sys2Proof.Machine.execWindowCommit w v s
  | .ringDataWrite r k v => Sys2Proof.Machine.execRingDataWrite r k v s
  | .ringCommit r v => Sys2Proof.Machine.execRingCommit r v s
  | .leaseWrite l v => Sys2Proof.Machine.execLeaseWrite l v s
  | .bindingWrite q slot v => Sys2Proof.Machine.execBindingWrite q slot v s
  | .take p => Sys2Proof.Machine.execTake p s
  | .peek p => Sys2Proof.Machine.execPeek p s
  | .endSpecific p v => Sys2Proof.Machine.execEndSpecific p v s
  | .endNonSpecific p => Sys2Proof.Machine.execEndNonSpecific p s
  | .pendClear p v => Sys2Proof.Machine.execPendClear p v s
  | .maskSet p v => Sys2Proof.Machine.execMaskSet p v s
  | .maskClear p v => Sys2Proof.Machine.execMaskClear p v s
  | .threshold p v => Sys2Proof.Machine.execThreshold p v s
  | .signal p v => Sys2Proof.Machine.execSignal p v s
  | .refusalBRead p => Sys2Proof.Machine.execRefusalBRead p s
  | .identRead p => Sys2Proof.Machine.execIdentRead p s
  | .faultBRead p => Sys2Proof.Machine.execFaultBRead p s
  | .readOnlyWordWrite p a v => Sys2Proof.Machine.execReadOnlyWordWrite p a v s
  | .dropPort p n => Sys2Proof.Machine.execDropPort p n s
  | .ringReset p r => Sys2Proof.Machine.execRingReset p r s
  | .lockFree p l => Sys2Proof.Machine.execLockFree p l s
  | .clearFault p => Sys2Proof.Machine.execClearFault p s
  | .ringPost p a v => Sys2Proof.Machine.execRingPost p a v s
  | .ringTake p a => Sys2Proof.Machine.execRingTake p a s
  | .freeCountRead p a => Sys2Proof.Machine.execFreeCountRead p a s
  | .holdListTakeUp r => Sys2Proof.Machine.execHoldListTakeUp r s
  | .stalledPostOpen r => Sys2Proof.Machine.execStalledPostOpen r s
  | .stallLimitExpiry r p => Sys2Proof.Machine.execStallLimitExpiry r p s
  | .lockTry p a => Sys2Proof.Machine.execLockTry p a s
  | .lockWait p a => Sys2Proof.Machine.execLockWait p a s
  | .lockWrite p a v => Sys2Proof.Machine.execLockWrite p a v s
  | .lockHandover l => Sys2Proof.Machine.execLockHandover l s
  | .leaseExpiry l => Sys2Proof.Machine.execLeaseExpiry l s
  | .tickBoundary => Sys2Proof.Machine.execTickBoundary s
  | .channelFieldWrite p a v => Sys2Proof.Machine.execChannelFieldWrite p a v s
  | .channelStart p a => Sys2Proof.Machine.execChannelStart p a s
  | .channelAbort p a => Sys2Proof.Machine.execChannelAbort p a s
  | .stopPendingComplete c upset => Sys2Proof.Machine.execStopPendingComplete c upset s
  | .channelPick => Sys2Proof.Machine.execChannelPick s
  | .arbiterGrant upset => Sys2Proof.Machine.execArbiterGrant upset s
  | .memoryAccessComplete upset => Sys2Proof.Machine.execMemoryAccessComplete upset s
  | .cycleHeldOnOffPort p d a v => Sys2Proof.Machine.execCycleHeldOnOffPort p d a v s
  | .writeOnlyWordRead p a => Sys2Proof.Machine.execWriteOnlyWordRead p a s

end Sys2Proof.Machine
end

