-- ==== Sys2Proof/Machine/Step.lean ====
section
/-! DEFINITION. One step: the front command of the queue, or one CLK period on an empty queue. -/

namespace Sys2Proof.Machine

/-- The step: the front of the queue is executed on the state with the queue's rest; on an empty queue one CLK period
passes (R154, log 3). -/
def step (s : State) : Host.Outcome State Fault Refusal :=
  match s.pending with
  | [] => .next s.clockPeriod
  | c :: rest => exec c { s with pending := rest }

/-- The state with the command that a word spells put at the front of its queue; no word spells one
(spec/opcode_table.json gives no bits). -/
def State.withFetchWord (s : State) (nbits w : Nat) : State :=
  match decodeTableWord nbits w with
  | some c => { s with pending := c :: s.pending }
  | none => s

end Sys2Proof.Machine
end

