-- ==== Sys2Proof/Safety.lean ====
section
/-! DEFINITION. The terms in which claims are made: a port that takes a cycle, the ends of cycles, what is left as it was, and the
laws of the part that hold in every state that it reaches. -/

namespace Sys2Proof.Machine

/-! ## Ports and cycles -/

/-- Port `p` is UP and has no cycle in progress, so that it takes the next one (R1). -/
abbrev State.ready (s : State) (p : PortId) : Prop := s.ports[p].state = .up ∧ s.ports[p].cycle = none

/-- A port whose read has completed with `w` (R2). -/
def Port.afterRead (pt : Port) (w : Word) : Port :=
  { pt with cycle := none, pd := some w, last := some (.read w) }

/-- A port whose write has completed (R2). -/
def Port.afterWrite (pt : Port) : Port := { pt with cycle := none, pd := none, last := some .write }

/-- A port whose cycle was refused on arrival (R17, R18). -/
def Port.afterRefusal (pt : Port) (d : Dir) (a : Addr) (r : Reason) : Port :=
  { pt with
    cycle := none
    refusal := loadRefusal pt.refusal a d r
    pd := match d with | .read => some 0xFFFF#16 | .write => none
    last := some (match d with | .read => .read 0xFFFF#16 | .write => .write) }

/-- A port whose cycle is held (R2). -/
def Port.holding (pt : Port) (d : Dir) (a : Addr) (v : Word) (w : CycleWait) : Port :=
  { pt with cycle := some { dir := d, addr := a, data := v, strobe := true, wait := w }, pd := none }

/-- The read of port `p` has completed with `w`, and nothing else has changed. -/
def State.answered (s : State) (p : PortId) (w : Word) : State := s.modPort p (·.afterRead w)

/-- The write of port `p` has completed, and nothing else has changed. -/
def State.written (s : State) (p : PortId) : State := s.modPort p (·.afterWrite)

/-- The cycle of port `p` was refused on arrival: its record, REFUSAL at its own controller, and nothing else (R17 to
R20). -/
def State.refusedOn (s : State) (p : PortId) (d : Dir) (a : Addr) (r : Reason) : State :=
  (s.deliver p .refusal (BitVec.ofNat 16 r.code)).modPort p fun pt => pt.afterRefusal d a r

/-- The cycle of port `p` is held for its request, which is presented at the arbiter, and nothing else has changed (R16,
R138). -/
def State.requested (s : State) (p : PortId) (d : Dir) (a : Addr) (v : Word) (w : CycleWait) (q : Request) : State :=
  (s.modPort p fun pt => pt.holding d a v w).modReq (reqOfPort p) fun _ => some q

/-- The plain request of port `p`. -/
def portRequest (p : PortId) (k : AccKind) (a : Addr) (tag : Option WatchTag) : Request :=
  { kind := k, addr := a, code := p.val, issuer := .port p, watch := tag, abandoned := false }

/-! ## Rows and cycles -/

/-- The cycle that a row presents, where the row is a port cycle: port, direction, address and written word (log 8). -/
def cycleOf : Instr → Option (PortId × Dir × Addr × Word)
  | .memoryRead p a => some (p, .read, a, 0)
  | .memoryWrite p a v => some (p, .write, a, v)
  | .headerWrite n v => some (0, .write, tableAddr n.val, v)
  | .windowDataWrite w k v => some (0, .write, tableAddr (winIndex w k.val), v)
  | .windowCommit w v => some (0, .write, tableAddr (winIndex w 3), v)
  | .ringDataWrite r k v => some (0, .write, tableAddr (ringIndex r k.val), v)
  | .ringCommit r v => some (0, .write, tableAddr (ringIndex r 7), v)
  | .leaseWrite l v => some (0, .write, tableAddr (leaseIndex l), v)
  | .bindingWrite q i v => some (0, .write, tableAddr (bindingIndex q i), v)
  | .take p => some (p, .read, 0x3FDF0#18, 0)
  | .peek p => some (p, .read, 0x3FDF1#18, 0)
  | .endSpecific p v => some (p, .write, 0x3FDF2#18, v)
  | .endNonSpecific p => some (p, .write, 0x3FDF2#18, 0xFFFF#16)
  | .pendClear p v => some (p, .write, 0x3FDF4#18, v)
  | .maskSet p v => some (p, .write, 0x3FDF6#18, v)
  | .maskClear p v => some (p, .write, 0x3FDF7#18, v)
  | .threshold p v => some (p, .write, 0x3FDF8#18, v)
  | .signal p v => some (p, .write, 0x3FDF9#18, v)
  | .refusalBRead p => some (p, .read, 0x3FDFB#18, 0)
  | .identRead p => some (p, .read, 0x3FDFC#18, 0)
  | .faultBRead p => some (p, .read, 0x3FDFF#18, 0)
  | .readOnlyWordWrite p a v => some (p, .write, a, v)
  | .writeOnlyWordRead p a => some (p, .read, a, 0)
  | .dropPort p n => some (p, .write, 0x3FDFD#18, BitVec.ofNat 16 (0x100 + n.val))
  | .ringReset p r => some (p, .write, 0x3FDFD#18, BitVec.ofNat 16 (0x200 + r.val))
  | .lockFree p l => some (p, .write, 0x3FDFD#18, BitVec.ofNat 16 (0x300 + l.val))
  | .clearFault p => some (p, .write, 0x3FDFD#18, 0x400#16)
  | .ringPost p a v => some (p, .write, a, v)
  | .ringTake p a => some (p, .read, a, 0)
  | .freeCountRead p a => some (p, .read, a, 0)
  | .lockTry p a => some (p, .read, a, 0)
  | .lockWait p a => some (p, .read, a, 0)
  | .lockWrite p a v => some (p, .write, a, v)
  | .channelFieldWrite p a v => some (p, .write, a, v)
  | .channelStart p a => some (p, .write, a, 1)
  | .channelAbort p a => some (p, .write, a, 2)
  | .cycleHeldOnOffPort p d a v => some (p, d, a, v)
  | _ => none

/-- Address `a` is word offset `o` of VALID RING window `w`, which maps ring `r`, and port `p` has the right for the direction
(R12, R14). -/
abbrev State.atRing (s : State) (p : PortId) (d : Dir) (a : Addr) (w : WinId) (r : RingId) (o : Nat) : Prop :=
  s.classify a = .window w ∧ s.windows[w].ctl.winKind = some .ring ∧ s.windows[w].ctl.link.toNat = r.val ∧
    a.toNat = winBase s.windows[w].data + o ∧ hasRight s.windows[w].data p d = true

/-- Address `a` is word offset `o` of VALID LOCK window `w` and names lock `l`, and port `p` has the right for the direction
(R15). -/
abbrev State.atLock (s : State) (p : PortId) (d : Dir) (a : Addr) (w : WinId) (l : LockId) (o : Nat) : Prop :=
  s.classify a = .window w ∧ s.windows[w].ctl.winKind = some .lock ∧ s.windows[w].ctl.link.toNat + o / 2 = l.val ∧
    a.toNat = winBase s.windows[w].data + o ∧ hasRight s.windows[w].data p d = true

/-- Address `a` lies in VALID CHANNEL window `w` and names word `k` of channel `c`, and port `p` has the right for the
direction (R15). -/
abbrev State.atChan (s : State) (p : PortId) (d : Dir) (a : Addr) (w : WinId) (c : ChanId) (k : Nat) : Prop :=
  s.classify a = .window w ∧ s.windows[w].ctl.winKind = some .channel ∧ winBase s.windows[w].data ≤ a.toNat ∧
    s.windows[w].ctl.link.toNat + (a.toNat - winBase s.windows[w].data) / 8 = c.val ∧
    (a.toNat - winBase s.windows[w].data) % 8 = k ∧ hasRight s.windows[w].data p d = true

/-! ## Selection (R45) -/

/-- The slot's level; 4 for an unbound slot. -/
def State.slotLevel (s : State) (p : PortId) (i : SlotId) : Nat :=
  match s.ctls[p].slots[i].binding with
  | some b => b.level.val
  | none => 4

/-- How late the search of R45 reaches slot `i`: from slot 0 upward, or from the slot after the rotation pointer upward,
wrapping. -/
def State.searchRank (s : State) (p : PortId) (i : SlotId) : Nat :=
  if s.rotating p then (i.val + 15 - (s.ctls[p].rotation).val) % 16 else i.val

/-! ## Rings -/

/-- Port `p`'s held cycle `c` is refused: its record, REFUSAL at its own controller, and the end of the cycle (R17, R18, R20). -/
def State.refusedHeld (s : State) (p : PortId) (c : Cycle) (r : Reason) : State :=
  (s.deliver p .refusal (BitVec.ofNat 16 r.code)).modPort p fun pt => { pt with
    cycle := none
    refusal := some (match pt.refusal with
      | none => { addr := c.addr, kind := c.dir, reason := r, further := false }
      | some o => { o with further := true })
    pd := match c.dir with | .read => if c.strobe then some 0xFFFF#16 else none | .write => none
    last := some (match c.dir with | .read => .read 0xFFFF#16 | .write => .write) }

/-- Ring `r` has this access in flight (R66). -/
def State.inFlightAt (s : State) (r : RingId) (q : Post) (d : Dir) (x : Addr) (presented : Bool) : State :=
  s.modRing r fun k => { k with
    inFlight := some { post := q, dir := d, addr := x, attached := true, presented := presented, leaving := false } }

/-- Port `p`'s redirected access at ring `r` is in flight and presented at the arbiter (R70, R79, R138). -/
def State.portIssued (s : State) (r : RingId) (p : PortId) (q : Post) (d : Dir) (x : Addr) : State :=
  (((s.inFlightAt r q d x true).modReq (reqOfPort p) fun _ =>
    some { kind := match d with | .read => .read | .write => .write q.word
           addr := x
           code := p.val
           issuer := .ring r
           watch := none
           abandoned := false }).setWait p (.ringAccess r))

/-- The write of a post at ring `r` is in flight: a port's is presented at once, a channel's when the engine picks it (R124,
R126). -/
def State.postInFlightAt (s : State) (r : RingId) (q : Post) (x : Addr) : State :=
  match q.who with
  | .port p => s.portIssued r p q .write x
  | .chan _ => s.inFlightAt r q .write x false

/-- `t` is `s` after ring `r`, without an access in flight, has taken up post `q` (R69 to R74, R82 to R86): written as a later word
or opening an entry, or turned away by a disabled ring, or by the full policy, or stalled. -/
def PostTakenUp (s : State) (r : RingId) (q : Post) (t : State) : Prop :=
  (s.recs[r].enable = true ∧ ∃ m : PostAsm, s.rings[r].postAsm = some m ∧ m.owner = q.who ∧
    t = s.postInFlightAt r q (s.recs[r].wordAddr s.rings[r].tail m.words)) ∨
  (s.recs[r].enable = true ∧ s.rings[r].postAsm = none ∧ s.rings[r].count < s.recs[r].capacity ∧
    t = (s.modRing r fun k => { k with postAsm := some { owner := q.who, words := 0 } }).postInFlightAt r q
      (s.recs[r].wordAddr s.rings[r].tail 0)) ∨
  (s.recs[r].enable = false ∧ match q.who with
    | .port p => ∃ c : Cycle, s.ports[p].cycle = some c ∧ t = s.refusedHeld p c .ringDisabled
    | .chan c => t = s.stopChan c .ringReset) ∨
  (s.recs[r].enable = true ∧ ((∃ m : PostAsm, s.rings[r].postAsm = some m ∧ m.owner ≠ q.who) ∨
      s.rings[r].postAsm = none ∧ s.recs[r].capacity ≤ s.rings[r].count) ∧
    match q.who with
    | .port p => ∃ c : Cycle, s.ports[p].cycle = some c ∧ t =
        if s.recs[r].policy = 1 then
          (s.modRing r fun k => { k with
            stall := (k.stall.filter fun e => decide (e.post.who ≠ .port p)) ++
              [{ post := q, ticks := some (s.recs[r].data[(4 : Fin 7)]).toNat }] }).setWait p (.ringStall r)
        else if s.rings[r].count = s.recs[r].capacity then
          (s.deliver s.recs[r].producer (.ringFault r) (BitVec.ofNat 16 p.val)).refusedHeld p c .ringFull
        else s.refusedHeld p c .ringAssembly
    | .chan c => t = (s.modRing r fun k => { k with
        stall := (k.stall.filter fun e => decide (e.post.who ≠ .chan c)) ++ [{ post := q, ticks := none }] }).modChan c
          fun k => { k with state := if q.live then .stall else k.state })

/-- `t` is `s` after ring `r`, without an access in flight, has taken up the first item of its hold list (R68, R69, R79, R82). -/
def ItemTakenUp (s : State) (r : RingId) (i : HoldItem) (t : State) : Prop :=
  match i with
  | .post q => PostTakenUp s r q t
  | .take p => ∃ c : Cycle, s.ports[p].cycle = some c ∧
      ((s.recs[r].enable = false ∧ t = s.refusedHeld p c .ringDisabled) ∨
       (s.recs[r].enable = true ∧ s.rings[r].count = 0 ∧ t = s.refusedHeld p c .ringEmpty) ∨
       (s.recs[r].enable = true ∧ 0 < s.rings[r].count ∧
        ((∃ m : TakeAsm, s.rings[r].takeAsm = some m ∧
            t = if m.owner = p then
                s.portIssued r p { who := .port p, word := 0, live := true } .read
                  (s.recs[r].wordAddr s.rings[r].head m.words)
              else s.refusedHeld p c .ringAssembly) ∨
         (s.rings[r].takeAsm = none ∧
            t = (s.modRing r fun k => { k with takeAsm := some { owner := p, words := 0 } }).portIssued r p
              { who := .port p, word := 0, live := true } .read (s.recs[r].wordAddr s.rings[r].head 0)))))

/-! ## Locks -/

/-- Lock `l` held by a claimant, its lease timer loaded from the lease value, with these waiters (R101, R102). -/
def State.lockHeldBy (s : State) (l : LockId) (c : Claimant) (waiters : List Claimant) : Lock :=
  { holder := some c
    waiters := waiters
    timer := if s.leases[l] = 0 then none else some (s.leases[l]).toNat }

/-- Lock `l` released (R101): FREE where nobody waits; otherwise the head of its queue holds it, and a port is told by
LOCK-GRANT, a channel goes from LOCKWAIT to RUN. -/
def State.released (s : State) (l : LockId) : State :=
  match s.locks[l].waiters with
  | [] => s.modLock l fun k => { k with holder := none, timer := none }
  | .port m :: rest =>
    (s.modLock l fun _ => s.lockHeldBy l (.port m) rest).deliver m .lockGrant (BitVec.ofNat 16 l.val)
  | .chan d :: rest =>
    (s.modLock l fun _ => s.lockHeldBy l (.chan d) rest).modChan d fun k =>
      { k with state := if k.state = .lockWait then .run else k.state }

/-- Lock `l` with a claimant no longer in its queue (R99). -/
def State.leftQueue (s : State) (l : LockId) (c : Claimant) : State :=
  s.modLock l fun k => { k with waiters := k.waiters.filter fun x => decide (x ≠ c) }

/-! ## Channels -/

/-- The run of a channel has ended with a status (R127, R132 step 1). -/
def Chan.over (k : Chan) (st : Status) : Chan :=
  { k with state := .idle, last := st, holding := none, fetchBuf := [], stopPending := none }

/-- A word of the channel is done (R121): these fields, and one word more. -/
def Chan.stepped (k : Chan) (d : Desc) : Chan := { k with desc := d, wordsDone := k.wordsDone + 1, holding := none }

/-- The channel fetches its next descriptor (R127). -/
def Chan.fetching (k : Chan) : Chan := { k with state := .fetch, fetchBuf := [], holding := none }

/-- The channel's posts are in neither the stall queue nor the hold list of the ring (R87 steps 1, 2). -/
def Ring.without (k : Ring) (c : ChanId) : Ring :=
  { k with
    stall := k.stall.filter fun e => decide (e.post.who ≠ .chan c)
    hold := k.hold.filter fun i => decide (i.who ≠ .chan c) }

/-- Nothing of the channel waits at the ring: neither there, nor as an opened post awaiting issue (R130, R76). -/
def Ring.withoutPosts (k : Ring) (c : ChanId) : Ring :=
  { k.without c with awaiting := if k.awaiting.any (fun q => decide (q.who = .chan c)) then none else k.awaiting }

/-- `t` is `s` with the channel's post assembly at ring `r`, if it owns the ring's, discarded, after which the head of the stall
queue opens where it can (R87 steps 3, 4, R76). -/
def AssemblyDropped (s : State) (c : ChanId) (r : RingId) (t : State) : Prop :=
  ((∀ m : PostAsm, s.rings[r].postAsm = some m → m.owner ≠ .chan c) ∧ t = s) ∨
  ((∃ m : PostAsm, s.rings[r].postAsm = some m ∧ m.owner = .chan c) ∧
    exec (.stalledPostOpen r) (s.modRing r fun k => { k with postAsm := none, awaiting := none }) = .next t)

/-- `t` is `s` with the post assembly that the channel owns at ring `r`, if it owns the ring's, discarded (R71, R87); where a write
of its own is in flight there, the assembly waits for that. -/
def AssemblyLeft (s : State) (c : ChanId) (r : RingId) (t : State) : Prop :=
  ((∃ (m : PostAsm) (f : InFlight), s.rings[r].postAsm = some m ∧ m.owner = .chan c ∧ s.rings[r].inFlight = some f ∧
      f.post.who = .chan c) ∧
    t = s.modRing r fun k => { k with inFlight := k.inFlight.map fun (f : InFlight) => { f with leaving := true } }) ∨
  ((∀ (m : PostAsm) (f : InFlight), s.rings[r].postAsm = some m → m.owner = .chan c → s.rings[r].inFlight = some f →
      f.post.who ≠ .chan c) ∧
    AssemblyDropped s c r t)

/-- `t` is `s` with the channel withdrawn from its rings (R71, R87): its waiting posts at the ring that it feeds, if it feeds one,
are gone, and then the post assemblies that it owns are discarded, from ring 0 upward (log 24). -/
def LeftRings (s : State) (c : ChanId) (t : State) : Prop :=
  ∃ u : Nat → State,
    u 0 = (match s.chans[c].feedRing with | some r => s.modRing r (·.without c) | none => s) ∧
    (∀ r : RingId, AssemblyLeft (u r.val) c r (u (r.val + 1))) ∧ t = u 8

/-- The channel owns no post assembly. -/
def State.ownsNone (s : State) (c : ChanId) : Prop :=
  ∀ (r : RingId) (m : PostAsm), s.rings[r].postAsm = some m → m.owner ≠ .chan c

/-- No LOCK_FREE write of P0 waits for a stop of the channel (R132). -/
def State.unawaited (s : State) (c : ChanId) : Prop :=
  ∀ k : Cycle, s.ports[(0 : PortId)].cycle = some k → k.wait ≠ .lockFree c

/-! ## Ring reset (R89, R90) -/

/-- A reset of ring `r` stops the channel (R89 steps 4, 5, log 32): it is not IDLE, and it stands in the stall queue, or it runs FEED and
owns the post assembly. -/
def State.haltedBy (s : State) (r : RingId) (c : ChanId) : Bool :=
  decide (s.chans[c].state ≠ .idle) &&
    (s.rings[r].stall.any (fun e => decide (e.post.who = .chan c)) ||
      decide (s.chans[c].desc.op = some .feed) && s.rings[r].postAsm.any fun m => decide (m.owner = .chan c))

/-- A post that a reset of ring `r` leaves behind, there or at another ring: one of a channel that the reset stops no longer counts
for a run (log 24). -/
def State.outlived (s : State) (r : RingId) (q : Post) : Post :=
  { q with live := q.live && (match q.who with | .chan c => !s.haltedBy r c | .port _ => true) }

/-- Ring `r` after its reset: no entry, no assembly, no queue; the access in flight goes on without an assembly, and the hold list
is kept (R89, R90). -/
def State.ringAfterReset (s : State) (r : RingId) : Ring :=
  { head := 0
    tail := 0
    count := 0
    postAsm := none
    takeAsm := none
    stall := []
    awaiting := none
    inFlight := s.rings[r].inFlight.map fun (f : InFlight) =>
      { f with post := s.outlived r f.post, attached := false, leaving := false }
    hold := s.rings[r].hold.map fun i => match i with | .post q => .post (s.outlived r q) | .take p => .take p }

/-- Another ring `k` after a reset of ring `r`: what waits there is kept (log 24). -/
def State.ringBeside (s : State) (r k : RingId) : Ring :=
  { s.rings[k] with
    stall := s.rings[k].stall.map fun (e : StallEntry) => { e with post := s.outlived r e.post }
    awaiting := s.rings[k].awaiting.map fun q => s.outlived r q
    inFlight := s.rings[k].inFlight.map fun (f : InFlight) => { f with post := s.outlived r f.post }
    hold := s.rings[k].hold.map fun i => match i with | .post q => .post (s.outlived r q) | .take p => .take p }

/-- Every ring after a reset of ring `r`, before assemblies at other rings are discarded (R71). -/
def State.ringsAfterReset (s : State) (r : RingId) : Vector Ring 8 :=
  Vector.ofFn fun k : RingId => if k = r then s.ringAfterReset r else s.ringBeside r k

/-- `t` is `s` with the lock that the channel's descriptor names given up, if it names one (R110, R109): released if the
channel holds it, else its place in the queue left. -/
def LeftLock (s : State) (c : ChanId) (t : State) : Prop :=
  (s.chans[c].desc.lock = none ∧ t = s) ∨
  ∃ l : LockId, s.chans[c].desc.lock = some l ∧
    ((s.locks[l].holder = some (.chan c) ∧ t = s.released l) ∨
     (s.locks[l].holder ≠ some (.chan c) ∧ t = s.leftQueue l (.chan c)))

/-- `t` is `s` after the write of `v` by access `x` has been made at the SRAM and judged by the watch unit (R25 to R27, R30,
R142): a single write is a hit under on-write; a pair is one where the words differ, or where its read failed the check, which
is reported before the hit. -/
def WriteJudged (s : State) (x : Access) (v : Word) (t : State) : Prop :=
  ∃ u : State, u = { s with inProg := none, mem := Mem.set s.mem x.req.addr.toNat (goodCell v) } ∧
    ((x.req.kind = .write v ∧ x.req.watch = none ∧ t = u) ∨
     (∃ g : WatchTag, x.req.kind = .write v ∧ x.req.watch = some g ∧
       t = if g.onWrite then u.deliver g.target (.watch g.win) g.offset else u) ∨
     ∃ (g : WatchTag) (o : Word) (bad : Bool), x.req.kind = .pair v ∧ x.req.watch = some g ∧ x.old = some (o, bad) ∧
       t = if bad then (u.reportParity x.req.addr x.req.code).deliver g.target (.watch g.win) g.offset
           else if o ≠ v then u.deliver g.target (.watch g.win) g.offset else u)

/-- `t` is `s` after the read of access `x` has been made at the SRAM and judged by the watch unit (R24, R143): a parity error is
reported first, and the read is a hit under on-read. -/
def ReadJudged (s : State) (x : Access) (t : State) : Prop :=
  ∃ u : State,
    u = (if (s.cellAt x.req.addr).bad then ({ s with inProg := none }).reportParity x.req.addr x.req.code
      else { s with inProg := none }) ∧
    x.req.kind = .read ∧
    ((x.req.watch = none ∧ t = u) ∨
     ∃ g : WatchTag, x.req.watch = some g ∧ t = if g.onRead then u.deliver g.target (.watch g.win) g.offset else u)

/-- Every word of the range may be used by a run that port `p` owns (R118 checks 2 to 4): it lies in the span; it belongs to no
storage of an enabled ring; a VALID window that it meets is a PLAIN or WATCH one, over which the port has the right while header
enable is 1. -/
def State.usable (s : State) (p : PortId) (base len : Nat) (d : Dir) : Prop :=
  base + len ≤ 0x3FDF0 ∧
  (∀ r : RingId, s.recs[r].enable = true → 0 < s.recs[r].capacity * s.recs[r].entrySize →
    base < s.recs[r].base + s.recs[r].capacity * s.recs[r].entrySize → base + len ≤ s.recs[r].base) ∧
  (∀ w : WinId, s.windows[w].valid = true → base < winBase s.windows[w].data + winLen s.windows[w].data →
    winBase s.windows[w].data < base + len →
    (s.windows[w].ctl.kind.toNat = 1 ∨ s.windows[w].ctl.kind.toNat = 2) ∧
    (s.header[(0 : Fin 4)].getLsbD 0 = true → s.windows[w].data[(2 : Fin 3)].getLsbD
      ((match d with | .read => 4 | .write => 8) + p.val) = true))

/-- VALID window `w` maps ring `r` while header enable is 1. -/
def State.mapsRing (s : State) (w : WinId) (r : RingId) : Prop :=
  s.header[(0 : Fin 4)].getLsbD 0 = true ∧ s.windows[w].valid = true ∧ s.windows[w].ctl.kind.toNat = 3 ∧
    s.windows[w].ctl.link.toNat = r.val

/-! ## The end of start-up (R171) -/

/-- The controller of a port that goes DOWN (R63). -/
def Controller.torn (k : Controller) : Controller :=
  { slots := Vector.ofFn fun i : SlotId => { binding := k.slots[i].binding, notice := none }
    mask := 0xFFFF#16
    threshold := 4
    inService := []
    rotation := 0
    taken := none }

/-- The part RUNNING after its start-up, before any held cycle is classified: a port is UP or DOWN by its PRSTN, and at a DOWN
one a held cycle is abandoned and the controller cleared. -/
def State.started (s : State) : State :=
  { s with
    part := .running
    ports := Vector.ofFn fun p : PortId =>
      if s.ports[p].prstn then { s.ports[p] with state := .up }
      else { s.ports[p] with
        state := .down
        cycle := none
        pd := none
        last := if s.ports[p].cycle.isSome then some .abandoned else s.ports[p].last }
    ctls := Vector.ofFn fun p : PortId => if s.ports[p].prstn then s.ctls[p] else (s.ctls[p]).torn }

/-- A cycle is held unclassified on a port whose PRSTN is high (R1, R171). -/
abbrev State.heldOn (s : State) (p : PortId) : Prop :=
  s.ports[p].prstn = true ∧ (s.ports[p].cycle).any (fun c => decide (c.wait = .unclassified)) = true

/-! ## What a teardown leaves (R178) -/

/-- Port `p` holds nothing, waits for nothing, and its controller and records are clear (R63, R22, R92, R111). -/
def State.holdsNothing (s : State) (p : PortId) : Prop :=
  s.ctls[p].inService = [] ∧ s.ctls[p].mask = 0xFFFF#16 ∧ s.ctls[p].threshold = 4 ∧ s.ctls[p].rotation = 0 ∧
    s.ctls[p].taken = none ∧ (∀ i : SlotId, s.ctls[p].slots[i].notice = none) ∧
    s.ports[p].refusal = none ∧ s.ports[p].dropped = true ∧
    (∀ l : LockId, s.locks[l].holder ≠ some (.port p) ∧ Claimant.port p ∉ s.locks[l].waiters) ∧
    (∀ r : RingId, (∀ e ∈ s.rings[r].stall, e.post.who ≠ .port p) ∧ (∀ i ∈ s.rings[r].hold, i.who ≠ .port p) ∧
      (∀ a, s.rings[r].postAsm = some a → a.owner ≠ .port p) ∧ (∀ a, s.rings[r].takeAsm = some a → a.owner ≠ p))

/-- Port `p` owns no run, and no ring holds a post or a take. -/
def State.quietFor (s : State) (p : PortId) : Prop :=
  (∀ c : ChanId, s.chans[c].owner = some p → s.chans[c].state = .idle ∧ s.chans[c].stopPending = none) ∧
    ∀ r : RingId, s.rings[r].stall = [] ∧ s.rings[r].hold = [] ∧ s.rings[r].awaiting = none

/-! ## What is left as it was -/

/-- The shadow is the same, slot bindings included (R151). -/
def sameShadow (s t : State) : Prop :=
  t.header = s.header ∧ t.windows = s.windows ∧ t.recs = s.recs ∧ t.leases = s.leases ∧
    ∀ (p : PortId) (i : SlotId), t.ctls[p].slots[i].binding = s.ctls[p].slots[i].binding

/-- Start-up control's own state, the pins and the tick counter are the same (R168). -/
def samePart (s t : State) : Prop :=
  t.part = s.part ∧ t.ponn = s.ponn ∧ t.rstn = s.rstn ∧ t.kind = s.kind ∧ t.tick = s.tick

/-- Every word of memory reads as before. -/
def sameMemory (s t : State) : Prop := ∀ a : Addr, t.cellAt a = s.cellAt a

/-! ## Teardowns -/

/-- The claimant goes with port `n`: the port itself, or a channel whose run it owns and which is not IDLE (R111, R135). -/
def State.goesWith (s : State) (n : PortId) : Claimant → Bool
  | .port q => decide (q = n)
  | .chan c => decide (s.chans[c].owner = some n ∧ s.chans[c].state ≠ .idle)

/-- The claimants that stay in a lock's queue. -/
def State.stayers (s : State) (n : PortId) (l : LockId) : List Claimant := s.locks[l].waiters.filter fun x => !s.goesWith n x

/-- The claimant that the teardown of `n` hands lock `l` to: the first in the queue that stays, where the holder goes. -/
def State.heir (s : State) (n : PortId) (l : LockId) : Option Claimant :=
  if (s.locks[l].holder).any (s.goesWith n) then (s.stayers n l).head? else none

/-- R111, R101, R102: those that go are in no queue; a lock whose holder stays keeps it, its timer and the others in their order;
a lock whose holder goes is FREE, or held by its heir with a lease newly loaded; an UP port among the heirs is told by LOCK-GRANT,
with the lowest of its new locks as detail where the slot was not pending, and a channel enters RUN, unless a ring's hold list
has a post of it. -/
def LocksHandedOn (s : State) (n : PortId) (t : State) : Prop :=
  ∀ l : LockId,
    t.locks[l] =
      (if (s.locks[l].holder).any (s.goesWith n) then
        (match s.stayers n l with
         | [] => { holder := none, waiters := [], timer := none }
         | x :: rest => s.lockHeldBy l x rest)
       else { s.locks[l] with waiters := s.stayers n l }) ∧
    (∀ m : PortId, s.heir n l = some (.port m) → s.ports[m].state = .up → ∀ (i : SlotId) (b : Binding),
      s.ctls[m].slots[i].binding = some b → b.source = .lockGrant →
      (∀ j : SlotId, j ≠ i → ∀ d : Binding, s.ctls[m].slots[j].binding = some d → d.source ≠ .lockGrant) →
      t.ctls[m].slots[i].notice.isSome = true ∧
      (s.ctls[m].slots[i].notice = none → (∀ k : LockId, k < l → s.heir n k ≠ some (.port m)) →
        (t.ctls[m].slots[i].notice).map (·.detail) = some (BitVec.ofNat 16 l.val))) ∧
    (∀ d : ChanId, s.heir n l = some (.chan d) → s.chans[d].state = .lockWait →
      (∀ r : RingId, ∀ i ∈ s.rings[r].hold, i.who ≠ .chan d) → t.chans[d] = { s.chans[d] with state := .run })

/-- The teardown of `n` takes a post assembly or an access in flight from the ring. -/
def State.unsettles (s : State) (n : PortId) (k : Ring) : Bool :=
  k.postAsm.any (fun m => decide (m.owner = .port n)) || k.awaiting.any (fun q => s.goesWith n q.who) ||
    k.inFlight.any fun f => decide (f.post.who = .port n)

/-- The ring without what goes with port `n` (R92 steps 1 to 4, R87): entries of the stall queue and the hold list, the port's post
assembly or that of an opened post awaiting issue, its take assembly, and its access in flight, which goes on without an
assembly if it has been granted (R3; a withdrawn one is gone, log 16). -/
def State.ringWithout (s : State) (n : PortId) (r : RingId) (k : Ring) : Ring :=
  { k with
    stall := k.stall.filter fun e => !s.goesWith n e.post.who
    hold := k.hold.filter fun i => !s.goesWith n i.who
    postAsm := if k.postAsm.any (fun m => decide (m.owner = .port n)) || k.awaiting.any (fun q => s.goesWith n q.who) then none
      else k.postAsm
    awaiting := if k.postAsm.any (fun m => decide (m.owner = .port n)) || k.awaiting.any (fun q => s.goesWith n q.who) then none
      else k.awaiting
    takeAsm := if k.takeAsm.any (fun m => decide (m.owner = n)) then none else k.takeAsm
    inFlight := if k.inFlight.any (fun f => decide (f.post.who = .port n)) then
        (if s.inProg.any (fun a => decide (a.req.issuer = .ring r)) then
          k.inFlight.map (fun (f : InFlight) => { f with attached := false }) else none)
      else k.inFlight }

/-- Every enabled ring that no channel going with `n` feeds or has an assembly at (R92, R76): what goes is gone, everything else
stands; then, where an assembly or an access in flight has gone, the head of the stall queue opens, and the awaiting post or the
hold list is taken up (log 16). -/
def RingsGoOn (s : State) (n : PortId) (t : State) : Prop :=
  ∀ r : RingId, s.recs[r].enable = true →
    (∀ c : ChanId, s.goesWith n (.chan c) = true → s.chans[c].feedRing ≠ some r ∧
      ∀ m : PostAsm, s.rings[r].postAsm = some m → m.owner ≠ .chan c) →
    (s.unsettles n s.rings[r] = false → t.rings[r] = s.ringWithout n r s.rings[r]) ∧
    (s.unsettles n s.rings[r] = true → ∀ u : State,
      exec (.stalledPostOpen r) (s.modRing r (s.ringWithout n r)) = .next u →
      ∀ v : State, exec (.holdListTakeUp r) u = .next v → t.rings[r] = v.rings[r])

/-- `t` is `s` after the teardown of port `n` has withdrawn what the port has, and stopped the channels whose runs it owns
(R178): their posts and places in queues are gone, the posts also where the stop is pending (log 17), and their locks released
(R92, R111); a run with nothing presented ends with DROPPED and has no assembly, another has its stop pending (R131, R135). The
locks pass to the next in their queues and the rings go on, stated for states in which no ring that is disabled holds a channel's
post, which would stop that channel (R87), and none a live post of an IDLE channel. Other ports keep what their controllers hold
but for deliveries, and every channel its fields and its run owner. -/
def TornDown (s : State) (n : PortId) (t : State) : Prop :=
  t.holdsNothing n ∧ sameShadow s t ∧ samePart s t ∧ t.fault = s.fault ∧
    ((∀ r : RingId, ∀ i ∈ s.rings[r].hold, ∀ q : Post, i = .post q → ∀ c : ChanId, q.who = .chan c →
        s.recs[r].enable = true ∧ (q.live = true → s.chans[c].state ≠ .idle)) →
      LocksHandedOn s n t ∧ RingsGoOn s n t) ∧
    (∀ m : PortId, m ≠ n → t.ctls[m].mask = s.ctls[m].mask ∧ t.ctls[m].threshold = s.ctls[m].threshold ∧
      t.ctls[m].inService = s.ctls[m].inService ∧ t.ctls[m].rotation = s.ctls[m].rotation ∧
      t.ctls[m].taken = s.ctls[m].taken) ∧
    (∀ c : ChanId, t.chans[c].desc = s.chans[c].desc ∧ t.chans[c].owner = s.chans[c].owner) ∧
    ∀ c : ChanId, s.chans[c].owner = some n → s.chans[c].state ≠ .idle →
      (s.chans[c].stopPending = none → s.chanPresented c = false → t.ownsNone c) ∧
      (∀ l : LockId, t.locks[l].holder ≠ some (.chan c) ∧ Claimant.chan c ∉ t.locks[l].waiters) ∧
      (∀ r : RingId, (∀ e ∈ t.rings[r].stall, e.post.who ≠ .chan c) ∧ (∀ i ∈ t.rings[r].hold, i.who ≠ .chan c) ∧
        ∀ q : Post, t.rings[r].awaiting = some q → q.who ≠ .chan c) ∧
      t.chans[c] = (if s.chans[c].stopPending.isSome then s.chans[c]
        else if s.chanPresented c then { s.chans[c] with stopPending := some .dropped }
        else (s.chans[c]).over .dropped)

/-- The cycle of port `n`, if one was in progress, is abandoned: its request withdrawn, its access in progress left to complete
without a result (R3, R22, R149). -/
def CycleAbandoned (s : State) (n : PortId) (t : State) : Prop :=
  t.ports[n].cycle = none ∧ t.ports[n].pd = none ∧ t.reqs[reqOfPort n] = none ∧
    t.ports[n].last = (if s.ports[n].cycle.isSome then some .abandoned else s.ports[n].last) ∧
    ∀ x : Access, s.inProg = some x → x.req.code = n.val →
      t.inProg = some { x with req := { x.req with abandoned := true } }

/-! ## Laws of the part -/

/-- The memory keeps its canonical form (log 22). -/
def State.memoryLaw (s : State) : Prop := Mem.wf s.mem = true

/-- The access is one of start-up control, made in this part state (R141). -/
def Issuer.madeIn (i : Issuer) (q : PartState) : Prop :=
  match i with
  | .clear _ => q = .coldClear
  | .sweep _ => q = .sweep
  | _ => True

/-- Start-up control's accesses are made in their own part states and are no requests, and while PONN is low the part is in
COLD_CLEAR with no access in progress (R141, R168, R169). -/
def State.startLaw (s : State) : Prop :=
  (∀ a : Access, s.inProg = some a → a.req.issuer.madeIn s.part) ∧
  (∀ (q : Fin 5) (r : Request), s.reqs[q] = some r → ∀ x : PartState, r.issuer.madeIn x) ∧
  (s.ponn = false → s.part = .coldClear ∧ s.inProg = none)

/-- A port is OFF exactly while the part is not RUNNING (R168), and it stays DOWN while its teardown is in progress
(R178). -/
def State.portLaw (s : State) : Prop :=
  ∀ p : PortId, (s.ports[p].state = .off ↔ s.part ≠ .running) ∧
    (s.ports[p].teardown.isSome = true → s.ports[p].state = .down)

/-- One lock: FREE has an empty queue and no running timer, the queue holds at most seven, and a claimant stands at most
once among holder and queue (R94). -/
def Lock.law (k : Lock) : Prop :=
  (k.holder = none → k.waiters = [] ∧ k.timer = none) ∧ k.waiters.length ≤ 7 ∧ (k.holder.toList ++ k.waiters).Nodup

/-- Every lock keeps the laws of R94. -/
def State.lockLaw (s : State) : Prop := ∀ l : LockId, s.locks[l].law

/-- One ring (R67): count at most capacity, an open post assembly has a place, an open take assembly has an entry, and the
tail is head + count modulo capacity. -/
def Ring.law (k : Ring) (cap : Nat) : Prop :=
  k.count ≤ cap ∧ (k.postAsm.isSome = true → k.count < cap) ∧ (k.takeAsm.isSome = true → 0 < k.count) ∧
    (k.head = 0 ∨ k.head < cap) ∧ k.tail = (k.head + k.count) % cap

/-- Every ring keeps the laws of R67. -/
def State.ringLaw (s : State) : Prop := ∀ r : RingId, s.rings[r].law s.recs[r].capacity

/-- One stall queue (R75): a claimant stands in it at most once, a port's entry carries ticks and a channel's none, and
it is empty while the opening condition holds. -/
def Ring.stallLaw (k : Ring) (opening : Bool) : Prop :=
  (k.stall.map fun e => e.post.who).Nodup ∧
    (∀ e ∈ k.stall, (∀ p : PortId, e.post.who = .port p → e.ticks.isSome = true) ∧
      ∀ c : ChanId, e.post.who = .chan c → e.ticks = none) ∧
    (opening = true → k.stall = [])

/-- Every stall queue keeps the laws of R75. -/
def State.stallLaw (s : State) : Prop := ∀ r : RingId, s.rings[r].stallLaw (s.openingCond r)

/-- No source is bound to two slots of one port (R57). -/
def State.bindingLaw (s : State) : Prop :=
  ∀ (p : PortId) (i j : SlotId) (b c : Binding), s.ctls[p].slots[i].binding = some b →
    s.ctls[p].slots[j].binding = some c → b.source = c.source → i = j

/-- No word belongs to two of the VALID windows and the storages of enabled rings, and all lie in the span (R158). -/
def State.rangeLaw (s : State) : Prop :=
  (∀ w : WinId, s.windows[w].valid = true → (winRange s.windows[w].data).inSpan = true) ∧
  (∀ r : RingId, s.recs[r].enable = true → s.recs[r].storage.inSpan = true) ∧
  (∀ v w : WinId, v ≠ w → s.windows[v].valid = true → s.windows[w].valid = true →
    (winRange s.windows[v].data).meets (winRange s.windows[w].data) = false) ∧
  (∀ (w : WinId) (r : RingId), s.windows[w].valid = true → s.recs[r].enable = true →
    (winRange s.windows[w].data).meets s.recs[r].storage = false) ∧
  (∀ q r : RingId, q ≠ r → s.recs[q].enable = true → s.recs[r].enable = true →
    s.recs[q].storage.meets s.recs[r].storage = false)

/-- Each ring, lock and channel is reached through at most one VALID window (R158). -/
def State.mapLaw (s : State) : Prop :=
  ∀ (v w : WinId) (k : WinKind), v ≠ w → s.windows[v].valid = true → s.windows[w].valid = true →
    s.windows[v].ctl.winKind = some k → s.windows[w].ctl.winKind = some k →
    (mapped k s.windows[v].ctl).meets (mapped k s.windows[w].ctl) = false

/-- A port that is not UP has no in-service entry and no pending latched slot, but P0's TABLE slot during the sweep
(R64). -/
def State.noticeLaw (s : State) : Prop :=
  ∀ p : PortId, s.ports[p].state ≠ .up →
    s.ctls[p].inService = [] ∧
    ∀ i : SlotId, s.ctls[p].slots[i].notice.isSome = true →
      p = 0 ∧ s.part = .sweep ∧ (s.ctls[p].slots[i].binding).map (·.source) = some .table

/-- The in-service set of every port has strictly falling levels and no slot twice, so at most four entries (R51). -/
def State.inServiceLaw (s : State) : Prop :=
  ∀ p : PortId, s.ctls[p].inService.Pairwise fun a b => b.level < a.level ∧ a.slot ≠ b.slot

end Sys2Proof.Machine
end

