-- ==== Sys2Proof/Certificates/Slice0/Obligations.lean ====
section
/-! DEFINITION. The statements for the provers. Each is one proposition about the model, named for what it states; its docstring
names the rules it rests on, and the log entry where a clause is the model's choice. -/

open Sys2Proof Sys2Proof.Machine

/-! ## Steps -/

/-- A step takes the front command of the queue and executes it on the state with the queue's rest. -/
def Obligations.StepRunsFront : Prop :=
  ∀ (c : Instr) (rest : List Instr) (s : State), s.pending = c :: rest → step s = exec c { s with pending := rest }

/-- On an empty queue one CLK period passes (R154; that a step on an empty queue is a period is the model's choice, log 3). With
no expiry outstanding, the counter counts, or a tick boundary decreases every timer and clears the counter.
TICK_BOUNDARY (R154, R103, R77): every running lease timer and every port entry's ticks decrease by 1, and the counter
returns to 0. Expiries of an earlier boundary that are outstanding are taken first, leases from lock 0 upward and then the stall
limits from ring 0 and port 0 upward (log 5). While PONN is low there is no boundary (log 4). -/
def Obligations.TicksAndClock : Prop :=
  (∀ s : State, s.pending = [] →
     (s.ponn = false → step s = .next s) ∧
     (s.ponn = true → (∀ l : LockId, s.leaseDue l = false) →
       (∀ (r : RingId) (p : PortId), s.rings[r].stall.any (·.dueFor p) = false) →
       (s.tick + 1 < 256 * ((s.header[(3 : Fin 4)]).toNat + 1) → step s = .next { s with tick := s.tick + 1 }) ∧
       (256 * ((s.header[(3 : Fin 4)]).toNat + 1) ≤ s.tick + 1 →
         step s = .next { s with
           tick := 0
           locks := Vector.ofFn fun l : LockId =>
             if s.locks[l].holder.isSome then { s.locks[l] with timer := s.locks[l].timer.map (· - 1) } else s.locks[l]
           rings := Vector.ofFn fun r : RingId =>
             { s.rings[r] with stall := s.rings[r].stall.map fun e => { e with ticks := e.ticks.map (· - 1) } } }))) ∧
  (∀ s : State,
     (s.ponn = false → exec .tickBoundary s = .next s) ∧
     (s.ponn = true → (∀ l : LockId, s.leaseDue l = false) →
       (∀ (r : RingId) (p : PortId), s.rings[r].stall.any (·.dueFor p) = false) →
       exec .tickBoundary s = .next { s with
         tick := 0
         locks := Vector.ofFn fun l : LockId =>
           if s.locks[l].holder.isSome then { s.locks[l] with timer := s.locks[l].timer.map (· - 1) } else s.locks[l]
         rings := Vector.ofFn fun r : RingId =>
           { s.rings[r] with stall := s.rings[r].stall.map fun e => { e with ticks := e.ticks.map (· - 1) } } })) ∧
  (∀ s t : State, s.ponn = true →
     ((∃ l : LockId, s.leaseDue l = true ∧ (∀ k : LockId, k < l → s.leaseDue k = false) ∧ exec (.leaseExpiry l) s = .next t) ∨
      (∀ l : LockId, s.leaseDue l = false) ∧ ∃ (r : RingId) (p : PortId), s.rings[r].stall.any (·.dueFor p) = true ∧
        (∀ (k : RingId) (q : PortId), k < r ∨ k = r ∧ q < p → s.rings[k].stall.any (·.dueFor q) = false) ∧
        exec (.stallLimitExpiry r p) s = .next t) →
     exec .tickBoundary s = exec .tickBoundary t ∧ (s.pending = [] → step s = step t))

/-- Every command has a next state, and none touches the queue (log 28). -/
def Obligations.EveryCommandAnswers : Prop :=
  ∀ (i : Instr) (s : State), ∃ t : State, exec i s = .next t ∧ t.pending = s.pending

/-! ## Reset and start-up -/

/-- The power-on values that the manual gives (R22, R61, R93, R112, R136, R150, R166, R169, R181), in `State.reset`. -/
def Obligations.ResetValues : Prop :=
  State.reset.part = .coldClear ∧ State.reset.kind = .cold ∧ State.reset.tick = 0 ∧ State.reset.lastChan = 3 ∧
  State.reset.lastGrant = 4 ∧ State.reset.inProg = none ∧ State.reset.fault = none ∧
  (∀ p : PortId, State.reset.ports[p].state = .off ∧ State.reset.ports[p].dropped = false ∧
    State.reset.ports[p].cycle = none ∧ State.reset.ports[p].refusal = none ∧
    State.reset.ctls[p].mask = 0xFFFF#16 ∧ State.reset.ctls[p].threshold = 4 ∧ State.reset.ctls[p].inService = [] ∧
    State.reset.ctls[p].rotation = 0 ∧ State.reset.ctls[p].taken = none ∧ State.reset.autoEnd p = false ∧
    State.reset.rotating p = false ∧ State.reset.pntfn p = false ∧
    ∀ i : SlotId, State.reset.ctls[p].slots[i].binding = none ∧ State.reset.ctls[p].slots[i].notice = none) ∧
  (∀ n : Fin 4, State.reset.header[n] = 0) ∧
  (∀ w : WinId, State.reset.windows[w].valid = false ∧ State.reset.windows[w].ctl.kind = 0 ∧
    (∀ k : Fin 3, State.reset.windows[w].data[k] = 0 ∧ State.reset.windows[w].staged[k] = none)) ∧
  (∀ r : RingId, State.reset.recs[r].enable = false ∧
    (∀ k : Fin 7, State.reset.recs[r].data[k] = 0 ∧ State.reset.recs[r].staged[k] = none) ∧
    State.reset.rings[r].head = 0 ∧ State.reset.rings[r].tail = 0 ∧ State.reset.rings[r].count = 0 ∧
    State.reset.rings[r].postAsm = none ∧ State.reset.rings[r].takeAsm = none ∧ State.reset.rings[r].stall = [] ∧
    State.reset.rings[r].inFlight = none ∧ State.reset.rings[r].hold = [] ∧ State.reset.rings[r].awaiting = none ∧
    State.reset.dataCond r = false) ∧
  (∀ l : LockId, State.reset.leases[l] = 0 ∧ State.reset.locks[l].holder = none ∧ State.reset.locks[l].waiters = [] ∧
    State.reset.locks[l].timer = none) ∧
  (∀ c : ChanId, State.reset.chans[c].desc = Desc.zero ∧ State.reset.chans[c].state = .idle ∧
    State.reset.chans[c].last = .none ∧ State.reset.chans[c].owner = none ∧ State.reset.chans[c].descCount = 0 ∧
    State.reset.chans[c].fetchBuf = [] ∧ State.reset.chans[c].holding = none ∧ State.reset.chans[c].wordsDone = 0 ∧
    State.reset.chans[c].stopPending = none) ∧
  (∀ q : Fin 5, State.reset.reqs[q] = none)

/-- Every law of the part holds in the state after reset. The law of the memory is the canonical form of its list of words (log 22,
the model's choice); the others are the manual's. -/
def Obligations.LawsAtReset : Prop :=
  State.reset.memoryLaw ∧ State.reset.startLaw ∧ State.reset.portLaw ∧ State.reset.lockLaw ∧ State.reset.ringLaw ∧
    State.reset.stallLaw ∧ State.reset.bindingLaw ∧ State.reset.rangeLaw ∧ State.reset.mapLaw ∧ State.reset.noticeLaw ∧
    State.reset.inServiceLaw

/-- PONN_LOW while the part works (R169): every block takes its power-on values, cycles are abandoned, and the memory is
undefined (R150, log 1); an access in progress ends within the step (log 14). The inputs RSTN and PRSTN keep their levels. A
second PONN_LOW is no event (log 6).
RSTN_LOW (R173, R150): while RUNNING or in SWEEP it takes a warm reset; in COLD_CLEAR it is only the level that counts at the
end of the clear (R170); an RSTN that is low already takes none. Granted accesses go on as stale ones (R149). Both end the driving
of PD by a read that has completed (log 21, the model's choice). The DROP_PORT write of a teardown that has been taken and waits
completes at the warm reset, but where P0 drops itself with its PRSTN low (R174, R9; DEDUCED in log 30). -/
def Obligations.ResetsTaken : Prop :=
  (∀ s : State,
     (s.ponn = false → exec .ponnLow s = .next s) ∧
     (s.ponn = true → exec .ponnLow s = .next { State.reset with
       rstn := s.rstn
       ports := Vector.ofFn fun p : PortId => { Port.reset with
         prstn := s.ports[p].prstn
         last := if s.ports[p].cycle.isSome then some .abandoned else s.ports[p].last }
       powerOns := s.powerOns + 1
       freeUse := s.freeUse
       pending := s.pending })) ∧
  (∀ s : State,
     (s.rstn = false → exec .rstnLow s = .next s) ∧
     (s.rstn = true → s.part = .coldClear → exec .rstnLow s = .next { s with rstn := false }) ∧
     (s.rstn = true → s.part ≠ .coldClear → exec .rstnLow s = .next { State.reset with
       part := .sweep
       kind := .warm
       ponn := s.ponn
       rstn := false
       ports := Vector.ofFn fun p : PortId => { Port.reset with
         prstn := s.ports[p].prstn
         last := match s.ports[p].cycle with
           | none => s.ports[p].last
           | some c => (match c.wait with
             | .control n => if p = 0 ∧ (n ≠ 0 ∨ s.ports[p].prstn = true) then some .write else some .abandoned
             | _ => some .abandoned) }
       inProg := s.inProg.map fun a => { a with req := { a.req with issuer := .stale } }
       fault := if s.inProg.isSome then s.fault else none
       mem := s.mem
       powerOns := s.powerOns
       freeUse := s.freeUse
       pending := s.pending }))

/-- PONN_HIGH begins the clear at 3FE00H (R170). COLD_CLEAR_WRITE_COMPLETE stores 0000H with MDP high and goes on to the next
word; the 512th ends the start-up with RSTN high, every port going UP or DOWN by its PRSTN (R171; here without held cycles), or
takes a warm reset with RSTN low. Without a clear write in progress it changes nothing (log 6). That the access of a clear write
holds code 8 is the model's choice (log 29). -/
def Obligations.TableClear : Prop :=
  (∀ s : State, s.ponn = true → exec .ponnHigh s = .next s) ∧
  (∀ s : State, s.ponn = false → exec .ponnHigh s = .next { s with
    ponn := true
    inProg := some { req := { kind := .write 0, addr := 0x3FE00#18, code := 8, issuer := .clear 0, watch := none,
                              abandoned := false }, old := none } }) ∧
  (∀ s : State, (∀ (a : Access) (i : Nat), s.inProg = some a → a.req.issuer ≠ .clear i) →
    exec .coldClearWriteComplete s = .next s) ∧
  (∀ (s : State) (a : Access) (i : Nat), s.inProg = some a → a.req.issuer = .clear i →
    (i < 511 → exec .coldClearWriteComplete s = .next { s with
      mem := Mem.set s.mem a.req.addr.toNat { word := 0, par := true }
      inProg := some { req := { kind := .write 0, addr := BitVec.ofNat 18 (0x3FE00 + (i + 1)), code := 8,
                                issuer := .clear (i + 1), watch := none, abandoned := false }, old := none } }) ∧
    (i = 511 → s.rstn = true → (∀ p : PortId, s.ports[p].cycle = none) →
      ∃ t : State, exec .coldClearWriteComplete s = .next t ∧ t.part = .running ∧ t.inProg = none ∧
        t.mem = Mem.set s.mem a.req.addr.toNat { word := 0, par := true } ∧
        ∀ p : PortId, t.ports[p].state = (if s.ports[p].prstn then .up else .down) ∧
          t.ports[p].dropped = s.ports[p].dropped) ∧
    (i = 511 → s.rstn = false →
      ∃ t : State, exec .coldClearWriteComplete s = .next t ∧ t.part = .sweep ∧ t.kind = .warm ∧ t.inProg = none ∧
        t.mem = Mem.set s.mem a.req.addr.toNat { word := 0, par := true } ∧
        ∀ p : PortId, t.ports[p].state = .off))

/-- SWEEP_START, RSTN going high (R173): in SWEEP with no access in progress the first read, of H0, begins; with RSTN high already
it is no event (log 6, the model's choice). SWEEP_READ_COMPLETE (R175, R167): a word without a parity error is taken up as a P0
write of it would be; one with a parity error loads the fault record with requester 8, and is rejected with PARITY: a data word
marks its entry or record damaged, a control word clears the mark and commits nothing, a binding word leaves its slot unbound.
Then the next read begins, in the order of R175. Bits upset in the SRAM's answer (log 13) are as if stored so. The 276th word, the
lease of lock 15, ends the sweep, here without a held cycle. -/
def Obligations.SweepOfTable : Prop :=
  ((∀ s : State, s.rstn = true → exec .sweepStart s = .next s) ∧
   (∀ s : State, s.rstn = false → s.part = .sweep → s.inProg = none → exec .sweepStart s = .next { s with
     rstn := true
     inProg := some { req := { kind := .read, addr := 0x3FE00#18, code := 8, issuer := .sweep 0, watch := none,
                               abandoned := false }, old := none } }) ∧
   (∀ s : State, s.rstn = false → (s.part ≠ .sweep ∨ s.inProg.isSome = true) →
     exec .sweepStart s = .next { s with rstn := true })) ∧
  (∀ (s : State) (a : Access) (i : Nat) (t : State), s.inProg = some a → a.req.issuer = .sweep i → i < 275 →
     a.req.addr = tableAddr (sweepOffset i) →
     ((s.cellAt a.req.addr).bad = false →
       t = ({ s with inProg := none }).applyTable (tableWordOf (sweepOffset i)) (s.cellAt a.req.addr).word →
       exec (.sweepReadComplete 0) s = .next { t with
         inProg := some { req := { kind := .read, addr := tableAddr (sweepOffset (i + 1)), code := 8,
                                   issuer := .sweep (i + 1), watch := none, abandoned := false }, old := none } }) ∧
     ((s.cellAt a.req.addr).bad = true →
       t = (((({ s with inProg := none }).reportParity a.req.addr 8).damageTable (tableWordOf (sweepOffset i))).deliver 0 .table
         (BitVec.ofNat 16 (sweepOffset i + 10 * 4096))) →
       exec (.sweepReadComplete 0) s = .next { t with
         inProg := some { req := { kind := .read, addr := tableAddr (sweepOffset (i + 1)), code := 8,
                                   issuer := .sweep (i + 1), watch := none, abandoned := false }, old := none } }) ∧
     (∀ (u : Upset) (c : MemCell), Mem.get? s.mem a.req.addr.toNat = some c → u ≠ 0 →
       exec (.sweepReadComplete u) s =
         exec (.sweepReadComplete 0) { s with mem := Mem.set s.mem a.req.addr.toNat (c.flipped u) }) ∧
     (∀ u : Upset, Mem.get? s.mem a.req.addr.toNat = none →
       exec (.sweepReadComplete u) s = exec (.sweepReadComplete 0) s)) ∧
  (∀ s : State,
     (∀ (w : WinId) (k : Fin 3), s.damageTable (.winData w k) = s.modWin w fun e => { e with damaged := true }) ∧
     (∀ w : WinId, s.damageTable (.winCtl w) = s.modWin w fun e => { e with damaged := false }) ∧
     (∀ (r : RingId) (k : Fin 7), s.damageTable (.ringData r k) = s.modRec r fun e => { e with damaged := true }) ∧
     (∀ r : RingId, s.damageTable (.ringCtl r) = s.modRec r fun e => { e with damaged := false }) ∧
     (∀ (p : PortId) (i : SlotId), s.damageTable (.binding p i) = s.modCtl p fun k => { k with
       slots := upd k.slots i fun x => if x.binding = none then x else { binding := none, notice := none } }) ∧
     (∀ n : Fin 4, s.damageTable (.header n) = s) ∧ (∀ l : LockId, s.damageTable (.lease l) = s) ∧
     s.damageTable .plain = s) ∧
  (∀ i : Nat, (i < 4 → sweepOffset i = i) ∧ (4 ≤ i → i < 68 → sweepOffset i = 0xE0 + (i - 4)) ∧
     (68 ≤ i → i < 196 → sweepOffset i = 0x10 + (i - 68)) ∧ (196 ≤ i → i < 260 → sweepOffset i = 0x90 + (i - 196)) ∧
     (260 ≤ i → i < 276 → sweepOffset i = 0xD0 + (i - 260))) ∧
  (∀ (s : State) (a : Access), s.inProg = some a → a.req.issuer = .sweep 275 → (s.cellAt a.req.addr).bad = false →
     (∀ p : PortId, s.ports[p].cycle = none) →
     ∃ t : State, exec (.sweepReadComplete 0) s = .next t ∧ t.part = .running ∧ t.inProg = none ∧
       t.leases[(15 : LockId)] = (s.cellAt a.req.addr).word ∧
       ∀ p : PortId, t.ports[p].state = (if s.ports[p].prstn then .up else .down))

/-- The end of start-up (R171), with the last clear write or the last sweep read, its word good or bad (R167, R175): the part is
RUNNING, every port UP or DOWN by its PRSTN; at a DOWN port a held cycle is abandoned and the controller cleared. The cycle held on
an UP port is then classified as if presented then; several are, in an order that is free (log 10). A held cycle whose strobe has
been negated is carried on with it negated. -/
def Obligations.EndOfStartUp : Prop :=
  (∀ (i : Instr) (s t : State) (a : Access), s.inProg = some a →
     (i = .coldClearWriteComplete ∧ a.req.issuer = .clear 511 ∧ s.rstn = true ∧
        t = { s with inProg := none, mem := Mem.set s.mem a.req.addr.toNat { word := 0, par := true } } ∨
      i = .sweepReadComplete 0 ∧ a.req.issuer = .sweep 275 ∧ (s.cellAt a.req.addr).bad = false ∧
        t = { s with inProg := none, leases := upd s.leases 15 fun _ => (s.cellAt a.req.addr).word } ∨
      i = .sweepReadComplete 0 ∧ a.req.issuer = .sweep 275 ∧ (s.cellAt a.req.addr).bad = true ∧
        t = ((({ s with inProg := none }).reportParity 0x3FEDF#18 8).deliver 0 .table 0xA0DF#16)) →
     ((∀ p : PortId, ¬t.heldOn p) → exec i s = .next t.started) ∧
     (∀ p : PortId, t.heldOn p → (∀ q : PortId, q ≠ p → ¬t.heldOn q) → exec i s = .next (t.started.arriveHeld p)) ∧
     (∀ p q : PortId, p ≠ q → t.heldOn p → t.heldOn q → ∃ l : List PortId, l.Perm [0, 1, 2, 3] ∧
       exec i s = .next (l.foldl (fun u r => u.arriveHeld r) { t.started with freeUse := t.freeUse + 1 }))) ∧
  (∀ (s : State) (p : PortId),
     (s.ports[p].cycle = none → s.arriveHeld p = s) ∧
     (∀ c : Cycle, s.ports[p].cycle = some c → (s.ports[p].state ≠ .up ∨ c.wait ≠ .unclassified) → s.arriveHeld p = s) ∧
     (∀ c : Cycle, s.ports[p].cycle = some c → s.ports[p].state = .up → c.wait = .unclassified → s.ports[p].pd = none →
       ∀ u : State, exec (.cycleHeldOnOffPort p c.dir c.addr c.data) (s.modPort p fun pt => { pt with cycle := none }) =
           .next u →
         (c.strobe = true → s.arriveHeld p = u) ∧
         (c.strobe = false → exec (.strobeNegated p) u = .next (s.arriveHeld p))))

/-- Accesses whose result nobody takes. One granted before a warm reset (R149, R173): the memory is written, the fault record is
empty, no hit or parity report stands, and a sweep that waits for it begins (log 15); SWEEP_READ_COMPLETE is an event for it only
if it was a sweep read (log 6). The completion of an abandoned cycle's access (R3, R149): written, reported and judged as ever (R33;
the moment of a pair's parity report: log 12), and the port, which may hold a new cycle by now, is left alone. A ring
access without an assembly, after a ring reset or a teardown (R90, R92): no effect on entries; the cycle completes unless it was
abandoned, and the hold list is taken up. A channel access abandoned by a ring reset: a stop that waits for it completes (R131). -/
def Obligations.AbandonedAccesses : Prop :=
  (∀ (s t : State) (x : Access) (u : Upset), s.inProg = some x → x.req.issuer = .stale →
     ((x.req.kind = .read ∧ u = 0 ∧ t = { s with inProg := none, fault := none }) ∨
      (∃ v : Word, (x.req.kind = .write v ∨ x.req.kind = .pair v) ∧
        t = { s with inProg := none, fault := none, mem := Mem.set s.mem x.req.addr.toNat (goodCell v) })) →
     (s.part = .sweep → s.rstn = true → exec (.memoryAccessComplete u) s = .next { t with
       inProg := some { req := { kind := .read, addr := 0x3FE00#18, code := 8, issuer := .sweep 0, watch := none,
                                 abandoned := false }, old := none } }) ∧
     (s.part ≠ .sweep ∨ s.rstn = false → exec (.memoryAccessComplete u) s = .next t) ∧
     exec (.sweepReadComplete u) s = (if x.req.code = 8 then exec (.memoryAccessComplete u) s else .next s)) ∧
  (∀ (s t : State) (x : Access) (p : PortId), s.inProg = some x → x.req.issuer = .port p → x.req.abandoned = true →
     (ReadJudged s x t → exec (.memoryAccessComplete 0) s = .next t) ∧
     (∀ (v : Word) (u : Upset), WriteJudged s x v t → exec (.memoryAccessComplete u) s = .next t)) ∧
  (∀ (s t : State) (x : Access) (r : RingId) (f : InFlight) (p : PortId) (e : CycleEnd), s.inProg = some x →
     x.req.issuer = .ring r → s.rings[r].inFlight = some f → f.attached = false → f.post.who = .port p →
     (ReadJudged s x t ∧ e = .read (s.cellAt x.req.addr).word ∨ (∃ v : Word, WriteJudged s x v t) ∧ e = .write) →
     (x.req.abandoned = true → exec (.memoryAccessComplete 0) s =
       exec (.holdListTakeUp r) (t.modRing r fun k => { k with inFlight := none })) ∧
     (∀ c : Cycle, x.req.abandoned = false → s.ports[p].cycle = some c → exec (.memoryAccessComplete 0) s =
       exec (.holdListTakeUp r) ((t.modRing r fun k => { k with inFlight := none }).modPort p fun pt => { pt with
         cycle := none
         last := some e
         pd := match e with | .read w => if c.strobe then some w else none | _ => none }))) ∧
  (∀ (s t : State) (x : Access) (c : ChanId) (y : ChanStep), s.inProg = some x → x.req.issuer = .chan c y →
     x.req.abandoned = true →
     (ReadJudged s x t → exec (.memoryAccessComplete 0) s = .next (t.settleStop c)) ∧
     (∀ v : Word, WriteJudged s x v t → exec (.memoryAccessComplete 0) s = .next (t.settleStop c)))

/-! ## Cycles and the access path -/

/-- What a port does with a presented cycle by its state (R1), for every row that is a port cycle: DOWN takes none, OFF holds it
unclassified. With a cycle in progress none is presented (log 6).
STROBE_NEGATED (R2): a cycle in progress is carried on with its strobe noted as negated; without one PD is no longer driven
(log 21). -/
def Obligations.PresentedCycles : Prop :=
  (∀ (i : Instr) (p : PortId) (d : Dir) (a : Addr) (v : Word) (s : State), cycleOf i = some (p, d, a, v) →
     (s.ports[p].cycle.isSome = true → exec i s = .next s) ∧
     (s.ports[p].cycle = none → s.ports[p].state = .down → exec i s = .next s) ∧
     (s.ports[p].cycle = none → s.ports[p].state = .off →
       exec i s = .next (s.modPort p fun pt => pt.holding d a v .unclassified))) ∧
  (∀ (p : PortId) (s : State),
     (∀ c : Cycle, s.ports[p].cycle = some c →
       exec (.strobeNegated p) s = .next (s.modPort p fun pt => { pt with cycle := some { c with strobe := false } })) ∧
     (s.ports[p].cycle = none → exec (.strobeNegated p) s = .next (s.modPort p fun pt => { pt with pd := none })))

/-- Classification (R5, R6): port window, table area, storage of an enabled ring, a VALID window while header enable is 1, memory,
in this order. -/
def Obligations.Classification : Prop :=
  ∀ (s : State) (a : Addr),
    (∀ k : Fin 16, a.toNat = 0x3FDF0 + k.val → s.classify a = .portWord k) ∧
    (∀ o : Nat, a.toNat = 0x3FE00 + o → s.classify a = .table o) ∧
    (a.toNat < 0x3FDF0 →
      (∀ r : RingId, s.recs[r].enable = true → s.recs[r].base ≤ a.toNat →
        a.toNat < s.recs[r].base + s.recs[r].capacity * s.recs[r].entrySize → s.classify a = .storage) ∧
      ((∀ r : RingId, s.recs[r].enable = true → s.recs[r].base ≤ a.toNat →
          s.recs[r].base + s.recs[r].capacity * s.recs[r].entrySize ≤ a.toNat) →
        (∀ w : WinId, s.header[(0 : Fin 4)].getLsbD 0 = true → s.windows[w].valid = true →
          winBase s.windows[w].data ≤ a.toNat → a.toNat < winBase s.windows[w].data + winLen s.windows[w].data →
          (∀ v : WinId, v ≠ w → s.windows[v].valid = true → winBase s.windows[v].data ≤ a.toNat →
            winBase s.windows[v].data + winLen s.windows[v].data ≤ a.toNat) →
          s.classify a = .window w) ∧
        ((s.header[(0 : Fin 4)].getLsbD 0 = false ∨ ∀ w : WinId, s.windows[w].valid = true →
            winBase s.windows[w].data ≤ a.toNat → winBase s.windows[w].data + winLen s.windows[w].data ≤ a.toNat) →
          s.classify a = .memory)))

/-- The refusals of the port window (R8, R9, R21): a write to a word that has none and a read of a word that has none with
WINDOW_WORD, P0's words from another port with SUPERVISOR_ONLY, and a CONTROL word that Table 2-2 does not list with
BAD_VALUE. -/
def Obligations.PortWindowRefusals : Prop :=
  ∀ (s : State) (p : PortId) (v : Word), s.ready p →
    (∀ k : Fin 16, k.val ∈ [0, 1, 3, 5, 10, 11, 12, 14, 15] →
      exec (.readOnlyWordWrite p (BitVec.ofNat 18 (0x3FDF0 + k.val)) v) s =
        .next (s.refusedOn p .write (BitVec.ofNat 18 (0x3FDF0 + k.val)) .windowWord)) ∧
    (∀ k : Fin 16, k.val ∈ [2, 9, 13] → exec (.writeOnlyWordRead p (BitVec.ofNat 18 (0x3FDF0 + k.val))) s =
      .next (s.refusedOn p .read (BitVec.ofNat 18 (0x3FDF0 + k.val)) .windowWord)) ∧
    (p ≠ 0 → ∀ k : Fin 16, k.val ∈ [14, 15] → exec (.writeOnlyWordRead p (BitVec.ofNat 18 (0x3FDF0 + k.val))) s =
      .next (s.refusedOn p .read (BitVec.ofNat 18 (0x3FDF0 + k.val)) .supervisorOnly)) ∧
    (p ≠ 0 → exec (.readOnlyWordWrite p 0x3FDFD#18 v) s = .next (s.refusedOn p .write 0x3FDFD#18 .supervisorOnly)) ∧
    (p ≠ 0 → exec (.faultBRead p) s = .next (s.refusedOn p .read 0x3FDFF#18 .supervisorOnly)) ∧
    (p ≠ 0 → ∀ (n : PortId) (r : RingId) (l : LockId),
      exec (.dropPort p n) s = .next (s.refusedOn p .write 0x3FDFD#18 .supervisorOnly) ∧
      exec (.ringReset p r) s = .next (s.refusedOn p .write 0x3FDFD#18 .supervisorOnly) ∧
      exec (.lockFree p l) s = .next (s.refusedOn p .write 0x3FDFD#18 .supervisorOnly) ∧
      exec (.clearFault p) s = .next (s.refusedOn p .write 0x3FDFD#18 .supervisorOnly)) ∧
    (p = 0 → ¬(v.toNat / 256 = 1 ∧ v.toNat % 256 < 4) → ¬(v.toNat / 256 = 2 ∧ v.toNat % 256 < 8) →
      ¬(v.toNat / 256 = 3 ∧ v.toNat % 256 < 16) → v ≠ 0x400#16 →
      exec (.readOnlyWordWrite p 0x3FDFD#18 v) s = .next (s.refusedOn p .write 0x3FDFD#18 .badValue))

/-- The words of the port window that a read only shows: DETAIL (R50), PENDING (R40), INSERVICE (R51), MASK and MASK-CLEAR (R41),
THRESHOLD (R42), REFUSAL-A (R19) and, for P0, FAULT-A (R147). The reads that clear a record: REFUSAL_B_READ (R19), IDENT_READ
(R180) and, for P0, FAULT_B_READ (R147), each with the word that Tables 11-3 to 11-5 lay out. -/
def Obligations.PortWindowReads : Prop :=
  (∀ (s : State) (p : PortId), s.ready p →
    exec (.memoryRead p 0x3FDF3#18) s =
      .next (s.answered p (match s.ctls[p].taken with | some t => t.detail | none => 0)) ∧
    (∃ w : Word, exec (.memoryRead p 0x3FDF4#18) s = .next (s.answered p w) ∧
      ∀ i : SlotId, w.getLsbD i.val = s.slotPending p i) ∧
    (∃ w : Word, exec (.memoryRead p 0x3FDF5#18) s = .next (s.answered p w) ∧
      ∀ i : SlotId, w.getLsbD i.val = (s.ctls[p].inService.any fun e => decide (e.slot = i))) ∧
    exec (.memoryRead p 0x3FDF6#18) s = .next (s.answered p s.ctls[p].mask) ∧
    exec (.memoryRead p 0x3FDF7#18) s = .next (s.answered p s.ctls[p].mask) ∧
    exec (.memoryRead p 0x3FDF8#18) s = .next (s.answered p (BitVec.ofNat 16 (s.ctls[p].threshold).val)) ∧
    exec (.memoryRead p 0x3FDFA#18) s =
      .next (s.answered p (match s.ports[p].refusal with | some r => r.addr.setWidth 16 | none => 0)) ∧
    (p = 0 → exec (.memoryRead p 0x3FDFE#18) s =
      .next (s.answered p (match s.fault with | some r => r.addr.setWidth 16 | none => 0)))) ∧
  (∀ (s : State) (p : PortId), s.ready p →
    exec (.refusalBRead p) s = .next ((s.modPort p fun pt => { pt with refusal := none }).answered p
      (match s.ports[p].refusal with
       | none => 0
       | some r => BitVec.ofNat 16 (r.addr.toNat / 65536 + 256 * r.reason.code + (if r.kind = .write then 8192 else 0)
          + (if r.further then 16384 else 0) + 32768))) ∧
    exec (.identRead p) s = .next ((s.modPort p fun pt => { pt with dropped := false }).answered p
      (BitVec.ofNat 16 (p.val + 16 + (if s.kind = .warm then 256 else 0) + (if s.ports[p].dropped then 512 else 0)))) ∧
    (p = 0 → exec (.faultBRead p) s = .next (({ s with fault := none }).answered p
      (match s.fault with
       | none => 0
       | some r => BitVec.ofNat 16 (r.addr.toNat / 65536 + 256 * r.code + (if r.further then 16384 else 0) + 32768)))))

/-- The access path's refusals outside the port window (R10 to R15, R21), for every row that presents a cycle, also at an address
that its name does not suggest (log 8): ring storage in
either direction, table writes of P1 to P3, a write of the take word before the rights, and cycles without the right. -/
def Obligations.RefusedByAccessPath : Prop :=
  ∀ (i : Instr) (s : State) (p : PortId) (d : Dir) (a : Addr) (v : Word), s.ready p → cycleOf i = some (p, d, a, v) →
    (s.classify a = .storage → exec i s = .next (s.refusedOn p d a .ringStorage)) ∧
    (0x3FE00 ≤ a.toNat → p ≠ 0 → d = .write → exec i s = .next (s.refusedOn p .write a .tableWrite)) ∧
    (∀ w : WinId, s.classify a = .window w →
      (s.windows[w].ctl.winKind = some .ring → a.toNat = winBase s.windows[w].data + 1 → d = .write →
        exec i s = .next (s.refusedOn p .write a .windowWord)) ∧
      (d = .read → inReadSet s.windows[w].data p = false → exec i s = .next (s.refusedOn p .read a .noReadRight)) ∧
      (d = .write → inWriteSet s.windows[w].data p = false →
        (s.windows[w].ctl.winKind = some .ring → a.toNat = winBase s.windows[w].data) →
        exec i s = .next (s.refusedOn p .write a .noWriteRight)))

/-- A cycle passing to memory (R10, R13, R16, R26, R138): a request of the port at its own address, the cycle held. A WATCH
window's write is a locked pair exactly under changed-only, and the watch unit takes the window's values with it (R23). -/
def Obligations.PassesToMemory : Prop :=
  ∀ (s : State) (p : PortId) (a : Addr) (v : Word), s.ready p →
    (s.classify a = .memory →
      exec (.memoryRead p a) s = .next (s.requested p .read a 0 .memory (portRequest p .read a none)) ∧
      exec (.memoryWrite p a v) s = .next (s.requested p .write a v .memory (portRequest p (.write v) a none))) ∧
    (0x3FE00 ≤ a.toNat →
      exec (.memoryRead p a) s = .next (s.requested p .read a 0 .memory (portRequest p .read a none))) ∧
    (p = 0 → (0x3FE04 ≤ a.toNat ∧ a.toNat < 0x3FE10 ∨ 0x3FF20 ≤ a.toNat) →
      exec (.memoryWrite p a v) s = .next (s.requested p .write a v .memory (portRequest p (.write v) a none))) ∧
    (∀ w : WinId, s.classify a = .window w → s.windows[w].ctl.winKind = some .plain →
      (inReadSet s.windows[w].data p = true →
        exec (.memoryRead p a) s = .next (s.requested p .read a 0 .memory (portRequest p .read a none))) ∧
      (inWriteSet s.windows[w].data p = true → exec (.memoryWrite p a v) s =
        .next (s.requested p .write a v .memory (portRequest p (.write v) a none)))) ∧
    (∀ (w : WinId) (g : WatchTag), s.classify a = .window w → s.windows[w].ctl.winKind = some .watch →
      g = { win := w, offset := BitVec.ofNat 16 (a.toNat - winBase s.windows[w].data),
            target := winTarget s.windows[w].data, onWrite := s.windows[w].ctl.onWrite,
            onRead := s.windows[w].ctl.onRead, changedOnly := s.windows[w].ctl.changedOnly } →
      (inReadSet s.windows[w].data p = true →
        exec (.memoryRead p a) s = .next (s.requested p .read a 0 .memory (portRequest p .read a (some g)))) ∧
      (inWriteSet s.windows[w].data p = true → exec (.memoryWrite p a v) s = .next (s.requested p .write a v .memory
        (portRequest p (if s.windows[w].ctl.changedOnly then .pair v else .write v) a (some g)))))

/-- Bit layouts (Tables 11-6 to 11-13): header flags, window words 2 and 3, ring records, binding words, MODE, the descriptor that
seven words give, the state word, and the codes of states, statuses and reasons. The pins (R2, R137, R142; the functions and the
moments are the model's, log 21 and log 12): PWAITN while a cycle is in progress; MOEN in a read and in the read of a pair, MWEN in
a write and in the write of a pair, with MD and MDP driven; MA while an access is in progress; nothing is driven otherwise. -/
def Obligations.LayoutsAndPins : Prop :=
  (∀ (s : State) (p : PortId),
     (s.headerEnable = s.header[(0 : Fin 4)].getLsbD 0) ∧ (s.autoEnd p = s.header[(1 : Fin 4)].getLsbD (2 * p.val)) ∧
     (s.rotating p = s.header[(1 : Fin 4)].getLsbD (2 * p.val + 1)) ∧
     (s.chanRotate = s.header[(2 : Fin 4)].getLsbD 0) ∧ (s.tickLength = 256 * ((s.header[(3 : Fin 4)]).toNat + 1))) ∧
  (∀ (d : Vector Word 3) (p : PortId), inReadSet d p = (d[(2 : Fin 3)]).getLsbD (4 + p.val) ∧
     inWriteSet d p = (d[(2 : Fin 3)]).getLsbD (8 + p.val) ∧ (winTarget d).val = (d[(2 : Fin 3)]).toNat / 4096 % 4 ∧
     winBase d = (d[(2 : Fin 3)]).toNat % 4 * 65536 + (d[(0 : Fin 3)]).toNat ∧
     winLen d = (if (d[(1 : Fin 3)]).toNat = 0 then 65536 else (d[(1 : Fin 3)]).toNat)) ∧
  (∀ v : Word, (winCtlOf v).kind.toNat = v.toNat % 8 ∧ (winCtlOf v).link.toNat = v.toNat / 16 % 16 ∧
     (winCtlOf v).count.toNat = v.toNat / 256 % 32 ∧ (winCtlOf v).onWrite = v.getLsbD 13 ∧
     (winCtlOf v).onRead = v.getLsbD 14 ∧ (winCtlOf v).changedOnly = v.getLsbD 15) ∧
  (∀ c : WinCtl, c.winKind = if c.kind = 1 then some .plain else if c.kind = 2 then some .watch
     else if c.kind = 3 then some .ring else if c.kind = 4 then some .lock else if c.kind = 5 then some .channel else none) ∧
  (∀ k : RingRec, k.base = (k.data[(1 : Fin 7)]).toNat % 4 * 65536 + (k.data[(0 : Fin 7)]).toNat ∧
     k.entrySize = (k.data[(1 : Fin 7)]).toNat / 16 % 8 ∧ k.capacity = (k.data[(2 : Fin 7)]).toNat ∧
     k.watermark = (k.data[(3 : Fin 7)]).toNat ∧ k.stallLimit = (k.data[(4 : Fin 7)]).toNat ∧
     k.policy = (k.data[(5 : Fin 7)]).toNat % 4 ∧ k.consumer.val = (k.data[(6 : Fin 7)]).toNat % 4 ∧
     k.producer.val = (k.data[(6 : Fin 7)]).toNat / 16 % 4 ∧
     ∀ i j : Nat, k.wordAddr i j = BitVec.ofNat 18 (k.base + i * k.entrySize + j)) ∧
  (∀ (v : Word) (b : Binding), bindingOf v = .ok (some b) →
     b.level.val = v.toNat / 4096 % 4 ∧ b.source.code = v.toNat / 256 % 16 ∧
     (match b.source with
      | .watch w => w.val | .ringData r => r.val | .ringSpace r => r.val | .ringFault r => r.val | .chanDone c => c.val
      | .chanMark c => c.val | .signal p => p.val | _ => 0) = v.toNat % 32) ∧
  (∀ d : Desc,
     d.op = [none, some .copy, some .verify, some .fill, some .sum, some .feed, none, none].getD (d.mode.toNat % 8) none ∧
     d.linkFlag = d.mode.getLsbD 3 ∧ d.toDst = !d.mode.getLsbD 5 ∧
     d.lock = (if d.mode.getLsbD 4 then some (Fin.ofNat 16 (d.mode.toNat / 256 % 16)) else none) ∧
     d.mark = [some 0, some 16, some 32, some 64, some 128, some 256, none, none].getD (d.mode.toNat / 4096 % 8) none ∧
     d.length = (if d.count = 0 then 65536 else d.count.toNat) ∧
     (∀ r : RingId, d.ring = some r ↔ d.data.toNat = r.val)) ∧
  (∀ a b c d e f g : Word, descOfWords [a, b, c, d, e, f, g] =
     ((((((Desc.zero.setWord 0 a).setWord 1 b).setWord 2 c).setWord 3 d).setWord 4 e).setWord 5 f).setWord 6 g) ∧
  (∀ k : Chan, k.stateWord = BitVec.ofNat 16 (k.descCount.toNat +
     256 * (match k.owner with | some p => p.val | none => 0) + 1024 * (9 * k.state.code + k.last.code))) ∧
  ([ChanState.idle, .lockWait, .run, .stall, .fetch].map (·.code) = [0, 1, 2, 3, 4] ∧
   [Status.none, .done, .aborted, .mismatch, .parity, .leaseLost, .ringReset, .dropped, .badDescriptor].map (·.code) =
     [0, 1, 2, 3, 4, 5, 6, 7, 8] ∧
   [Reason.noReadRight, .noWriteRight, .ringStorage, .tableWrite, .windowWord, .ringFull, .ringAssembly, .ringEmpty,
     .ringReset, .ringDisabled, .lockNotHolder, .channelBusy, .channelRequest, .endNotInService, .supervisorOnly,
     .badValue].map (·.code) = [1, 2, 3, 4, 5, 6, 7, 8, 9, 10, 11, 12, 13, 14, 15, 16] ∧
   [TableReason.badKind, .badFlags, .badShape, .outOfSpan, .overlap, .alreadyMapped, .badSource, .badIndex, .duplicate,
     .parity].map (·.code) = [1, 2, 3, 4, 5, 6, 7, 8, 9, 10] ∧
   (∀ (w : WinId) (r : RingId) (c : ChanId) (p : PortId), [Source.watch w, .ringData r, .ringSpace r, .ringFault r,
     .lockGrant, .lockLost, .chanDone c, .chanMark c, .signal p, .refusal, .parity, .table].map (·.code) =
     [1, 2, 3, 4, 5, 6, 7, 8, 9, 10, 11, 12]) ∧
   (∀ (p : PortId) (c : ChanId), (Claimant.port p).code = p.val ∧ (Claimant.chan c).code = 4 + c.val)) ∧
  (∀ s : State,
     (∀ p : PortId, s.pwaitn p = s.ports[p].cycle.isSome) ∧
     (s.inProg = none → s.moen = false ∧ s.mwen = false ∧ s.ma = none ∧ s.md = none ∧ s.mdp = none) ∧
     (∀ x : Access, s.inProg = some x → s.ma = some x.req.addr ∧
       (x.req.kind = .read → s.moen = true ∧ s.mwen = false ∧ s.md = none ∧ s.mdp = none) ∧
       (∀ v : Word, x.req.kind = .write v ∨ x.req.kind = .pair v ∧ x.old.isSome = true →
         s.moen = false ∧ s.mwen = true ∧ s.md = some v ∧ s.mdp = some (parityFor v)) ∧
       (∀ v : Word, x.req.kind = .pair v → x.old = none →
         s.moen = true ∧ s.mwen = false ∧ s.md = none ∧ s.mdp = none)))

/-! ## Memory port -/

/-- ARBITER_GRANT (R139, R140): the first requester after the last-grant pointer that has a request presented is granted, and the
pointer names it; a pair's old word is read with the grant (log 12), bits upset then being as if stored so (log 13). While an
access is in progress, in start-up, or with no request, nothing is granted. -/
def Obligations.RoundRobinGrant : Prop :=
  ∀ s : State,
    (∀ u : Upset, s.part ≠ .running ∨ s.inProg.isSome = true ∨ (∀ q : Fin 5, s.reqs[q] = none) →
      exec (.arbiterGrant u) s = .next s) ∧
    (∀ (n q : Fin 5) (r : Request), s.part = .running → s.inProg = none → q = s.lastGrant + 1 + n → s.reqs[q] = some r →
      (∀ m : Fin 5, m.val < n.val → s.reqs[s.lastGrant + 1 + m] = none) →
      ((∀ v : Word, r.kind ≠ .pair v) → ∀ u : Upset, exec (.arbiterGrant u) s = .next { s with
        reqs := upd s.reqs q fun _ => none
        lastGrant := q
        inProg := some { req := r, old := none } }) ∧
      (∀ v : Word, r.kind = .pair v → exec (.arbiterGrant 0) s = .next { s with
        reqs := upd s.reqs q fun _ => none
        lastGrant := q
        inProg := some { req := r, old := some ((s.cellAt r.addr).word, (s.cellAt r.addr).bad) } }) ∧
      (∀ v : Word, r.kind = .pair v → ∀ u : Upset,
        (∀ c : MemCell, Mem.get? s.mem r.addr.toNat = some c → u ≠ 0 →
          exec (.arbiterGrant u) s = exec (.arbiterGrant 0) { s with mem := Mem.set s.mem r.addr.toNat (c.flipped u) }) ∧
        (Mem.get? s.mem r.addr.toNat = none → exec (.arbiterGrant u) s = exec (.arbiterGrant 0) s)))

/-- MEMORY_ACCESS_COMPLETE of a port's read (R16, R143, R145, R146): the cycle completes with the word read, even with a parity
error, which first loads the fault record and delivers PARITY to P0. Here the access is not judged by the watch unit and the
SRAM answers what was stored.
MEMORY_ACCESS_COMPLETE of a port's write (R16, R142): the word is stored with a parity bit that makes the number of ones odd,
and the cycle completes. -/
def Obligations.PortAccessCompletes : Prop :=
  (∀ (s : State) (a : Access) (p : PortId) (c : Cycle), s.inProg = some a → a.req.issuer = .port p → a.req.kind = .read →
     a.req.watch = none → a.req.abandoned = false → s.ports[p].cycle = some c →
     ((s.cellAt a.req.addr).bad = false → exec (.memoryAccessComplete 0) s =
       .next (({ s with inProg := none }).modPort p fun pt => { pt with
         cycle := none
         last := some (.read (s.cellAt a.req.addr).word)
         pd := if c.strobe then some (s.cellAt a.req.addr).word else none })) ∧
     ((s.cellAt a.req.addr).bad = true → exec (.memoryAccessComplete 0) s =
       .next ((({ s with
           inProg := none
           fault := match s.fault with
             | none => some { addr := a.req.addr, code := a.req.code, further := false }
             | some f => some { f with further := true } }).deliver 0 .parity (BitVec.ofNat 16 a.req.code)).modPort p
         fun pt => { pt with
           cycle := none
           last := some (.read (s.cellAt a.req.addr).word)
           pd := if c.strobe then some (s.cellAt a.req.addr).word else none }))) ∧
  ((∀ (s : State) (a : Access) (p : PortId) (c : Cycle) (v : Word) (u : Upset), s.inProg = some a →
     a.req.issuer = .port p → a.req.kind = .write v → a.req.watch = none → a.req.abandoned = false →
     s.ports[p].cycle = some c →
     exec (.memoryAccessComplete u) s =
       .next (({ s with
         inProg := none
         mem := Mem.set s.mem a.req.addr.toNat { word := v, par := parityFor v } }).modPort p fun pt =>
           { pt with cycle := none, last := some .write, pd := none })) ∧
   (∀ v : Word, ((List.range 16).countP (fun i => v.getLsbD i) + (if parityFor v then 1 else 0)) % 2 = 1) ∧
   (∀ c : MemCell, c.bad = true ↔
     ((List.range 16).countP (fun i => c.word.getLsbD i) + (if c.par then 1 else 0)) % 2 = 0))

/-- The watch unit's judgement (R24 to R27, R31, Table 3-1) when a port's access completes: a read is a hit under on-read, with
or without a parity error, which is reported first; a single write under on-write, a changed-only pair where the words differ or
its read had a parity error. A hit delivers WATCH to the target before the cycle completes. That the error of a pair's read is
reported at the pair's completion is the model's choice (log 12). -/
def Obligations.WatchJudged : Prop :=
  ∀ (s : State) (a : Access) (p : PortId) (c : Cycle) (g : WatchTag) (v : Word), s.inProg = some a →
    a.req.issuer = .port p → a.req.watch = some g → a.req.abandoned = false → s.ports[p].cycle = some c →
    (∀ t : State, ReadJudged s a t → exec (.memoryAccessComplete 0) s = .next (t.modPort p fun pt => { pt with
      cycle := none
      last := some (.read (s.cellAt a.req.addr).word)
      pd := if c.strobe then some (s.cellAt a.req.addr).word else none })) ∧
    (a.req.kind = .read → (s.cellAt a.req.addr).bad = false → exec (.memoryAccessComplete 0) s =
      .next (((if g.onRead then ({ s with inProg := none }).deliver g.target (.watch g.win) g.offset
        else { s with inProg := none })).modPort p fun pt => { pt with
          cycle := none
          last := some (.read (s.cellAt a.req.addr).word)
          pd := if c.strobe then some (s.cellAt a.req.addr).word else none })) ∧
    (a.req.kind = .write v → exec (.memoryAccessComplete 0) s =
      .next (((if g.onWrite then
          ({ s with inProg := none, mem := Mem.set s.mem a.req.addr.toNat (goodCell v) }).deliver g.target (.watch g.win)
            g.offset
        else { s with inProg := none, mem := Mem.set s.mem a.req.addr.toNat (goodCell v) })).modPort p fun pt =>
          { pt with cycle := none, last := some .write, pd := none })) ∧
    (∀ o : Word, a.req.kind = .pair v → a.old = some (o, false) → exec (.memoryAccessComplete 0) s =
      .next (((if o ≠ v then
          ({ s with inProg := none, mem := Mem.set s.mem a.req.addr.toNat (goodCell v) }).deliver g.target (.watch g.win)
            g.offset
        else { s with inProg := none, mem := Mem.set s.mem a.req.addr.toNat (goodCell v) })).modPort p fun pt =>
          { pt with cycle := none, last := some .write, pd := none })) ∧
    (∀ o : Word, a.req.kind = .pair v → a.old = some (o, true) → exec (.memoryAccessComplete 0) s =
      .next (((({ s with inProg := none, mem := Mem.set s.mem a.req.addr.toNat (goodCell v) }).reportParity a.req.addr
        a.req.code).deliver g.target (.watch g.win) g.offset).modPort p fun pt =>
          { pt with cycle := none, last := some .write, pd := none }))

/-- The frame of memory. Every command but PONN_LOW, the completions, and a grant with upset bits leaves every word as it reads;
a completion and a grant change at most the word of the access they complete or begin, a completion that finds no access in progress
(log 6) and one of a read without upset bits nothing. A word that fails its check goes on failing
until a write to it or power-on (R144); upset bits (log 13) flip a good cell's bits and never mend a bad one. A word reads as the
cell last stored there, which a write or a pair leaves good (R137, R142); bits upset at the completion of a read are as if stored
so, and an unwritten word has none to upset (R143, R144, log 13). -/
def Obligations.MemoryFrame : Prop :=
  (∀ (i : Instr) (s t : State), exec i s = .next t →
    ((∀ u, u ≠ 0 → i ≠ .arbiterGrant u) → (∀ u, i ≠ .memoryAccessComplete u) → (∀ u, i ≠ .sweepReadComplete u) →
      (∀ c u, i ≠ .stopPendingComplete c u) → i ≠ .coldClearWriteComplete → i ≠ .ponnLow → sameMemory s t) ∧
    (∀ (u : Upset) (c : ChanId) (x : Access), s.inProg = some x →
      (i = .memoryAccessComplete u ∨ i = .sweepReadComplete u ∨ i = .stopPendingComplete c u ∨
        i = .coldClearWriteComplete) →
      ∀ a : Addr, a ≠ x.req.addr → t.cellAt a = s.cellAt a) ∧
    (∀ (u : Upset) (c : ChanId),
      (i = .memoryAccessComplete u ∨ i = .sweepReadComplete u ∨ i = .stopPendingComplete c u ∨
        i = .coldClearWriteComplete) →
      (s.inProg = none → sameMemory s t) ∧
      (∀ x : Access, s.inProg = some x → x.req.kind = .read → (∀ k : Nat, x.req.issuer ≠ .clear k) → u = 0 →
        sameMemory s t)) ∧
    (∀ (u : Upset) (x : Access), i = .arbiterGrant u → t.inProg = some x → ∀ a : Addr, a ≠ x.req.addr →
      t.cellAt a = s.cellAt a) ∧
    (∀ a : Addr, (s.cellAt a).bad = true → i ≠ .ponnLow →
      (∀ x : Access, s.inProg = some x → x.req.addr = a → x.req.kind = .read ∧ ∀ k : Nat, x.req.issuer ≠ .clear k) →
      (t.cellAt a).bad = true)) ∧
  (∀ (c : MemCell) (u : Upset),
    (c.bad = false → c.flipped u = { word := c.word ^^^ u.setWidth 16, par := xor c.par (u.getLsbD 16) }) ∧
    (c.bad = true → (c.flipped u).bad = true)) ∧
  (∀ (s : State) (m : Memory) (a b : Addr) (c : MemCell),
    ({ s with mem := Mem.set m a.toNat c }).cellAt b = if b = a then c else ({ s with mem := m }).cellAt b) ∧
  (∀ (s t : State) (x : Access) (u : Upset), s.inProg = some x → exec (.memoryAccessComplete u) s = .next t →
    (∀ v : Word, (x.req.kind = .write v ∨ x.req.kind = .pair v) → (∀ k : Nat, x.req.issuer ≠ .clear k) →
      (∀ k : Nat, x.req.issuer ≠ .sweep k) →
      t.cellAt x.req.addr = { word := v, par := parityFor v } ∧ (t.cellAt x.req.addr).bad = false)) ∧
  (∀ (s : State) (x : Access) (u : Upset), s.inProg = some x → x.req.kind = .read → (∀ k : Nat, x.req.issuer ≠ .clear k) →
    (∀ c : MemCell, Mem.get? s.mem x.req.addr.toNat = some c → u ≠ 0 → exec (.memoryAccessComplete u) s =
      exec (.memoryAccessComplete 0) { s with mem := Mem.set s.mem x.req.addr.toNat (c.flipped u) }) ∧
    (Mem.get? s.mem x.req.addr.toNat = none → exec (.memoryAccessComplete u) s = exec (.memoryAccessComplete 0) s))

/-- The frame of the configuration and of the controllers. A well-formed command that is no P0 table write, no reset, no end of a
start-up access and no CYCLE_HELD_ON_OFF_PORT leaves the shadow as it was (R151). If it is besides no write or read of a
controller's own words and no teardown, it leaves every mask, threshold, in-service set, rotation pointer and taken record as it
was (R35). -/
def Obligations.ConfigurationFrame : Prop :=
  ∀ (i : Instr) (s t : State), exec i s = .next t → i.wellFormed = true →
    (∀ n v, i ≠ .headerWrite n v) → (∀ w k v, i ≠ .windowDataWrite w k v) → (∀ w v, i ≠ .windowCommit w v) →
    (∀ r k v, i ≠ .ringDataWrite r k v) → (∀ r v, i ≠ .ringCommit r v) → (∀ l v, i ≠ .leaseWrite l v) →
    (∀ q x v, i ≠ .bindingWrite q x v) → i ≠ .ponnLow → i ≠ .rstnLow → i ≠ .coldClearWriteComplete →
    (∀ u, i ≠ .sweepReadComplete u) → (∀ p d a v, i ≠ .cycleHeldOnOffPort p d a v) →
    (∀ x : Access, s.inProg = some x → (∀ k, x.req.issuer ≠ .clear k) ∧ (∀ k, x.req.issuer ≠ .sweep k)) →
    sameShadow s t ∧
    ((∀ p, i ≠ .take p) → (∀ p v, i ≠ .endSpecific p v) → (∀ p, i ≠ .endNonSpecific p) → (∀ p v, i ≠ .maskSet p v) →
      (∀ p v, i ≠ .maskClear p v) → (∀ p v, i ≠ .threshold p v) → (∀ p n, i ≠ .dropPort p n) →
      (∀ p, i ≠ .portReset p) →
      ∀ p : PortId, t.ctls[p].mask = s.ctls[p].mask ∧ t.ctls[p].threshold = s.ctls[p].threshold ∧
        t.ctls[p].inService = s.ctls[p].inService ∧ t.ctls[p].rotation = s.ctls[p].rotation ∧
        t.ctls[p].taken = s.ctls[p].taken)

/-! ## Notice controllers -/

/-- Eligibility and the notice line (R43, R39, R44): the six conditions, and PNTFN exactly while the port is UP and a slot is
eligible. A RING-DATA slot is pending exactly while its port is UP and the consumer, and the ring is enabled with its count at or
above the watermark; another bound slot while it holds a notice (R38, R40), and an unbound one never. The selection of TAKE and
PEEK (R45): among the eligible slots one of the lowest level, and among those the one that the search reaches first. -/
def Obligations.EligibleSlots : Prop :=
  (∀ (s : State) (p : PortId),
    (∀ i : SlotId, s.eligible p i = true ↔ ∃ b : Binding, s.ctls[p].slots[i].binding = some b ∧ s.slotPending p i = true ∧
      (s.ctls[p].mask).getLsbD i.val = false ∧ (∀ e ∈ s.ctls[p].inService, e.slot ≠ i) ∧
      b.level.val < (s.ctls[p].threshold).val ∧ ∀ e ∈ s.ctls[p].inService, b.level < e.level) ∧
    (∀ (i : SlotId) (r : RingId) (l : Level), s.ctls[p].slots[i].binding = some { source := .ringData r, level := l } →
      (s.slotPending p i = true ↔ s.ports[p].state = .up ∧ s.recs[r].consumer = p ∧ s.recs[r].enable = true ∧
        s.recs[r].watermark ≤ s.rings[r].count)) ∧
    (∀ (i : SlotId) (b : Binding), s.ctls[p].slots[i].binding = some b → (∀ r : RingId, b.source ≠ .ringData r) →
      (s.slotPending p i = true ↔ ∃ n : Notice, s.ctls[p].slots[i].notice = some n)) ∧
    (∀ i : SlotId, s.ctls[p].slots[i].binding = none → s.slotPending p i = false) ∧
    (s.pntfn p = true ↔ s.ports[p].state = .up ∧ ∃ i : SlotId, s.eligible p i = true)) ∧
  (∀ (s : State) (p : PortId) (i : SlotId), s.selected p = some i ↔
    s.eligible p i = true ∧ ∀ j : SlotId, s.eligible p j = true →
      s.slotLevel p i < s.slotLevel p j ∨ s.slotLevel p i = s.slotLevel p j ∧ s.searchRank p i ≤ s.searchRank p j)

/-- TAKE with a slot selected (R46, R39): the word that reports it, with the notice's repeated flag in bit 7, which is 0 for a
RING-DATA slot, the taken record, the slot, the in-service set and the rotation pointer, and nothing else. -/
def Obligations.TakeSelects : Prop :=
  ∀ (s : State) (p : PortId) (i : SlotId) (b : Binding), s.ready p → s.selected p = some i →
    s.ctls[p].slots[i].binding = some b →
    exec (.take p) s = .next ((s.modCtl p fun k => { k with
      taken := some { source := b.source, detail := match b.source with
        | .ringData r => BitVec.ofNat 16 s.rings[r].count
        | _ => (match s.ctls[p].slots[i].notice with | some n => n.detail | none => 0) }
      slots := if b.source.isLevel then k.slots else upd k.slots i fun x => { x with notice := none }
      inService := if s.autoEnd p then k.inService else k.inService ++ [{ slot := i, level := b.level }]
      rotation := i }).answered p
        (BitVec.ofNat 16 (i.val + 16 * b.level.val + (match b.source, s.ctls[p].slots[i].notice with
          | .ringData _, _ => 0
          | _, some n => if n.repeated then 128 else 0
          | _, none => 0) + 256 * b.source.code)))

/-- R47: TAKE with no slot eligible returns 8000H and changes nothing else: no pending flag, in-service entry, taken record or
pointer, no refusal record, no delivery. No word that reports a selection has its most significant bit set. -/
def Obligations.TakeNone : Prop :=
  (∀ (s : State) (p : PortId), s.ready p → (∀ i : SlotId, s.eligible p i = false) →
    exec (.take p) s = .next (s.answered p 0x8000#16)) ∧
  (∀ (i : SlotId) (l : Level) (rep : Bool) (src : Source), (takeWord i l rep src).getLsbD 15 = false)

/-- R49: PEEK returns the word that TAKE would return and changes nothing but the port's own cycle. -/
def Obligations.PeekAsTake : Prop :=
  ∀ (s : State) (p : PortId), s.ready p → ∃ (w : Word) (t : State), exec (.take p) s = .next t ∧
    t.ports[p].last = some (.read w) ∧ exec (.peek p) s = .next (s.answered p w)

/-- PEND_CLEAR (R40): each marked slot that is bound to a latched source becomes not pending; nothing else changes.
MASK_SET, MASK_CLEAR (R41) and THRESHOLD (R42). Ends (R52, R53, R54): a specific end removes the slot's entry, a non-specific one
the entry of the smallest level-at-take; otherwise END_NOT_INSERVICE, or BAD_VALUE for a value that names neither. SIGNAL (R55): the
event is delivered to the port that the high byte names, with the writing port as index and the low byte as detail, and the write
completes; another high byte is refused with BAD_VALUE. -/
def Obligations.ControllerWrites : Prop :=
  (∀ (s : State) (p : PortId) (v : Word), s.ready p → exec (.pendClear p v) s = .next ((s.modCtl p fun k => { k with
     slots := Vector.ofFn fun i : SlotId =>
       if v.getLsbD i.val then
         (match k.slots[i].binding with
          | some b => if b.source.isLevel then k.slots[i] else { k.slots[i] with notice := none }
          | none => k.slots[i])
       else k.slots[i] }).written p)) ∧
  (∀ (s : State) (p : PortId) (v : Word), s.ready p →
     exec (.maskSet p v) s = .next ((s.modCtl p fun k => { k with mask := k.mask ||| v }).written p) ∧
     exec (.maskClear p v) s = .next ((s.modCtl p fun k => { k with mask := k.mask &&& ~~~v }).written p) ∧
     (∀ n : Fin 5, v.toNat = n.val →
       exec (.threshold p v) s = .next ((s.modCtl p fun k => { k with threshold := n }).written p)) ∧
     (5 ≤ v.toNat → exec (.threshold p v) s = .next (s.refusedOn p .write 0x3FDF8#18 .badValue))) ∧
  (∀ (s : State) (p : PortId) (v : Word), s.ready p →
    (v.toNat < 16 → (∃ e ∈ s.ctls[p].inService, e.slot.val = v.toNat) →
      exec (.endSpecific p v) s = .next ((s.modCtl p fun k =>
        { k with inService := k.inService.filter fun e => decide (e.slot.val ≠ v.toNat) }).written p)) ∧
    (v.toNat < 16 → (∀ e ∈ s.ctls[p].inService, e.slot.val ≠ v.toNat) →
      exec (.endSpecific p v) s = .next (s.refusedOn p .write 0x3FDF2#18 .endNotInService)) ∧
    (16 ≤ v.toNat → v ≠ 0xFFFF#16 → exec (.endSpecific p v) s = .next (s.refusedOn p .write 0x3FDF2#18 .badValue)) ∧
    (∀ x ∈ s.ctls[p].inService, (∀ e ∈ s.ctls[p].inService, e ≠ x → x.level < e.level) →
      exec (.endNonSpecific p) s = .next ((s.modCtl p fun k =>
        { k with inService := k.inService.filter fun e => decide (e ≠ x) }).written p)) ∧
    (s.ctls[p].inService = [] →
      exec (.endNonSpecific p) s = .next (s.refusedOn p .write 0x3FDF2#18 .endNotInService))) ∧
  (∀ (s : State) (p : PortId) (v : Word), s.ready p →
    (∀ q : PortId, v.toNat / 256 = q.val →
      exec (.signal p v) s = .next ((s.deliver q (.signal p) (BitVec.ofNat 16 (v.toNat % 256))).written p)) ∧
    (4 ≤ v.toNat / 256 → exec (.signal p v) s = .next (s.refusedOn p .write 0x3FDF9#18 .badValue)))

/-- Deliveries (R37, R38, R176): a port that is UP latches a delivery into the slot bound to its source, keeping the first detail
and setting repeated; a delivery to a port that is not UP, or to a source that no slot is bound to, changes nothing; during the
sweep P0 takes TABLE deliveries although it is OFF. -/
def Obligations.DeliveryLatches : Prop :=
  ∀ (s : State) (q : PortId) (src : Source) (d : Word),
    (∀ (i : SlotId) (b : Binding), (s.ports[q].state = .up ∨ q = 0 ∧ src = .table ∧ s.part = .sweep) →
      s.ctls[q].slots[i].binding = some b → b.source = src →
      (∀ (j : SlotId) (c : Binding), s.ctls[q].slots[j].binding = some c → c.source = src → j = i) →
      s.deliver q src d = s.modCtl q fun k => { k with slots := upd k.slots i fun x => { x with
        notice := some (match x.notice with
          | none => { detail := d, repeated := false }
          | some n => { n with repeated := true }) } }) ∧
    ((∀ (i : SlotId) (b : Binding), s.ctls[q].slots[i].binding = some b → b.source ≠ src) → s.deliver q src d = s) ∧
    (s.ports[q].state ≠ .up → ¬(q = 0 ∧ src = .table ∧ s.part = .sweep) → s.deliver q src d = s)

/-! ## CONTROL commands and teardowns -/

/-- R148: CLEAR_FAULT empties the fault record, and the CONTROL write then completes; on an empty record it changes nothing and is
not refused; P0's controller is not touched. A parity error after the command loads the emptied record with further clear; one
before it is emptied with the record, and its PARITY delivery stands. -/
def Obligations.ClearFault : Prop :=
  ∀ s : State, s.ready 0 →
    exec (.clearFault 0) s = .next (({ s with fault := none }).written 0) ∧
    (∀ (a : Addr) (code : Nat),
      ((({ s with fault := none }).written 0).reportParity a code).fault =
        some { addr := a, code := code, further := false } ∧
      exec (.clearFault 0) (s.reportParity a code) =
        .next ((({ s with fault := none }).deliver 0 .parity (BitVec.ofNat 16 code)).written 0))

/-- LEASE_EXPIRY (R103): a lock whose timer has run out is taken from its holder; where no expiry is due nothing changes (log 5).
LOCK_FREE (R105): the same at P0's command, with FORCED in the detail; of a FREE lock nothing. A port is told by LOCK-LOST, and
the lock is released (R101): FREE, or handed to the head of its queue, a port, which is told by LOCK-GRANT, or a channel, which
enters RUN (R109). A channel that loses it stops with LEASE_LOST (R103), after the release; while that stop is pending the
LOCK_FREE write is held, and completes with the stop (R4, R132, log 20; EndOfRun). LOCK_HANDOVER hands a lock without a holder to
the head of its queue, and does nothing to a held lock (log 7). -/
def Obligations.LocksForced : Prop :=
  ∀ (s : State) (l : LockId),
    (s.locks[l].timer ≠ some 0 ∨ s.locks[l].holder = none → exec (.leaseExpiry l) s = .next s) ∧
    (∀ q : PortId, s.locks[l].timer = some 0 → s.locks[l].holder = some (.port q) →
      exec (.leaseExpiry l) s = .next ((s.deliver q .lockLost (BitVec.ofNat 16 l.val)).released l)) ∧
    (∀ c : ChanId, s.locks[l].timer = some 0 → s.locks[l].holder = some (.chan c) →
      exec (.leaseExpiry l) s = .next ((s.released l).stopChan c .leaseLost)) ∧
    (s.locks[l].holder.isSome = true → exec (.lockHandover l) s = .next s) ∧
    (s.locks[l].holder = none → exec (.lockHandover l) s = .next (s.released l)) ∧
    (s.ready 0 →
      (s.locks[l].holder = none → exec (.lockFree 0 l) s = .next (s.written 0)) ∧
      (∀ q : PortId, s.locks[l].holder = some (.port q) → exec (.lockFree 0 l) s =
        .next (((s.deliver q .lockLost (BitVec.ofNat 16 (l.val + 32768))).released l).written 0)) ∧
      (∀ c : ChanId, s.locks[l].holder = some (.chan c) →
        (s.chans[c].state = .idle ∨ s.chans[c].stopPending.isSome = true ∨ s.chanPresented c = false →
          exec (.lockFree 0 l) s = .next (((s.released l).stopChan c .leaseLost).written 0)) ∧
        (s.chans[c].state ≠ .idle → s.chans[c].stopPending = none → s.chanPresented c = true →
          exec (.lockFree 0 l) s = .next (((s.released l).stopChan c .leaseLost).modPort 0 fun pt =>
            pt.holding .write 0x3FDFD#18 (BitVec.ofNat 16 (0x300 + l.val)) (.lockFree c)))))

/-- RING_RESET (R88, R89, R90): of a disabled ring nothing. An enabled ring has no entry and no assembly afterwards, its stall
queue is empty, each stalled port's cycle, and that of an opened post awaiting issue (R76), has ended refused with RING_RESET, the
access in flight goes on without an assembly, the hold list is kept item by item, the record is as it was, and the CONTROL write
has ended. Every channel that stands in the stall queue, and a FEED channel that owned the post assembly, has stopped at once, with
RING_RESET or the status of a stop that was pending (R131, R133), also where it runs another descriptor and is there through a post
of an earlier run; every other channel, such as an owner that runs another operation, keeps its last status and stays IDLE, or in
its run (the model's choice: log 32). What a stopped channel has at the arbiter or the memory port is discarded, and its posts at
the rings are kept and no longer count (log 24); a ring with no assembly of such a channel changes in nothing else. Where an
assembly alone stops the channel the whole state is given: its lock is given up and CHAN-DONE delivered (R110, R132, R134). -/
def Obligations.RingResetCommand : Prop :=
  ∀ (s : State) (r : RingId), s.ready 0 →
    (s.recs[r].enable = false → exec (.ringReset 0 r) s = .next (s.written 0)) ∧
    (s.recs[r].enable = true → ∃ t : State, exec (.ringReset 0 r) s = .next t ∧
      t.rings[r] = s.ringAfterReset r ∧
      (∀ k : RingId, k ≠ r →
        (∀ (m : PostAsm) (c : ChanId), s.rings[k].postAsm = some m → m.owner = .chan c → s.haltedBy r c = false) →
        t.rings[k] = s.ringBeside r k) ∧
      t.recs = s.recs ∧ t.ports[(0 : PortId)].cycle = none ∧ t.ports[(0 : PortId)].last = some .write ∧
      (∀ (q : PortId) (c : Cycle), q ≠ 0 → s.ports[q].cycle = some c → c.dir = .write →
        ((∃ e ∈ s.rings[r].stall, e.post.who = .port q) ∨ ∃ e, s.rings[r].awaiting = some e ∧ e.who = .port q) →
        t.ports[q].cycle = none ∧ t.ports[q].last = some .write ∧
          t.ports[q].refusal = some (match s.ports[q].refusal with
            | none => { addr := c.addr, kind := .write, reason := .ringReset, further := false }
            | some o => { o with further := true })) ∧
      (∀ c : ChanId, s.haltedBy r c = true →
        t.chans[c] = (s.chans[c]).over (match s.chans[c].stopPending with | some st => st | none => .ringReset) ∧
        (∀ (q : Request) (y : ChanStep), s.reqs[(4 : Fin 5)] = some q → q.issuer = .chan c y →
          t.reqs[(4 : Fin 5)] = some { q with abandoned := true }) ∧
        (∀ (x : Access) (y : ChanStep), s.inProg = some x → x.req.issuer = .chan c y →
          t.inProg = some { x with req := { x.req with abandoned := true } })) ∧
      (∀ c : ChanId, s.haltedBy r c = false →
        (t.chans[c].state = .idle ↔ s.chans[c].state = .idle) ∧ t.chans[c].last = s.chans[c].last)) ∧
    (∀ (c : ChanId) (m : PostAsm) (u : State), s.recs[r].enable = true → s.rings[r].stall = [] →
      s.rings[r].awaiting = none → s.rings[r].postAsm = some m → m.owner = .chan c → s.chans[c].state ≠ .idle →
      s.chans[c].desc.op = some .feed →
      (∀ (k : RingId) (j : PostAsm), k ≠ r → s.rings[k].postAsm = some j → j.owner ≠ .chan c) →
      (∀ (q : Request) (y : ChanStep), s.reqs[(4 : Fin 5)] = some q → q.issuer ≠ .chan c y) →
      (∀ (x : Access) (y : ChanStep), s.inProg = some x → x.req.issuer ≠ .chan c y) →
      ∀ st : Status, st = (match s.chans[c].stopPending with | some x => x | none => .ringReset) →
      LeftLock (({ s with rings := s.ringsAfterReset r }).modChan c fun k => k.over st) c u →
      exec (.ringReset 0 r) s = .next ((match s.chans[c].owner with
        | some q => u.deliver q (.chanDone c) (BitVec.ofNat 16 st.code)
        | none => u).written 0))

/-- Teardowns (R177, R178, R179, R63, R92, R111, R135, R172): after DROP_PORT or PORT_RESET of an UP port its cycle is abandoned
(R3), but for a DROP_PORT write of P0 that names P0 (R9), and PD of a completed read is driven no longer (log 21, the model's
choice); it holds nothing, its locks and those of its channels pass to the next claimants with LOCK-GRANT or RUN (R111, R101),
stalled posts open where its assemblies have gone (R92, R76; a ring that has become free goes on: log 16), and other ports' claims
stand; the channels whose runs it owns are stopped with DROPPED, their waiting posts gone at once even where the stop is pending
(log 17), and the shadow, the part's state and the fault record are as they were. While a channel stop is waited for the port
stays DOWN; otherwise PORT_RESET leaves it DOWN and DROP_PORT leaves it UP if its PRSTN is high (log 9). With no run owned and
quiet rings nothing is waited for, and the CONTROL write ends. On a DOWN port both change nothing but the pin, and on an OFF port
PRSTN only changes the pin. -/
def Obligations.Teardowns : Prop :=
  ∀ (s : State) (n : PortId), s.part = .running →
    (s.ready 0 → s.ports[n].state = .down → exec (.dropPort 0 n) s = .next (s.written 0)) ∧
    (s.ports[n].state ≠ .up → exec (.portReset n) s = .next (s.modPort n fun pt => { pt with prstn := false })) ∧
    (∀ u : State, u.part ≠ .running →
      exec (.portReset n) u = .next (u.modPort n fun pt => { pt with prstn := false })) ∧
    (s.ports[n].state = .up →
      (∃ t : State, exec (.portReset n) s = .next t ∧ t.ports[n].state = .down ∧ t.ports[n].prstn = false ∧
        TornDown s n t ∧ CycleAbandoned s n t ∧
        (s.quietFor n → t.ports[n].teardown = none)) ∧
      (s.ready 0 → ∃ t : State, exec (.dropPort 0 n) s = .next t ∧
        t.ports[n].state =
          (if t.ports[n].teardown = none ∧ s.ports[n].prstn = true then PortState.up else PortState.down) ∧
        TornDown s n t ∧ (n ≠ 0 → CycleAbandoned s n t) ∧
        (s.quietFor n → t.ports[n].teardown = none ∧ t.ports[(0 : PortId)].cycle = none ∧
          t.ports[(0 : PortId)].last = some (if n = 0 ∧ s.ports[n].prstn = false then .abandoned else .write))))

/-- TEARDOWN_COMPLETE (R178, R179, R9): where a channel stop is still waited for, nothing; otherwise the port goes UP if its PRSTN
is high (log 9), and the DROP_PORT write that waits for it completes, or is abandoned where P0 has dropped itself and its PRSTN is
low; without a teardown it is no event (log 6). PORT_UP (R177, R172): a DOWN port goes UP while RUNNING; otherwise only the pin
changes, and during a teardown the port stays DOWN until it is complete (log 9). -/
def Obligations.PortsComeUp : Prop :=
  ∀ (s : State) (p : PortId),
    (s.ports[p].teardown = none ∨ (∃ c : ChanId, s.chans[c].owner = some p ∧ s.chans[c].stopPending.isSome = true) →
      exec (.teardownComplete p) s = .next s) ∧
    (s.ports[p].teardown.isSome = true → (∀ c : ChanId, s.chans[c].owner = some p → s.chans[c].stopPending = none) →
      ((∀ c : Cycle, s.ports[(0 : PortId)].cycle = some c → c.wait ≠ .control p) →
        exec (.teardownComplete p) s = .next (s.modPort p fun pt =>
          { pt with teardown := none, state := if pt.prstn then .up else .down })) ∧
      (∀ c : Cycle, p ≠ 0 → s.ports[(0 : PortId)].cycle = some c → c.wait = .control p →
        s.ports[(0 : PortId)].state = .up →
        exec (.teardownComplete p) s = .next ((s.modPort p fun pt =>
          { pt with teardown := none, state := if pt.prstn then .up else .down }).written 0)) ∧
      (∀ c : Cycle, p = 0 → s.ports[p].cycle = some c → c.wait = .control p →
        (s.ports[p].prstn = true → exec (.teardownComplete p) s = .next ((s.modPort p fun pt =>
          { pt with teardown := none, state := .up }).written p)) ∧
        (s.ports[p].prstn = false → exec (.teardownComplete p) s = .next { (s.modPort p fun pt =>
          { pt with teardown := none, state := .down, cycle := none, pd := none, last := some .abandoned }) with
            reqs := upd s.reqs (reqOfPort p) fun _ => none
            inProg := s.inProg.map fun x =>
              if x.req.code = p.val then { x with req := { x.req with abandoned := true } } else x }))) ∧
    (s.part = .running → s.ports[p].state = .down → s.ports[p].teardown = none →
      exec (.portUp p) s = .next (s.modPort p fun pt => { pt with prstn := true, state := .up })) ∧
    ((s.part ≠ .running ∨ s.ports[p].state ≠ .down ∨ s.ports[p].teardown.isSome = true) →
      exec (.portUp p) s = .next (s.modPort p fun pt => { pt with prstn := true }))

/-! ## Table area -/

/-- What a word of the table area does when P0 writes it or the sweep reads it (R152, R175), but for the commits: HEADER_WRITE
(R153) and LEASE_WRITE (R162) take effect at once, WINDOW_DATA_WRITE (R155) and RING_DATA_WRITE (R159) are staged, and the other
words are memory alone. BINDING_WRITE (R163, R59, R60, R165): unbound is accepted; a kind above 12 is rejected with BAD_SOURCE, an
index out of the kind's range with BAD_INDEX, a source that another slot of the port holds with DUPLICATE; an accepted binding
leaves the slot if it is unchanged and otherwise discards the notice, and a rejected one leaves the slot unbound and delivers
TABLE. P0's write is taken up so and becomes a memory write of the same word (R10, R152). -/
def Obligations.TableWordWrites : Prop :=
  (∀ (s : State) (v : Word),
    (∀ n : Fin 4, s.applyTable (.header n) v = { s with header := upd s.header n fun _ => v }) ∧
    (∀ l : LockId, s.applyTable (.lease l) v = { s with leases := upd s.leases l fun _ => v }) ∧
    (∀ (w : WinId) (k : Fin 3), s.applyTable (.winData w k) v =
      s.modWin w fun e => { e with staged := upd e.staged k fun _ => some v }) ∧
    (∀ (r : RingId) (k : Fin 7), s.applyTable (.ringData r k) v =
      s.modRec r fun e => { e with staged := upd e.staged k fun _ => some v }) ∧
    s.applyTable .plain v = s ∧
    (∀ (q : PortId) (i : SlotId),
      (bindingOf v = .ok none → s.applyTable (.binding q i) v = s.modCtl q fun k => { k with slots := upd k.slots i fun x =>
        if x.binding = none then x else { binding := none, notice := none } }) ∧
      (∀ b : Binding, bindingOf v = .ok (some b) →
        (∀ (j : SlotId) (c : Binding), j ≠ i → s.ctls[q].slots[j].binding = some c → c.source ≠ b.source) →
        s.applyTable (.binding q i) v = s.modCtl q fun k => { k with
          slots := upd k.slots i fun x => if x.binding = some b then x else { binding := some b, notice := none } }) ∧
      (∀ x : TableReason, (bindingOf v = .error x ∨ x = .duplicate ∧ ∃ (b : Binding) (j : SlotId) (c : Binding),
          bindingOf v = .ok (some b) ∧ j ≠ i ∧ s.ctls[q].slots[j].binding = some c ∧ c.source = b.source) →
        s.applyTable (.binding q i) v = (s.modCtl q fun k => { k with slots := upd k.slots i fun y =>
          if y.binding = none then y else { binding := none, notice := none } }).deliver 0 .table
            (BitVec.ofNat 16 (0xE0 + 16 * q.val + i.val + 4096 * x.code))))) ∧
  (∀ v : Word,
    (v.toNat / 256 % 16 = 0 → bindingOf v = .ok none) ∧
    (12 < v.toNat / 256 % 16 → bindingOf v = .error .badSource) ∧
    (∀ (src : Source) (l : Level), l.val = v.toNat / 4096 % 4 →
      ((∃ w : WinId, v.toNat / 256 % 16 = 1 ∧ v.toNat % 32 = w.val ∧ src = .watch w) ∨
       (∃ r : RingId, v.toNat / 256 % 16 = 2 ∧ v.toNat % 32 = r.val ∧ src = .ringData r) ∨
       (∃ r : RingId, v.toNat / 256 % 16 = 3 ∧ v.toNat % 32 = r.val ∧ src = .ringSpace r) ∨
       (∃ r : RingId, v.toNat / 256 % 16 = 4 ∧ v.toNat % 32 = r.val ∧ src = .ringFault r) ∨
       (v.toNat / 256 % 16 = 5 ∧ v.toNat % 32 = 0 ∧ src = .lockGrant) ∨
       (v.toNat / 256 % 16 = 6 ∧ v.toNat % 32 = 0 ∧ src = .lockLost) ∨
       (∃ c : ChanId, v.toNat / 256 % 16 = 7 ∧ v.toNat % 32 = c.val ∧ src = .chanDone c) ∨
       (∃ c : ChanId, v.toNat / 256 % 16 = 8 ∧ v.toNat % 32 = c.val ∧ src = .chanMark c) ∨
       (∃ p : PortId, v.toNat / 256 % 16 = 9 ∧ v.toNat % 32 = p.val ∧ src = .signal p) ∨
       (v.toNat / 256 % 16 = 10 ∧ v.toNat % 32 = 0 ∧ src = .refusal) ∨
       (v.toNat / 256 % 16 = 11 ∧ v.toNat % 32 = 0 ∧ src = .parity) ∨
       (v.toNat / 256 % 16 = 12 ∧ v.toNat % 32 = 0 ∧ src = .table)) →
      bindingOf v = .ok (some { source := src, level := l })) ∧
    (∀ b : Binding, bindingOf v = .ok (some b) → b.source.code = v.toNat / 256 % 16 ∧ b.level.val = v.toNat / 4096 % 4) ∧
    (bindingOf v = .error .badIndex ↔
      v.toNat / 256 % 16 ∈ [2, 3, 4] ∧ 8 ≤ v.toNat % 32 ∨ v.toNat / 256 % 16 ∈ [7, 8, 9] ∧ 4 ≤ v.toNat % 32 ∨
        v.toNat / 256 % 16 ∈ [5, 6, 10, 11, 12] ∧ 1 ≤ v.toNat % 32)) ∧
  (∀ (s : State) (v : Word) (a : Addr), s.ready 0 →
    (∀ n : Fin 4, a = BitVec.ofNat 18 (0x3FE00 + n.val) → exec (.headerWrite n v) s =
      .next ((s.applyTable (.header n) v).requested 0 .write a v .memory (portRequest 0 (.write v) a none))) ∧
    (∀ l : LockId, a = BitVec.ofNat 18 (0x3FED0 + l.val) → exec (.leaseWrite l v) s =
      .next ((s.applyTable (.lease l) v).requested 0 .write a v .memory (portRequest 0 (.write v) a none))) ∧
    (∀ (w : WinId) (k : Fin 3), a = BitVec.ofNat 18 (0x3FE10 + 4 * w.val + k.val) → exec (.windowDataWrite w k v) s =
      .next ((s.applyTable (.winData w k) v).requested 0 .write a v .memory (portRequest 0 (.write v) a none))) ∧
    (∀ (r : RingId) (k : Fin 7), a = BitVec.ofNat 18 (0x3FE90 + 8 * r.val + k.val) → exec (.ringDataWrite r k v) s =
      .next ((s.applyTable (.ringData r k) v).requested 0 .write a v .memory (portRequest 0 (.write v) a none))) ∧
    (∀ (q : PortId) (i : SlotId), a = BitVec.ofNat 18 (0x3FEE0 + 16 * q.val + i.val) → exec (.bindingWrite q i v) s =
      .next ((s.applyTable (.binding q i) v).requested 0 .write a v .memory (portRequest 0 (.write v) a none)))) ∧
  ((∀ n : Fin 4, tableWordOf n.val = .header n) ∧ (∀ l : LockId, tableWordOf (0xD0 + l.val) = .lease l) ∧
    (∀ (w : WinId) (k : Fin 3), tableWordOf (0x10 + 4 * w.val + k.val) = .winData w k) ∧
    (∀ w : WinId, tableWordOf (0x13 + 4 * w.val) = .winCtl w) ∧
    (∀ (r : RingId) (k : Fin 7), tableWordOf (0x90 + 8 * r.val + k.val) = .ringData r k) ∧
    (∀ r : RingId, tableWordOf (0x97 + 8 * r.val) = .ringCtl r) ∧
    (∀ (q : PortId) (i : SlotId), tableWordOf (0xE0 + 16 * q.val + i.val) = .binding q i) ∧
    (∀ n : Nat, 4 ≤ n ∧ n < 16 ∨ 0x120 ≤ n → tableWordOf n = .plain))

/-- WINDOW_COMMIT (R156, R165): the candidate is the staged words over the live ones with the written control word; kind NONE makes
the entry INVALID (its control fields: log 25), an accepted candidate becomes the VALID live part, and a rejected one leaves the
live part and delivers TABLE to P0; the staged part is emptied in each case. A commit of an entry that a sweep read damaged is
rejected with PARITY (R167; kind NONE too: log 25) and clears the mark. The sweep takes the word up in the same way (R175); P0's
write becomes a memory write besides. -/
def Obligations.WindowCommit : Prop :=
  ∀ (s : State) (w : WinId) (v : Word) (d : Vector Word 3) (a : Addr),
    (∀ k : Fin 3, d[k] = match s.windows[w].staged[k] with | some x => x | none => s.windows[w].data[k]) →
    a = BitVec.ofNat 18 (0x3FE13 + 4 * w.val) →
    (s.windows[w].damaged = false → v.toNat % 8 = 0 → s.applyTable (.winCtl w) v =
      s.modWin w fun _ => { valid := false, data := d, ctl := winCtlOf v, staged := Vector.replicate 3 none,
                            damaged := false }) ∧
    (s.windows[w].damaged = false → v.toNat % 8 ≠ 0 → s.winReject w d (winCtlOf v) = none →
      s.applyTable (.winCtl w) v =
        s.modWin w fun _ => { valid := true, data := d, ctl := winCtlOf v, staged := Vector.replicate 3 none,
                              damaged := false }) ∧
    (∀ x : TableReason, (s.windows[w].damaged = false ∧ v.toNat % 8 ≠ 0 ∧ s.winReject w d (winCtlOf v) = some x ∨
        s.windows[w].damaged = true ∧ x = .parity) →
      s.applyTable (.winCtl w) v = (s.modWin w fun e => { e with staged := Vector.replicate 3 none, damaged := false }).deliver
        0 .table (BitVec.ofNat 16 (0x13 + 4 * w.val + 4096 * x.code))) ∧
    (s.ready 0 → exec (.windowCommit w v) s = .next ((s.applyTable (.winCtl w) v).requested 0 .write a v .memory
      (portRequest 0 (.write v) a none)))

/-- The checks of a window candidate in their order (R157, R158, Table 9-2).
The checks of a ring candidate in their order (R160). -/
def Obligations.CandidateChecks : Prop :=
  (∀ (s : State) (w : WinId) (d : Vector Word 3) (c : WinCtl) (base len link count kind : Nat),
     base = (d[(2 : Fin 3)]).toNat % 4 * 65536 + (d[(0 : Fin 3)]).toNat →
     len = (if (d[(1 : Fin 3)]).toNat = 0 then 65536 else (d[(1 : Fin 3)]).toNat) →
     link = c.link.toNat → count = c.count.toNat → kind = c.kind.toNat →
     s.winReject w d c =
       (if kind = 0 ∨ 6 ≤ kind then some .badKind
        else if kind = 2 ∧ c.changedOnly = true ∧ c.onWrite = false then some .badFlags
        else if kind = 3 ∧ ¬(len = 2 ∧ link < 8) ∨
           kind = 4 ∧ ¬(1 ≤ count ∧ count ≤ 16 ∧ len = 2 * count ∧ link + count ≤ 16) ∨
           kind = 5 ∧ ¬(1 ≤ count ∧ count ≤ 4 ∧ len = 8 * count ∧ link + count ≤ 4) then some .badShape
        else if 0x3FDF0 < base + len then some .outOfSpan
        else if (∃ v : WinId, v ≠ w ∧ s.windows[v].valid = true ∧ base < winBase s.windows[v].data + winLen s.windows[v].data ∧
             winBase s.windows[v].data < base + len) ∨
           (∃ r : RingId, s.recs[r].enable = true ∧ 0 < s.recs[r].capacity * s.recs[r].entrySize ∧
             base < s.recs[r].base + s.recs[r].capacity * s.recs[r].entrySize ∧ s.recs[r].base < base + len) then
         some .overlap
        else if ∃ v : WinId, v ≠ w ∧ s.windows[v].valid = true ∧ s.windows[v].ctl.kind.toNat = kind ∧
           (kind = 3 ∧ s.windows[v].ctl.link.toNat = link ∨
            (kind = 4 ∨ kind = 5) ∧ 0 < s.windows[v].ctl.count.toNat ∧
              link < s.windows[v].ctl.link.toNat + s.windows[v].ctl.count.toNat ∧
              s.windows[v].ctl.link.toNat < link + count) then some .alreadyMapped
        else none)) ∧
  (∀ (s : State) (r : RingId) (d : Vector Word 7) (base size cap mark limit policy : Nat),
     base = (d[(1 : Fin 7)]).toNat % 4 * 65536 + (d[(0 : Fin 7)]).toNat → size = (d[(1 : Fin 7)]).toNat / 16 % 8 →
     cap = (d[(2 : Fin 7)]).toNat → mark = (d[(3 : Fin 7)]).toNat → limit = (d[(4 : Fin 7)]).toNat →
     policy = (d[(5 : Fin 7)]).toNat % 4 →
     s.ringReject r d =
       (if ¬(1 ≤ size ∧ size ≤ 4 ∧ 1 ≤ cap ∧ cap ≤ 4096 ∧ 1 ≤ mark ∧ mark ≤ cap ∧ 1 ≤ limit ∧ policy ≤ 1) then
         some .badShape
        else if 0x3FDF0 < base + cap * size then some .outOfSpan
        else if (∃ v : WinId, s.windows[v].valid = true ∧ base < winBase s.windows[v].data + winLen s.windows[v].data ∧
             winBase s.windows[v].data < base + cap * size) ∨
           (∃ q : RingId, q ≠ r ∧ s.recs[q].enable = true ∧ 0 < s.recs[q].capacity * s.recs[q].entrySize ∧
             base < s.recs[q].base + s.recs[q].capacity * s.recs[q].entrySize ∧ s.recs[q].base < base + cap * size) then
         some .overlap
        else none))

/-- RING_COMMIT (R159, R160, R91, R165): with enable 0, or with a candidate that passes, the ring is reset and the candidate
installed; a candidate that fails leaves the ring and its configuration and delivers TABLE to P0, and so does the commit of a
record that a sweep read damaged, with PARITY (R167; enable 0 too: log 25), which clears the mark; the staged part is emptied in
each case, and the word goes to memory. The reset of an enabled ring is that of RING_RESET, FEED channels and stalled ports
included (R89); here no post of P0 itself waits at the ring. In the sweep nothing waits, and the record alone changes. -/
def Obligations.RingCommit : Prop :=
  ∀ (s : State) (r : RingId) (v : Word) (d : Vector Word 7) (a : Addr),
    (∀ k : Fin 7, d[k] = match s.recs[r].staged[k] with | some x => x | none => s.recs[r].data[k]) →
    a = BitVec.ofNat 18 (0x3FE97 + 8 * r.val) →
    (s.recs[r].damaged = false → (v.getLsbD 0 = false ∨ s.ringReject r d = none) →
      (s.ready 0 → ∃ t : State, exec (.ringCommit r v) s = .next t ∧
        t.recs = (upd s.recs r fun _ => { data := d, enable := v.getLsbD 0, staged := Vector.replicate 7 none,
                                          damaged := false }) ∧
        t.rings[r].head = 0 ∧ t.rings[r].tail = 0 ∧ t.rings[r].count = 0 ∧ t.rings[r].postAsm = none ∧
        t.rings[r].takeAsm = none ∧ t.rings[r].stall = [] ∧ t.windows = s.windows ∧
        t.reqs[(0 : Fin 5)] = some (portRequest 0 (.write v) a none)) ∧
      (s.ready 0 → s.recs[r].enable = true → (∀ e ∈ s.rings[r].stall, e.post.who ≠ .port 0) →
        (∀ e : Post, s.rings[r].awaiting = some e → e.who ≠ .port 0) →
        ∀ t : State, exec (.ringReset 0 r) s = .next t → exec (.ringCommit r v) s =
          .next ((({ t with ports := upd t.ports 0 fun _ => s.ports[(0 : PortId)] }).modRec r fun _ =>
            { data := d, enable := v.getLsbD 0, staged := Vector.replicate 7 none, damaged := false }).requested 0 .write a v
              .memory (portRequest 0 (.write v) a none))) ∧
      (s.rings[r] = Ring.reset → s.applyTable (.ringCtl r) v = s.modRec r fun _ =>
        { data := d, enable := v.getLsbD 0, staged := Vector.replicate 7 none, damaged := false })) ∧
    (∀ x : TableReason, (s.recs[r].damaged = false ∧ v.getLsbD 0 = true ∧ s.ringReject r d = some x ∨
        s.recs[r].damaged = true ∧ x = .parity) →
      s.applyTable (.ringCtl r) v = (s.modRec r fun e => { e with staged := Vector.replicate 7 none, damaged := false }).deliver
        0 .table (BitVec.ofNat 16 (0x97 + 8 * r.val + 4096 * x.code)) ∧
      (s.ready 0 → exec (.ringCommit r v) s = .next ((s.applyTable (.ringCtl r) v).requested 0 .write a v .memory
        (portRequest 0 (.write v) a none))))

/-! ## Rings -/

/-- RING_POST (R68 to R71, R73, R74, R82, R84): held behind an access in flight, refused at a disabled ring, issued as a later word
of the own assembly or as the first word of an entry that opens, refused with RING_FULL (with RING-FAULT) or RING_ASSEMBLY under
REFUSE, stalled under STALL. -/
def Obligations.PostOutcomes : Prop :=
  ∀ (s : State) (p : PortId) (a : Addr) (v : Word) (w : WinId) (r : RingId) (q : Post), s.ready p →
    s.atRing p .write a w r 0 → q = { who := .port p, word := v, live := true } →
    (s.rings[r].inFlight.isSome = true → exec (.ringPost p a v) s =
      .next ((s.modPort p fun pt => pt.holding .write a v (.ringHold r)).modRing r fun k =>
        { k with hold := k.hold ++ [.post q] })) ∧
    (s.rings[r].inFlight = none →
      (s.recs[r].enable = false → exec (.ringPost p a v) s = .next (s.refusedOn p .write a .ringDisabled)) ∧
      (s.recs[r].enable = true →
        (∀ (m : PostAsm) (x : Addr), s.rings[r].postAsm = some m → m.owner = .port p →
          x = s.recs[r].wordAddr s.rings[r].tail m.words → exec (.ringPost p a v) s =
            .next ((s.requested p .write a v (.ringAccess r)
              { kind := .write v, addr := x, code := p.val, issuer := .ring r, watch := none, abandoned := false }).modRing r
                fun k => { k with
                  inFlight := some { post := q, dir := .write, addr := x, attached := true, presented := true,
                                     leaving := false } })) ∧
        (∀ x : Addr, s.rings[r].postAsm = none → s.rings[r].count < s.recs[r].capacity →
          x = s.recs[r].wordAddr s.rings[r].tail 0 → exec (.ringPost p a v) s =
            .next ((s.requested p .write a v (.ringAccess r)
              { kind := .write v, addr := x, code := p.val, issuer := .ring r, watch := none, abandoned := false }).modRing r
                fun k => { k with
                  postAsm := some { owner := .port p, words := 0 }
                  inFlight := some { post := q, dir := .write, addr := x, attached := true, presented := true,
                                     leaving := false } })) ∧
        ((∀ m : PostAsm, s.rings[r].postAsm = some m → m.owner ≠ .port p) →
          (s.rings[r].postAsm.isSome = true ∨ s.recs[r].capacity ≤ s.rings[r].count) →
          (s.recs[r].policy = 0 → s.rings[r].count = s.recs[r].capacity → exec (.ringPost p a v) s =
            .next ((s.deliver s.recs[r].producer (.ringFault r) (BitVec.ofNat 16 p.val)).refusedOn p .write a .ringFull)) ∧
          (s.recs[r].policy = 0 → s.rings[r].count < s.recs[r].capacity →
            exec (.ringPost p a v) s = .next (s.refusedOn p .write a .ringAssembly)) ∧
          (s.recs[r].policy = 1 → exec (.ringPost p a v) s =
            .next ((s.modPort p fun pt => pt.holding .write a v (.ringStall r)).modRing r fun k => { k with
              stall := (k.stall.filter fun e => decide (e.post.who ≠ .port p)) ++
                [{ post := q, ticks := some (s.recs[r].data[(4 : Fin 7)]).toNat }] })))))

/-- RING_TAKE (R68, R69, R79, R82) and FREE_COUNT_READ (R81, R82): a take is held, refused with RING_DISABLED, RING_EMPTY or
RING_ASSEMBLY, or reads the next word of the head entry; the free count is answered at once. -/
def Obligations.TakeOutcomes : Prop :=
  ∀ (s : State) (p : PortId) (a : Addr) (w : WinId) (r : RingId), s.ready p →
    (s.atRing p .read a w r 1 →
      (s.rings[r].inFlight.isSome = true → exec (.ringTake p a) s =
        .next ((s.modPort p fun pt => pt.holding .read a 0 (.ringHold r)).modRing r fun k =>
          { k with hold := k.hold ++ [.take p] })) ∧
      (s.rings[r].inFlight = none →
        (s.recs[r].enable = false → exec (.ringTake p a) s = .next (s.refusedOn p .read a .ringDisabled)) ∧
        (s.recs[r].enable = true → s.rings[r].count = 0 →
          exec (.ringTake p a) s = .next (s.refusedOn p .read a .ringEmpty)) ∧
        (∀ m : TakeAsm, s.recs[r].enable = true → 0 < s.rings[r].count → s.rings[r].takeAsm = some m → m.owner ≠ p →
          exec (.ringTake p a) s = .next (s.refusedOn p .read a .ringAssembly)) ∧
        (∀ (n : Nat) (x : Addr), s.recs[r].enable = true → 0 < s.rings[r].count →
          (s.rings[r].takeAsm = none ∧ n = 0 ∨ s.rings[r].takeAsm = some { owner := p, words := n }) →
          x = s.recs[r].wordAddr s.rings[r].head n → exec (.ringTake p a) s =
            .next ((s.requested p .read a 0 (.ringAccess r)
              { kind := .read, addr := x, code := p.val, issuer := .ring r, watch := none, abandoned := false }).modRing r
                fun k => { k with
                  takeAsm := some { owner := p, words := n }
                  inFlight := some { post := { who := .port p, word := 0, live := true }, dir := .read, addr := x,
                                     attached := true, presented := true, leaving := false } })))) ∧
    (s.atRing p .read a w r 0 →
      (s.recs[r].enable = false → exec (.freeCountRead p a) s = .next (s.refusedOn p .read a .ringDisabled)) ∧
      (s.recs[r].enable = true → exec (.freeCountRead p a) s = .next (s.answered p
        (BitVec.ofNat 16 (s.recs[r].capacity - s.rings[r].count - if s.rings[r].postAsm.isSome then 1 else 0)))))

/-- A port's redirected access completes (R70 to R72, R79, R80, R83, R84): a word that does not end its entry is counted; the last
word of a post makes the entry whole, and the last word of a take takes it, with RING-SPACE to the producer where the ring was
full; a take's parity error is reported, and its data stand (R143, R145). Then the head of the stall queue opens where it can
(R76, as STALLED_POST_OPEN), the port's cycle completes, and the awaiting post and the hold list are taken up (R68, as
HOLD_LIST_TAKE_UP). Where nothing waits the whole state is given. -/
def Obligations.RingAccessCompletes : Prop :=
  (∀ (s t : State) (x : Access) (r : RingId) (f : InFlight) (p : PortId) (c : Cycle), s.inProg = some x →
    x.req.issuer = .ring r → x.req.abandoned = false → s.rings[r].inFlight = some f → f.post.who = .port p →
    f.attached = true → s.ports[p].cycle = some c →
    (∀ (v : Word) (m : PostAsm), WriteJudged s x v t → f.dir = .write → s.rings[r].postAsm = some m →
      (m.words + 1 = s.recs[r].entrySize → ∀ u : State,
        exec (.stalledPostOpen r) (t.modRing r fun k => { k with
          postAsm := none
          inFlight := none
          tail := if k.tail + 1 = s.recs[r].capacity then 0 else k.tail + 1
          count := k.count + 1 }) = .next u →
        exec (.memoryAccessComplete 0) s = exec (.holdListTakeUp r) (u.modPort p fun pt =>
          { pt with cycle := none, last := some .write, pd := none })) ∧
      (m.words + 1 ≠ s.recs[r].entrySize → exec (.memoryAccessComplete 0) s =
        exec (.holdListTakeUp r) ((t.modRing r fun k => { k with
          postAsm := some { m with words := m.words + 1 }
          inFlight := none }).modPort p fun pt => { pt with cycle := none, last := some .write, pd := none }))) ∧
    (∀ m : TakeAsm, ReadJudged s x t → f.dir = .read → s.rings[r].takeAsm = some m →
      (m.words + 1 = s.recs[r].entrySize → ∀ u : State,
        exec (.stalledPostOpen r) ((if s.rings[r].count = s.recs[r].capacity then
            t.deliver s.recs[r].producer (.ringSpace r) (BitVec.ofNat 16 r.val) else t).modRing r fun k => { k with
          takeAsm := none
          inFlight := none
          head := if k.head + 1 = s.recs[r].capacity then 0 else k.head + 1
          count := k.count - 1 }) = .next u →
        exec (.memoryAccessComplete 0) s = exec (.holdListTakeUp r) (u.modPort p fun pt => { pt with
          cycle := none
          last := some (.read (s.cellAt x.req.addr).word)
          pd := if c.strobe then some (s.cellAt x.req.addr).word else none })) ∧
      (m.words + 1 ≠ s.recs[r].entrySize → exec (.memoryAccessComplete 0) s =
        exec (.holdListTakeUp r) ((t.modRing r fun k => { k with
          takeAsm := some { m with words := m.words + 1 }
          inFlight := none }).modPort p fun pt => { pt with
            cycle := none
            last := some (.read (s.cellAt x.req.addr).word)
            pd := if c.strobe then some (s.cellAt x.req.addr).word else none })))) ∧
  (∀ (s : State) (x : Access) (r : RingId) (f : InFlight) (p : PortId) (c : Cycle) (t : State),
    s.inProg = some x → x.req.issuer = .ring r → x.req.watch = none → x.req.abandoned = false →
    s.rings[r].inFlight = some f → f.post.who = .port p → f.attached = true → s.ports[p].cycle = some c →
    s.rings[r].stall = [] → s.rings[r].hold = [] → s.rings[r].awaiting = none →
    (∀ (v : Word) (m : PostAsm), x.req.kind = .write v → f.dir = .write → s.rings[r].postAsm = some m →
      t = ({ s with inProg := none, mem := Mem.set s.mem x.req.addr.toNat (goodCell v) }).modPort p (fun pt =>
        { pt with cycle := none, last := some .write, pd := none }) →
      (m.words + 1 = s.recs[r].entrySize → exec (.memoryAccessComplete 0) s = .next (t.modRing r fun k => { k with
        postAsm := none
        inFlight := none
        tail := if k.tail + 1 = s.recs[r].capacity then 0 else k.tail + 1
        count := k.count + 1 })) ∧
      (m.words + 1 ≠ s.recs[r].entrySize → exec (.memoryAccessComplete 0) s = .next (t.modRing r fun k => { k with
        postAsm := some { m with words := m.words + 1 }
        inFlight := none }))) ∧
    (∀ m : TakeAsm, x.req.kind = .read → f.dir = .read → s.rings[r].takeAsm = some m →
      (s.cellAt x.req.addr).bad = false →
      t = ({ s with inProg := none }).modPort p (fun pt =>
        { pt with cycle := none, last := some (.read (s.cellAt x.req.addr).word),
                  pd := if c.strobe then some (s.cellAt x.req.addr).word else none }) →
      (m.words + 1 = s.recs[r].entrySize → exec (.memoryAccessComplete 0) s =
        .next ((if s.rings[r].count = s.recs[r].capacity then
          t.deliver s.recs[r].producer (.ringSpace r) (BitVec.ofNat 16 r.val) else t).modRing r fun k => { k with
            takeAsm := none
            inFlight := none
            head := if k.head + 1 = s.recs[r].capacity then 0 else k.head + 1
            count := k.count - 1 })) ∧
      (m.words + 1 ≠ s.recs[r].entrySize → exec (.memoryAccessComplete 0) s = .next (t.modRing r fun k => { k with
        takeAsm := some { m with words := m.words + 1 }
        inFlight := none }))))

/-- HOLD_LIST_TAKE_UP (R68, R76) and STALLED_POST_OPEN (R76, R70), as commands that act where work is left (log 7). With an access
in flight nothing is taken up. An opened post that awaits issue is issued first; else the items of the hold list, posts and takes,
are taken up from the front until one issues an access or the list is empty; at a disabled ring a channel's post stops its channel,
also one that an earlier run left (the model's choice: log 32). The head of the stall queue opens where the opening
condition holds, a channel whose post is of its present run (log 24) returning from STALL to RUN: issued, or awaiting issue while
an access is in flight. STALL_LIMIT_EXPIRY (R77): an entry whose ticks have reached 0 leaves the queue, RING-FAULT goes to the
producer, and the held cycle ends refused with RING_FULL; where no expiry is due nothing changes (log 5). -/
def Obligations.WaitingPosts : Prop :=
  (∀ (s : State) (r : RingId),
     (s.rings[r].inFlight.isSome = true → exec (.holdListTakeUp r) s = .next s) ∧
     (∀ (q : Post) (x : Addr), s.rings[r].inFlight = none → s.rings[r].awaiting = some q →
       x = s.recs[r].wordAddr s.rings[r].tail (match s.rings[r].postAsm with | some m => m.words | none => 0) →
       exec (.holdListTakeUp r) s =
         .next ((s.modRing r fun k => { k with awaiting := none }).postInFlightAt r q x)) ∧
     (s.rings[r].inFlight = none → s.rings[r].awaiting = none → s.rings[r].hold = [] →
       exec (.holdListTakeUp r) s = .next s) ∧
     (∀ (i : HoldItem) (rest : List HoldItem) (t : State), s.rings[r].inFlight = none → s.rings[r].awaiting = none →
       s.rings[r].hold = i :: rest → ItemTakenUp (s.modRing r fun k => { k with hold := rest }) r i t →
       exec (.holdListTakeUp r) s = exec (.holdListTakeUp r) t)) ∧
  (∀ (s : State) (r : RingId),
     ((s.rings[r].stall = [] ∨ s.rings[r].postAsm.isSome = true ∨ s.recs[r].capacity ≤ s.rings[r].count) →
       exec (.stalledPostOpen r) s = .next s) ∧
     (∀ (e : StallEntry) (rest : List StallEntry) (t : State), s.rings[r].stall = e :: rest → s.rings[r].postAsm = none →
       s.rings[r].count < s.recs[r].capacity →
       (∃ u : State, u = (s.modRing r fun k => { k with
           stall := rest
           postAsm := some { owner := e.post.who, words := 0 } }) ∧
         t = match e.post.who with
           | .port _ => u
           | .chan c => u.modChan c fun k => { k with state := if e.post.live ∧ k.state = .stall then .run else k.state }) →
       (s.rings[r].inFlight = none → exec (.stalledPostOpen r) s =
         .next (t.postInFlightAt r e.post (s.recs[r].wordAddr s.rings[r].tail 0))) ∧
       (s.rings[r].inFlight.isSome = true → exec (.stalledPostOpen r) s =
         .next (match e.post.who with
           | .port p => (t.modRing r fun k => { k with awaiting := some e.post }).setWait p (.ringAwait r)
           | .chan _ => t.modRing r fun k => { k with awaiting := some e.post })))) ∧
  (∀ (s : State) (r : RingId) (p : PortId),
     ((∀ e ∈ s.rings[r].stall, e.post.who = .port p → e.ticks ≠ some 0) →
       exec (.stallLimitExpiry r p) s = .next s) ∧
     (∀ c : Cycle, (∃ e ∈ s.rings[r].stall, e.post.who = .port p ∧ e.ticks = some 0) → s.ports[p].cycle = some c →
       exec (.stallLimitExpiry r p) s = .next (((s.modRing r fun k => { k with
         stall := k.stall.filter fun e => decide (¬(e.post.who = .port p ∧ e.ticks = some 0)) }).deliver s.recs[r].producer
           (.ringFault r) (BitVec.ofNat 16 p.val)).refusedHeld p c .ringFull)))

/-! ## Locks -/

/-- LOCK_TRY and LOCK_WAIT (R96, R97, R102): the first line of the table of R97 that describes the lock, with the result word. -/
def Obligations.LockReads : Prop :=
  ∀ (s : State) (p : PortId) (a : Addr) (w : WinId) (l : LockId) (i : Instr) (o : Nat), s.ready p →
    s.atLock p .read a w l o → (i = .lockTry p a ∧ o % 2 = 0 ∨ i = .lockWait p a ∧ o % 2 = 1) →
    (s.locks[l].holder = none → exec i s = .next ((s.modLock l fun k => { k with
      holder := some (.port p)
      timer := if s.leases[l] = 0 then none else some (s.leases[l]).toNat }).answered p
        (BitVec.ofNat 16 (1 + 256 * p.val)))) ∧
    (s.locks[l].holder = some (.port p) → exec i s = .next (s.answered p (BitVec.ofNat 16 (2 + 256 * p.val)))) ∧
    (∀ h : Claimant, s.locks[l].holder = some h → h ≠ .port p →
      (.port p ∈ s.locks[l].waiters → exec i s = .next (s.answered p (BitVec.ofNat 16 (3 + 256 * h.code)))) ∧
      (Claimant.port p ∉ s.locks[l].waiters →
        (i = .lockTry p a → exec i s = .next (s.answered p (BitVec.ofNat 16 (4 + 256 * h.code)))) ∧
        (i = .lockWait p a → s.locks[l].waiters.length < 7 → exec i s =
          .next ((s.modLock l fun k => { k with waiters := k.waiters ++ [.port p] }).answered p
            (BitVec.ofNat 16 (3 + 256 * h.code))))))

/-- R98: a port's wait read that finds the waiter queue full, with seven entries, returns BUSY and leaves the queue unchanged; it
is not a refusal, loads no refusal record and delivers no event. A holder or a queued port gets OWNED or QUEUED from a full
lock. -/
def Obligations.FullQueueIsBusy : Prop :=
  ∀ (s : State) (p : PortId) (a : Addr) (w : WinId) (l : LockId) (o : Nat) (h : Claimant), s.ready p →
    s.atLock p .read a w l o → o % 2 = 1 → s.locks[l].holder = some h → s.locks[l].waiters.length = 7 →
    (h ≠ .port p → Claimant.port p ∉ s.locks[l].waiters →
      exec (.lockWait p a) s = .next (s.answered p (BitVec.ofNat 16 (4 + 256 * h.code)))) ∧
    (h = .port p → exec (.lockWait p a) s = .next (s.answered p (BitVec.ofNat 16 (2 + 256 * h.code)))) ∧
    (h ≠ .port p → .port p ∈ s.locks[l].waiters →
      exec (.lockWait p a) s = .next (s.answered p (BitVec.ofNat 16 (3 + 256 * h.code))))

/-- LOCK_WRITE (R100, R101, R102): a release by the holder frees the lock or hands it to the head of the queue, a waiter's write
cancels its wait, and any other write is refused with LOCK_NOT_HOLDER. -/
def Obligations.LockWrites : Prop :=
  ∀ (s : State) (p : PortId) (a : Addr) (v : Word) (w : WinId) (l : LockId) (o : Nat), s.ready p →
    s.atLock p .write a w l o →
    (s.locks[l].holder = some (.port p) →
      (s.locks[l].waiters = [] → exec (.lockWrite p a v) s =
        .next ((s.modLock l fun k => { k with holder := none, timer := none }).written p)) ∧
      (∀ (q : PortId) (rest : List Claimant), s.locks[l].waiters = .port q :: rest → exec (.lockWrite p a v) s =
        .next (((s.modLock l fun _ => s.lockHeldBy l (.port q) rest).deliver q .lockGrant
          (BitVec.ofNat 16 l.val)).written p)) ∧
      (∀ (c : ChanId) (rest : List Claimant), s.locks[l].waiters = .chan c :: rest → s.chans[c].state = .lockWait →
        exec (.lockWrite p a v) s =
          .next (((s.modLock l fun _ => s.lockHeldBy l (.chan c) rest).modChan c fun k =>
            { k with state := .run }).written p))) ∧
    (∀ h : Claimant, s.locks[l].holder = some h → h ≠ .port p → .port p ∈ s.locks[l].waiters →
      exec (.lockWrite p a v) s = .next ((s.modLock l fun k =>
        { k with waiters := k.waiters.filter fun c => decide (c ≠ .port p) }).written p)) ∧
    (s.locks[l].holder ≠ some (.port p) → (s.locks[l].holder = none ∨ Claimant.port p ∉ s.locks[l].waiters) →
      exec (.lockWrite p a v) s = .next (s.refusedOn p .write a .lockNotHolder))

/-! ## Channels -/

/-- CHANNEL_FIELD_WRITE and the channel words' reads (R115, R116, R117, R182, Table 11-6): a write to words 0 to 6 of an IDLE
channel sets its field and is refused with CHANNEL_BUSY otherwise; a value that is no command is refused with BAD_VALUE; the words
read back as written, of HI the three pairs of bits. The fields behind the words (Table 7-2): SRC-LO, DST-LO, HI with bits 17 and
16 of SRC, DST and LINK, COUNT, DATA, LINK-LO, MODE. -/
def Obligations.ChannelWords : Prop :=
  (∀ (s : State) (p : PortId) (a : Addr) (v : Word) (w : WinId) (c : ChanId) (k : Nat), s.ready p →
    (s.atChan p .write a w c k →
      (k < 7 → s.chans[c].state = .idle → exec (.channelFieldWrite p a v) s =
        .next ((s.modChan c fun x => { x with desc := x.desc.setWord k v }).written p)) ∧
      (k < 7 → s.chans[c].state ≠ .idle →
        exec (.channelFieldWrite p a v) s = .next (s.refusedOn p .write a .channelBusy)) ∧
      (k = 7 → v ≠ 1 → v ≠ 2 → exec (.channelFieldWrite p a v) s = .next (s.refusedOn p .write a .badValue))) ∧
    (s.atChan p .read a w c k →
      exec (.memoryRead p a) s = .next (s.answered p (if k = 7 then s.chans[c].stateWord else s.chans[c].desc.word k)))) ∧
  (∀ (d : Desc) (v : Word) (j k : Fin 7),
    (d.setWord k.val v).word j.val =
      if j = k then (if k = 2 then v &&& 0x0333#16 else v) else d.word j.val) ∧
  (∀ (d : Desc) (v : Word),
    d.setWord 0 v = { d with src := BitVec.ofNat 18 (d.src.toNat / 65536 * 65536 + v.toNat) } ∧
    d.setWord 1 v = { d with dst := BitVec.ofNat 18 (d.dst.toNat / 65536 * 65536 + v.toNat) } ∧
    d.setWord 2 v = { d with
      src := BitVec.ofNat 18 (v.toNat % 4 * 65536 + d.src.toNat % 65536)
      dst := BitVec.ofNat 18 (v.toNat / 16 % 4 * 65536 + d.dst.toNat % 65536)
      link := BitVec.ofNat 18 (v.toNat / 256 % 4 * 65536 + d.link.toNat % 65536) } ∧
    d.setWord 3 v = { d with count := v } ∧ d.setWord 4 v = { d with data := v } ∧
    d.setWord 5 v = { d with link := BitVec.ofNat 18 (d.link.toNat / 65536 * 65536 + v.toNat) } ∧
    d.setWord 6 v = { d with mode := v } ∧
    d.word 0 = BitVec.ofNat 16 d.src.toNat ∧ d.word 1 = BitVec.ofNat 16 d.dst.toNat ∧
    d.word 2 = BitVec.ofNat 16 (d.src.toNat / 65536 + d.dst.toNat / 65536 * 16 + d.link.toNat / 65536 * 256) ∧
    d.word 3 = d.count ∧ d.word 4 = d.data ∧ d.word 5 = BitVec.ofNat 16 d.link.toNat ∧ d.word 6 = d.mode)

/-- CHANNEL_START (R117, R120, R108): CHANNEL_BUSY while not IDLE, CHANNEL_REQUEST where validation fails; otherwise the writing
port becomes the run owner, the run's counters are cleared, and the channel enters RUN, or, where its lock is HELD, the end of the
lock's queue, where a claimant stands at most once (R94), and LOCKWAIT. -/
def Obligations.ChannelStart : Prop :=
  ∀ (s : State) (p : PortId) (a : Addr) (w : WinId) (c : ChanId), s.ready p → s.atChan p .write a w c 7 →
    (s.chans[c].state ≠ .idle → exec (.channelStart p a) s = .next (s.refusedOn p .write a .channelBusy)) ∧
    (s.chans[c].state = .idle →
      (s.descOk p none s.chans[c].desc = false →
        exec (.channelStart p a) s = .next (s.refusedOn p .write a .channelRequest)) ∧
      (s.descOk p none s.chans[c].desc = true →
        (s.chans[c].desc.lock = none → exec (.channelStart p a) s = .next ((s.modChan c fun k => { k with
          owner := some p, descCount := 0, wordsDone := 0, holding := none, fetchBuf := [], state := .run }).written p)) ∧
        (∀ l : LockId, s.chans[c].desc.lock = some l →
          (s.locks[l].holder = none → exec (.channelStart p a) s = .next (((s.modChan c fun k => { k with
            owner := some p, descCount := 0, wordsDone := 0, holding := none, fetchBuf := [], state := .run }).modLock l
              fun k => { k with
                holder := some (.chan c)
                timer := if s.leases[l] = 0 then none else some (s.leases[l]).toNat }).written p)) ∧
          (s.locks[l].holder.isSome = true → exec (.channelStart p a) s = .next (((s.modChan c fun k => { k with
            owner := some p, descCount := 0, wordsDone := 0, holding := none, fetchBuf := [],
            state := .lockWait }).modLock l fun k => { k with
              waiters := if k.holder = some (.chan c) ∨ .chan c ∈ k.waiters then k.waiters
                else k.waiters ++ [.chan c] }).written p)))))

/-- Start validation (R118), check by check: the operation code and mark code of MODE (Table 11-7); the ranges of Table 7-3 for each
operation, and the descriptor's own range under the link flag, each with the right that it needs, in the span, apart from ring
storage and from windows of other kinds than PLAIN and WATCH; a FEED channel's ring enabled, its entry size a divisor of the
length, and the post right over it: the write set of the RING window that maps it, or P0 where none does or header enable is 0; and
a place in the queue of the lock, unless the channel holds the lock that the descriptor names (`held`, R128). -/
def Obligations.StartValidation : Prop :=
  ∀ (s : State) (p : PortId) (held : Option LockId) (d : Desc) (n : Nat),
    n = (if d.count = 0 then 65536 else d.count.toNat) →
    (s.descOk p held d = true ↔
      (1 ≤ d.mode.toNat % 8 ∧ d.mode.toNat % 8 ≤ 5 ∧ d.mode.toNat / 4096 % 8 ≤ 5) ∧
      (d.mode.toNat % 8 = 1 → s.usable p d.src.toNat n .read ∧ s.usable p d.dst.toNat n .write) ∧
      (d.mode.toNat % 8 = 2 → s.usable p d.src.toNat n .read ∧ s.usable p d.dst.toNat n .read) ∧
      (d.mode.toNat % 8 = 3 → s.usable p d.dst.toNat n .write) ∧
      (d.mode.toNat % 8 = 4 → s.usable p d.src.toNat n .read ∧
        (d.mode.getLsbD 5 = false → s.usable p d.dst.toNat 1 .write)) ∧
      (d.mode.toNat % 8 = 5 → s.usable p d.src.toNat n .read ∧ ∃ r : RingId, d.data.toNat = r.val ∧
        s.recs[r].enable = true ∧ n % ((s.recs[r].data[(1 : Fin 7)]).toNat / 16 % 8) = 0 ∧
        ((∃ w : WinId, s.mapsRing w r ∧ (∀ v : WinId, v < w → ¬s.mapsRing v r) ∧
            (s.windows[w].data[(2 : Fin 3)]).getLsbD (8 + p.val) = true) ∨
          (∀ w : WinId, ¬s.mapsRing w r) ∧ p = 0)) ∧
      (d.mode.getLsbD 3 = true → s.usable p d.link.toNat 7 .read) ∧
      (∀ l : LockId, d.mode.getLsbD 4 = true → d.mode.toNat / 256 % 16 = l.val →
        held = some l ∨ s.locks[l].waiters.length < 7))

/-- CHANNEL_ABORT (R117, R130, R131, R132, R134): BAD_VALUE for a port that is neither P0 nor the run owner; else the channel
stops with ABORTED (EndOfRun), and the write completes: nothing of an IDLE channel or one whose stop is pending, a pending stop
while an access is presented, with what waits given up, else the stop at once. STOP_PENDING_COMPLETE (R131): the completion of the
channel's access in progress. A read's data are discarded, with a parity error reported as ever, also those of the descriptor's
last word (log 31); a written word is done first (R121; the moment of a pair's parity report: log 12); then the run ends with the
status, unless something else of the channel is still presented (log 24). With nothing of the channel in progress it ends a run of
which nothing is presented and otherwise waits, and without a pending stop it is no event (log 6). -/
def Obligations.AbortsAndStops : Prop :=
  (∀ (s : State) (p : PortId) (a : Addr) (w : WinId) (c : ChanId), s.ready p → s.atChan p .write a w c 7 →
    (p ≠ 0 → s.chans[c].owner ≠ some p →
      exec (.channelAbort p a) s = .next (s.refusedOn p .write a .badValue)) ∧
    ((p = 0 ∨ s.chans[c].owner = some p) →
      exec (.channelAbort p a) s = .next ((s.stopChan c .aborted).written p) ∧
      (s.chans[c].state = .idle ∨ s.chans[c].stopPending.isSome = true →
        exec (.channelAbort p a) s = .next (s.written p)) ∧
      ((s.chans[c].state = .run ∨ s.chans[c].state = .fetch) → s.chans[c].stopPending = none →
        s.chanPresented c = true →
        (∀ r : RingId, s.chans[c].feedRing = some r → s.rings[r] = (s.rings[r]).withoutPosts c) →
        exec (.channelAbort p a) s =
          .next ((s.modChan c fun k => { k with stopPending := some .aborted }).written p)) ∧
      (∀ q : PortId, s.chans[c].state ≠ .idle → s.chans[c].stopPending = none → s.chanPresented c = false →
        s.chans[c].desc.lock = none → s.chans[c].feedRing = none → s.ownsNone c → s.unawaited c → s.chans[c].owner = some q →
        exec (.channelAbort p a) s = .next (((s.modChan c fun k => { k with
          state := .idle, last := .aborted, holding := none, fetchBuf := [], stopPending := none }).deliver q
            (.chanDone c) 2#16).written p)))) ∧
  (∀ (s : State) (c : ChanId) (u : Upset),
    (s.chans[c].stopPending = none → exec (.stopPendingComplete c u) s = .next s) ∧
    (∀ st : Status, s.chans[c].stopPending = some st →
      (∀ (x : Access) (y : ChanStep), s.inProg = some x → x.req.issuer = .chan c y →
        exec (.stopPendingComplete c u) s = exec (.memoryAccessComplete u) s) ∧
      (∀ (x : Access) (r : RingId) (f : InFlight), s.inProg = some x → x.req.issuer = .ring r →
        s.rings[r].inFlight = some f → f.post.who = .chan c →
        exec (.stopPendingComplete c u) s = exec (.memoryAccessComplete u) s) ∧
      ((∀ (x : Access) (y : ChanStep), s.inProg = some x → x.req.issuer ≠ .chan c y) →
        (∀ (x : Access) (r : RingId) (f : InFlight), s.inProg = some x → x.req.issuer = .ring r →
          s.rings[r].inFlight = some f → f.post.who ≠ .chan c) →
        exec (.stopPendingComplete c u) s = .next (if s.chanPresented c then s else s.endRun c st)))) ∧
  (∀ (s t : State) (c : ChanId) (st : Status) (x : Access) (y : ChanStep), s.chans[c].stopPending = some st →
    s.inProg = some x → x.req.issuer = .chan c y → x.req.abandoned = false →
    ((y = .srcRead ∨ y = .dstRead ∨ y = .fetchRead) → ReadJudged s x t →
      exec (.stopPendingComplete c 0) s = .next (if t.chanPresented c then t else t.endRun c st)) ∧
    (∀ (v : Word) (u : Upset), y = .dstWrite → WriteJudged s x v t →
      exec (.stopPendingComplete c u) s = .next (t.wordDone c v)) ∧
    (∀ (v : Word) (u : Upset), y = .sumWrite → WriteJudged s x v t →
      exec (.stopPendingComplete c u) s = .next (if t.chanPresented c then t else t.endRun c st))) ∧
  (∀ (s : State) (c : ChanId) (st : Status) (x : Access) (y : ChanStep) (q : PortId), s.chans[c].stopPending = some st →
    s.inProg = some x → x.req.issuer = .chan c y → (y = .srcRead ∨ y = .dstRead ∨ y = .fetchRead) → x.req.kind = .read →
    x.req.watch = none → x.req.abandoned = false → ({ s with inProg := none }).chanPresented c = false →
    s.chans[c].desc.lock = none → s.chans[c].feedRing = none → s.ownsNone c → s.unawaited c →
    s.chans[c].owner = some q → (s.cellAt x.req.addr).bad = false →
    exec (.stopPendingComplete c 0) s = .next ((({ s with inProg := none }).modChan c fun k => { k with
      state := .idle, last := st, holding := none, fetchBuf := [], stopPending := none }).deliver q (.chanDone c)
        (BitVec.ofNat 16 st.code)))

/-- A stop cause (R130, R131, R133): no effect on an IDLE channel or where a stop is pending; with an access of the channel
presented or its post issued, what a ring reset left of an earlier run included (log 24), the stop is pending, and the channel's
place in a lock's queue, its posts in its ring's stall queue and hold list and an opened post awaiting issue are given up at once
(R109, R130, R76); otherwise the run ends. A pending stop ends the run when nothing is presented any more. The end of a run (R127,
R132, R134): IDLE with the status, the fields kept; out of its rings, with the assemblies discarded and the heads of the stall
queues opened (R71, R87, R76), or that left to the completion of a write of its own in flight there (log 24); its lock released or
its place in the queue left (R110, R109); then CHAN-DONE to the run owner with the status; then a LOCK_FREE write of P0 that waits
for the stop completes (R4, R132). -/
def Obligations.EndOfRun : Prop :=
  ∀ (s : State) (c : ChanId) (st : Status),
    (s.chans[c].state = .idle ∨ s.chans[c].stopPending.isSome = true → s.stopChan c st = s) ∧
    (s.chans[c].state ≠ .idle → s.chans[c].stopPending = none →
      (s.chanPresented c = false → s.stopChan c st = s.endRun c st) ∧
      (s.chanPresented c = true →
        ∀ t : State, (s.chans[c].state ≠ .lockWait ∧ t = s ∨ s.chans[c].state = .lockWait ∧ LeftLock s c t) →
          (s.chans[c].feedRing = none → s.stopChan c st = t.modChan c fun k => { k with stopPending := some st }) ∧
          (∀ r : RingId, s.chans[c].feedRing = some r →
            s.stopChan c st = (t.modRing r (·.withoutPosts c)).modChan c fun k => { k with stopPending := some st }))) ∧
    (s.chans[c].stopPending = none ∨ s.chanPresented c = true → s.settleStop c = s) ∧
    (s.chans[c].stopPending = some st → s.chanPresented c = false → s.settleStop c = s.endRun c st) ∧
    (s.chanPresented c = true ↔
      (∃ (q : Request) (y : ChanStep), s.reqs[(4 : Fin 5)] = some q ∧ q.issuer = .chan c y) ∨
      (∃ (x : Access) (y : ChanStep), s.inProg = some x ∧ x.req.issuer = .chan c y) ∨
      ∃ (r : RingId) (f : InFlight), s.rings[r].inFlight = some f ∧ f.post.who = .chan c) ∧
    (∀ r : RingId, s.chans[c].feedRing = some r ↔
      s.chans[c].desc.mode.toNat % 8 = 5 ∧ s.chans[c].desc.data.toNat = r.val) ∧
    (∀ t u v : State, LeftRings (s.modChan c fun k => k.over st) c t → LeftLock t c u →
      v = (match s.chans[c].owner with | some q => u.deliver q (.chanDone c) (BitVec.ofNat 16 st.code) | none => u) →
      (v.unawaited c → s.endRun c st = v) ∧
      (∀ k : Cycle, v.ports[(0 : PortId)].cycle = some k → k.wait = .lockFree c → s.endRun c st = v.written 0))

/-- CHANNEL_PICK (R126): with nothing of the engine presented or in progress, the first channel in the order of H2 that needs an
access is picked, the last-access pointer names it, and its next access is presented: an issued FEED post first, the one at the
lower ring where a ring reset has left a second (log 18), or the access that its state and operation call for (R121 to R124,
R127): SRC and DST reads, DST writes, the SUM result write, or the next word of the descriptor. A channel write is looked up by
the watch unit, and is a locked pair under a changed-only WATCH window (R28 to R30). Otherwise nothing. -/
def Obligations.ChannelPick : Prop :=
  (∀ s : State,
    (s.engineBusy = true ∨ (∀ c : ChanId, s.needsAccess c = false) → exec .channelPick s = .next s) ∧
    (∀ (n c first : ChanId), s.engineBusy = false →
      first = (if (s.header[(2 : Fin 4)]).getLsbD 0 then s.lastChan + 1 else 0) → c = first + n →
      (∀ m : ChanId, m.val < n.val → s.needsAccess (first + m) = false) →
      (∀ (r : RingId) (f : InFlight), s.rings[r].inFlight = some f → f.post.who = .chan c → f.presented = false →
        (∀ (q : RingId) (g : InFlight), q < r → s.rings[q].inFlight = some g → g.post.who = .chan c → g.presented = true) →
        exec .channelPick s = .next (({ s with
          lastChan := c
          reqs := upd s.reqs 4 fun _ => some { kind := .write f.post.word, addr := f.addr, code := 4 + c.val,
                                               issuer := .ring r, watch := none, abandoned := false } }).modRing r fun k =>
            { k with inFlight := some { f with presented := true } })) ∧
      ((∀ (r : RingId) (g : InFlight), s.rings[r].inFlight = some g → g.post.who = .chan c → g.presented = true) →
        s.chans[c].stopPending = none →
        (∀ (y : ChanStep) (a : Addr), s.chans[c].nextStep = some y →
          (y = .srcRead ∧ a = s.chans[c].desc.src ∨ y = .dstRead ∧ a = s.chans[c].desc.dst ∨
            y = .fetchRead ∧ a = s.chans[c].desc.link + BitVec.ofNat 18 s.chans[c].fetchBuf.length) →
          exec .channelPick s = .next { s with
            lastChan := c
            reqs := upd s.reqs 4 fun _ => some { kind := .read, addr := a, code := 4 + c.val, issuer := .chan c y,
                                                 watch := none, abandoned := false } }) ∧
        (∀ (y : ChanStep) (v : Word) (g : Option WatchTag), s.chans[c].nextStep = some y →
          (y = .dstWrite ∧ s.chans[c].desc.op = some .fill ∧ v = s.chans[c].desc.data ∨
            y = .dstWrite ∧ s.chans[c].desc.op ≠ some .fill ∧ s.chans[c].holding = some v ∨
            y = .sumWrite ∧ v = s.chans[c].desc.data) →
          g = s.watchLookup (s.chans[c].desc.dst).toNat →
          exec .channelPick s = .next { s with
            lastChan := c
            reqs := upd s.reqs 4 fun _ => some {
              kind := match g with | some t => if t.changedOnly then .pair v else .write v | none => .write v
              addr := s.chans[c].desc.dst
              code := 4 + c.val
              issuer := .chan c y
              watch := g
              abandoned := false } })))) ∧
  (∀ (s : State) (a : Nat),
    (s.header[(0 : Fin 4)].getLsbD 0 = false → s.watchLookup a = none) ∧
    ((∀ w : WinId, s.windows[w].valid = true → winBase s.windows[w].data ≤ a →
        winBase s.windows[w].data + winLen s.windows[w].data ≤ a) → s.watchLookup a = none) ∧
    (∀ w : WinId, s.header[(0 : Fin 4)].getLsbD 0 = true → s.windows[w].valid = true →
      winBase s.windows[w].data ≤ a → a < winBase s.windows[w].data + winLen s.windows[w].data →
      (∀ v : WinId, v ≠ w → s.windows[v].valid = true → winBase s.windows[v].data ≤ a →
        winBase s.windows[v].data + winLen s.windows[v].data ≤ a) →
      s.watchLookup a = if s.windows[w].ctl.kind = 2 then some {
          win := w
          offset := BitVec.ofNat 16 (a - winBase s.windows[w].data)
          target := winTarget s.windows[w].data
          onWrite := s.windows[w].ctl.onWrite
          onRead := s.windows[w].ctl.onRead
          changedOnly := s.windows[w].ctl.changedOnly } else none)) ∧
  (∀ (s : State) (c : ChanId),
    (s.needsAccess c = true ↔
      (∃ (r : RingId) (f : InFlight), s.rings[r].inFlight = some f ∧ f.post.who = .chan c ∧ f.presented = false) ∨
      s.chans[c].stopPending = none ∧ s.chans[c].nextStep.isSome = true) ∧
    (s.engineBusy = true ↔ s.reqs[(4 : Fin 5)].isSome = true ∨
      ∃ x : Access, s.inProg = some x ∧ ((∃ (d : ChanId) (y : ChanStep), x.req.issuer = .chan d y) ∨
        (∃ r : RingId, x.req.issuer = .ring r) ∧ 4 ≤ x.req.code))) ∧
  (∀ k : Chan,
    (k.state = .run → k.nextStep = match k.desc.op with
      | some .copy => some (if k.holding = none then .srcRead else .dstWrite)
      | some .verify => some (if k.holding = none then .srcRead else .dstRead)
      | some .fill => some .dstWrite
      | some .sum => some (if k.desc.count = 0 ∧ 0 < k.wordsDone then .sumWrite else .srcRead)
      | some .feed => if k.holding = none then some .srcRead else none
      | none => none) ∧
    (k.state = .fetch → k.nextStep = if k.fetchBuf.length < 7 then some .fetchRead else none) ∧
    (k.state = .idle ∨ k.state = .lockWait ∨ k.state = .stall → k.nextStep = none))

/-- A word is done (R121 to R125, Table 7-4): the fields step by the operation, and where a mark falls due, by MODE's mark code
and the words done of this descriptor, CHAN-MARK goes to the run owner with COUNT, unless a stop is pending (R131). Then a pending
stop ends the run, unless an access of the channel is still presented (log 24); at terminal count (R127) a SUM with target DST
goes on to its result write, another operation leaves its rings (R71, R87) and ends the run with DONE, or fetches the next
descriptor under the link flag; otherwise the run goes on. -/
def Obligations.WordDone : Prop :=
  (∀ (d : Desc) (w : Word),
    (d.op = some .copy ∨ d.op = some .verify → d.step w = { d with src := d.src + 1, dst := d.dst + 1, count := d.count - 1 }) ∧
    (d.op = some .fill → d.step w = { d with dst := d.dst + 1, count := d.count - 1 }) ∧
    (d.op = some .sum → d.step w = { d with src := d.src + 1, count := d.count - 1, data := crcWord d.data w }) ∧
    (d.op = some .feed → d.step w = { d with src := d.src + 1, count := d.count - 1 })) ∧
  (∀ (s u v : State) (c : ChanId) (w : Word) (m : Nat), s.chans[c].desc.op ≠ none →
    u = (s.modChan c fun k => k.stepped (k.desc.step w)) → m = s.chans[c].desc.mode.toNat / 4096 % 8 →
    v = (if 1 ≤ m ∧ m ≤ 5 ∧ (s.chans[c].wordsDone + 1) % (8 * 2 ^ m) = 0 ∧ s.chans[c].stopPending = none then
        match s.chans[c].owner with
        | some q => u.deliver q (.chanMark c) (s.chans[c].desc.count - 1)
        | none => u
      else u) →
    (∀ st : Status, s.chans[c].stopPending = some st →
      s.wordDone c w = if s.chanPresented c then u else u.endRun c st) ∧
    (s.chans[c].stopPending = none →
      (s.chans[c].desc.count ≠ 1 → s.wordDone c w = v) ∧
      (s.chans[c].desc.count = 1 →
        (s.chans[c].desc.op = some .sum → s.chans[c].desc.toDst = true → s.wordDone c w = v) ∧
        (∀ t : State, (s.chans[c].desc.op ≠ some .sum ∨ s.chans[c].desc.toDst = false) → LeftRings v c t →
          s.wordDone c w = if s.chans[c].desc.linkFlag then t.modChan c Chan.fetching else t.endRun c .done))))

/-- The accesses of COPY, FILL and VERIFY runs (R121, R122, R127, R129, Table 7-4): a SRC read is held; a DST write, and a DST
read of VERIFY that agrees, make a word done (WordDone); a DST read that differs stops the channel with MISMATCH at that word; a
parity error on a SRC, DST or descriptor read stops it with PARITY after its report. Such a stop ends the run at once (R131), also
where an earlier run's post is in flight (log 24); a pair's parity report comes with its completion (log 12). The first clauses
hold for every such access and every state; the next ones write out the whole state of a quiet channel: marks off, no watch
window, no lock, no assembly, nothing else presented, no LOCK_FREE write waiting; the last word ends the run with DONE, or under
the link flag the channel enters FETCH. The fold of one bit of SUM (R123), and of a word from bit 15 down to bit 0. -/
def Obligations.RunsWordByWord : Prop :=
  (∀ (s t : State) (x : Access) (c : ChanId) (y : ChanStep), s.inProg = some x → x.req.issuer = .chan c y →
     x.req.abandoned = false →
     (∀ (v : Word) (u : Upset), y = .dstWrite → WriteJudged s x v t →
       exec (.memoryAccessComplete u) s = .next (t.wordDone c v)) ∧
     (ReadJudged s x t → s.chans[c].stopPending = none →
       ((y = .srcRead ∨ y = .dstRead ∨ y = .fetchRead) → (s.cellAt x.req.addr).bad = true →
         exec (.memoryAccessComplete 0) s = .next (t.endRun c .parity)) ∧
       ((s.cellAt x.req.addr).bad = false →
         (y = .srcRead → (s.chans[c].desc.op = some .copy ∨ s.chans[c].desc.op = some .verify) →
           exec (.memoryAccessComplete 0) s =
             .next (t.modChan c fun k => { k with holding := some (s.cellAt x.req.addr).word })) ∧
         (y = .dstRead → s.chans[c].holding = some (s.cellAt x.req.addr).word →
           exec (.memoryAccessComplete 0) s = .next (t.wordDone c (s.cellAt x.req.addr).word)) ∧
         (y = .dstRead → s.chans[c].holding ≠ some (s.cellAt x.req.addr).word →
           exec (.memoryAccessComplete 0) s = .next (t.endRun c .mismatch))))) ∧
  (∀ (s : State) (x : Access) (c : ChanId) (y : ChanStep) (q : PortId), s.inProg = some x → x.req.issuer = .chan c y →
     x.req.watch = none → x.req.abandoned = false → s.chans[c].stopPending = none → s.chans[c].desc.mark = some 0 →
     s.chans[c].desc.lock = none → s.chans[c].feedRing = none → s.ownsNone c → s.unawaited c → s.chans[c].owner = some q →
     ({ s with inProg := none }).chanPresented c = false →
     ((y = .srcRead ∨ y = .dstRead ∨ y = .fetchRead) → x.req.kind = .read → (s.cellAt x.req.addr).bad = true →
       exec (.memoryAccessComplete 0) s = .next ((((({ s with inProg := none }).reportParity x.req.addr
         x.req.code).modChan c fun k => { k with
           state := .idle, last := .parity, holding := none, fetchBuf := [], stopPending := none }).deliver q (.chanDone c)
             4#16))) ∧
     (∀ (t : State) (v w : Word) (d : Desc),
       (y = .dstWrite ∧ x.req.kind = .write v ∧
           t = { s with inProg := none, mem := Mem.set s.mem x.req.addr.toNat (goodCell v) } ∧
           (s.chans[c].desc.op = some .copy ∧ d = { s.chans[c].desc with
             src := s.chans[c].desc.src + 1, dst := s.chans[c].desc.dst + 1, count := s.chans[c].desc.count - 1 } ∨
           s.chans[c].desc.op = some .fill ∧ d = { s.chans[c].desc with
             dst := s.chans[c].desc.dst + 1, count := s.chans[c].desc.count - 1 }) ∨
         y = .dstRead ∧ x.req.kind = .read ∧ s.chans[c].desc.op = some .verify ∧
           s.cellAt x.req.addr = goodCell w ∧ s.chans[c].holding = some w ∧ t = { s with inProg := none } ∧
           d = { s.chans[c].desc with
             src := s.chans[c].desc.src + 1, dst := s.chans[c].desc.dst + 1, count := s.chans[c].desc.count - 1 }) →
       (s.chans[c].desc.count ≠ 1 → exec (.memoryAccessComplete 0) s = .next (t.modChan c fun k =>
           { k with desc := d, wordsDone := k.wordsDone + 1, holding := none })) ∧
       (s.chans[c].desc.count = 1 → s.chans[c].desc.linkFlag = false → exec (.memoryAccessComplete 0) s = .next
         ((t.modChan c fun k =>
           { k with desc := d, wordsDone := k.wordsDone + 1, holding := none, state := .idle, last := .done, fetchBuf := [],
                    stopPending := none }).deliver q (.chanDone c) 1#16)) ∧
       (s.chans[c].desc.count = 1 → s.chans[c].desc.linkFlag = true → exec (.memoryAccessComplete 0) s = .next
         (t.modChan c fun k =>
           { k with desc := d, wordsDone := k.wordsDone + 1, holding := none, state := .fetch, fetchBuf := [] }))) ∧
     (y = .dstRead → x.req.kind = .read → s.chans[c].desc.op = some .verify → (s.cellAt x.req.addr).bad = false →
       s.chans[c].holding ≠ some (s.cellAt x.req.addr).word →
       exec (.memoryAccessComplete 0) s = .next ((({ s with inProg := none }).modChan c fun k => { k with
         state := .idle, last := .mismatch, holding := none, fetchBuf := [], stopPending := none }).deliver q (.chanDone c)
           3#16))) ∧
  ((∀ (crc : Word) (b : Bool), crcBit crc b =
     if crc.getLsbD 15 = b then crc <<< 1 else (crc <<< 1) ^^^ 0x1021#16) ∧
   (∀ crc w : Word, crcWord crc w =
     (List.range 16).foldl (fun x i => crcBit x (w.getLsbD (15 - i))) crc) ∧
   crcWord 0 1#16 = 0x1021#16 ∧ crcWord 0 2#16 = 0x2042#16)

/-- SUM (R123): a SRC read makes a word done, its fold in DATA; the result write, made and judged, completes the descriptor. FEED
(R124, R85, R86, R87): a SRC read is held and its word reaches the ring engine, held behind an access in flight or taken up; the
completion of the post's write has the post's effects (R70 to R72), makes the word done, and then the awaiting post and the hold
list are taken up (R68). A write whose assembly a ring reset has taken has no effect on entries (R90), and one of a run that a
ring reset has stopped steps no channel, but lets a stop that waits for it complete (R131, log 24); where the channel was to leave
the ring with it, the assembly is discarded after its effects (R71, R87, log 24). The moment of a pair's parity report: log 12. -/
def Obligations.SumAndFeedWords : Prop :=
  (∀ (s t : State) (x : Access) (c : ChanId) (y : ChanStep), s.inProg = some x → x.req.issuer = .chan c y →
     x.req.abandoned = false → s.chans[c].stopPending = none →
     (ReadJudged s x t → y = .srcRead → (s.cellAt x.req.addr).bad = false →
       (s.chans[c].desc.op = some .sum →
         exec (.memoryAccessComplete 0) s = .next (t.wordDone c (s.cellAt x.req.addr).word)) ∧
       (∀ (r : RingId) (q : Post) (v : State), s.chans[c].feedRing = some r →
         q = { who := .chan c, word := (s.cellAt x.req.addr).word, live := true } →
         v = (t.modChan c fun k => { k with holding := some q.word }) →
         (s.rings[r].inFlight.isSome = true → exec (.memoryAccessComplete 0) s =
           .next (v.modRing r fun k => { k with hold := k.hold ++ [.post q] })) ∧
         (∀ z : State, s.rings[r].inFlight = none → PostTakenUp v r q z →
           exec (.memoryAccessComplete 0) s = .next z))) ∧
     (∀ (v : Word) (u : Upset), y = .sumWrite → s.chans[c].desc.op = some .sum → WriteJudged s x v t →
       ∀ z : State, LeftRings t c z → exec (.memoryAccessComplete u) s =
         .next (if s.chans[c].desc.linkFlag then z.modChan c Chan.fetching else z.endRun c .done))) ∧
  (∀ (s t u z : State) (x : Access) (r : RingId) (f : InFlight) (c : ChanId) (v : Word), s.inProg = some x →
     x.req.issuer = .ring r → s.rings[r].inFlight = some f → f.post.who = .chan c → f.dir = .write → WriteJudged s x v t →
     (f.attached = false ∧ u = (t.modRing r fun k => { k with inFlight := none }) ∨
      f.attached = true ∧ ∃ m : PostAsm, s.rings[r].postAsm = some m ∧
        ((m.words + 1 = s.recs[r].entrySize ∧ exec (.stalledPostOpen r) (t.modRing r fun k => { k with
            postAsm := none
            inFlight := none
            tail := if k.tail + 1 = s.recs[r].capacity then 0 else k.tail + 1
            count := k.count + 1 }) = .next u) ∨
         (m.words + 1 ≠ s.recs[r].entrySize ∧ u = t.modRing r fun k => { k with
            postAsm := some { m with words := m.words + 1 }
            inFlight := none }))) →
     (f.leaving = false ∧ z = u ∨ f.leaving = true ∧ AssemblyDropped u c r z) →
     exec (.memoryAccessComplete 0) s =
       exec (.holdListTakeUp r) (if f.post.live then z.wordDone c v else z.settleStop c))

/-- Chained descriptors (R127, R128, R110): a descriptor read is buffered; with the seventh word the new fields are validated with
the run owner's rights, counting the lock that the channel holds and that they name as kept. What fails ends the run with
BAD_DESCRIPTOR at once (R131), also where an earlier run's post is in flight (log 24). What passes is installed: the fields, the
counters, RUN; then a lock kept stays held, the lock of the old fields is released, with its hand-over (R101), and one that the
new fields name is acquired, or waited for in LOCKWAIT (R108). -/
def Obligations.FetchAndInstall : Prop :=
  ∀ (s t : State) (x : Access) (c : ChanId) (w : Word), s.inProg = some x → x.req.issuer = .chan c .fetchRead →
    x.req.abandoned = false → s.chans[c].stopPending = none → s.cellAt x.req.addr = goodCell w → ReadJudged s x t →
    (s.chans[c].fetchBuf.length ≠ 6 →
      exec (.memoryAccessComplete 0) s = .next (t.modChan c fun k => { k with fetchBuf := k.fetchBuf ++ [w] })) ∧
    (∀ (d : Desc) (old kept : Option LockId), s.chans[c].fetchBuf.length = 6 →
      d = descOfWords (s.chans[c].fetchBuf ++ [w]) →
      old = (match s.chans[c].desc.lock with
        | some l => if s.locks[l].holder = some (.chan c) then some l else none
        | none => none) →
      kept = (if old = d.lock then old else none) →
      ((s.chans[c].owner = none ∨ ∃ p : PortId, s.chans[c].owner = some p ∧ s.descOk p kept d = false) →
        exec (.memoryAccessComplete 0) s = .next (t.endRun c .badDescriptor)) ∧
      (∀ (p : PortId) (i j : State), s.chans[c].owner = some p → s.descOk p kept d = true →
        i = (t.modChan c fun k => { k with
          desc := d, descCount := k.descCount + 1, wordsDone := 0, fetchBuf := [], holding := none, state := .run }) →
        j = (match old with | some l => i.released l | none => i) →
        (old = d.lock → exec (.memoryAccessComplete 0) s = .next i) ∧
        (old ≠ d.lock → d.lock = none → exec (.memoryAccessComplete 0) s = .next j) ∧
        (∀ l : LockId, old ≠ d.lock → d.lock = some l →
          (j.locks[l].holder = none → exec (.memoryAccessComplete 0) s = .next ((j.modLock l fun k => { k with
            holder := some (.chan c)
            timer := if s.leases[l] = 0 then none else some (s.leases[l]).toNat }).modChan c fun k =>
              { k with state := .run })) ∧
          (j.locks[l].holder.isSome = true → exec (.memoryAccessComplete 0) s = .next ((j.modLock l fun k => { k with
            waiters := if k.holder = some (.chan c) ∨ .chan c ∈ k.waiters then k.waiters
              else k.waiters ++ [.chan c] }).modChan c fun k => { k with state := .lockWait })))))

/-! ## Laws that every step keeps -/

/-- The memory keeps its canonical form (log 22): distinct addresses of the space, in order. -/
def Obligations.MemoryLawKept : Prop := ∀ s t : State, s.memoryLaw → step s = .next t → t.memoryLaw

/-- A port is OFF exactly while the part is not RUNNING, and DOWN while its teardown is in progress (R168, R178); start-up control's
accesses are made only in their part states, and while PONN is low the part is in COLD_CLEAR (R141, R169). -/
def Obligations.PortLawKept : Prop :=
  ∀ s t : State, s.startLaw → s.portLaw → step s = .next t → t.startLaw ∧ t.portLaw

/-- A FREE lock has an empty queue and no running lease, no queue holds more than seven, and a claimant stands at most once among
the holder and the queue of a lock (R94, R98, R101). -/
def Obligations.LockLawKept : Prop := ∀ s t : State, s.lockLaw → step s = .next t → t.lockLaw

/-- Every ring's count, indexes and assemblies agree (R67): count is at most capacity, the tail is head + count modulo capacity, an
open post assembly has a free place, and an open take assembly has an entry. Every stall queue keeps its laws (R75): a claimant
stands in it at most once (a post left by a ring reset: log 24), a port's entry carries ticks and a channel's none, and it is empty
while the opening condition holds. -/
def Obligations.RingLawKept : Prop :=
  ∀ s t : State, step s = .next t → (s.ringLaw → t.ringLaw) ∧ (s.stallLaw → t.stallLaw)

/-- No word belongs to two of the VALID windows and the storages of enabled rings, all of them lie in the span, and each ring, lock
and channel is reached through at most one VALID window (R158). No source is bound to more than one slot of the same port (R57,
R163, R164). -/
def Obligations.WindowLawKept : Prop :=
  ∀ s t : State, step s = .next t → (s.rangeLaw → s.mapLaw → t.rangeLaw ∧ t.mapLaw) ∧ (s.bindingLaw → t.bindingLaw)

/-- While the port states keep their law (R168, R178), a port that is not UP has no in-service entry and no pending latched slot,
but P0's TABLE slot during the sweep (R64), and the in-service entries of a port have strictly falling levels and different slots
(R43, R51). -/
def Obligations.NoticeLawKept : Prop :=
  ∀ s t : State, s.portLaw → s.noticeLaw → s.inServiceLaw → step s = .next t → t.noticeLaw ∧ t.inServiceLaw
end

