-- ==== Sys2Proof/Laws/State.lean ====
section
/-! SUPPORT. Reading any field after any of the shared updates: one lemma per field per update, so that no later proof
unfolds a record update. -/

namespace Sys2Proof.Machine

/-! ## modPort -/

section
variable (s : State) (i : PortId) (f : Port → Port)

@[simp] theorem State.modPort_part : (s.modPort i f).part = s.part := rfl
@[simp] theorem State.modPort_ponn : (s.modPort i f).ponn = s.ponn := rfl
@[simp] theorem State.modPort_rstn : (s.modPort i f).rstn = s.rstn := rfl
@[simp] theorem State.modPort_kind : (s.modPort i f).kind = s.kind := rfl
@[simp] theorem State.modPort_ports : (s.modPort i f).ports = upd s.ports i f := rfl
@[simp] theorem State.modPort_ctls : (s.modPort i f).ctls = s.ctls := rfl
@[simp] theorem State.modPort_header : (s.modPort i f).header = s.header := rfl
@[simp] theorem State.modPort_windows : (s.modPort i f).windows = s.windows := rfl
@[simp] theorem State.modPort_recs : (s.modPort i f).recs = s.recs := rfl
@[simp] theorem State.modPort_leases : (s.modPort i f).leases = s.leases := rfl
@[simp] theorem State.modPort_tick : (s.modPort i f).tick = s.tick := rfl
@[simp] theorem State.modPort_rings : (s.modPort i f).rings = s.rings := rfl
@[simp] theorem State.modPort_locks : (s.modPort i f).locks = s.locks := rfl
@[simp] theorem State.modPort_chans : (s.modPort i f).chans = s.chans := rfl
@[simp] theorem State.modPort_lastChan : (s.modPort i f).lastChan = s.lastChan := rfl
@[simp] theorem State.modPort_reqs : (s.modPort i f).reqs = s.reqs := rfl
@[simp] theorem State.modPort_inProg : (s.modPort i f).inProg = s.inProg := rfl
@[simp] theorem State.modPort_lastGrant : (s.modPort i f).lastGrant = s.lastGrant := rfl
@[simp] theorem State.modPort_fault : (s.modPort i f).fault = s.fault := rfl
@[simp] theorem State.modPort_mem : (s.modPort i f).mem = s.mem := rfl
@[simp] theorem State.modPort_powerOns : (s.modPort i f).powerOns = s.powerOns := rfl
@[simp] theorem State.modPort_freeUse : (s.modPort i f).freeUse = s.freeUse := rfl
@[simp] theorem State.modPort_pending : (s.modPort i f).pending = s.pending := rfl

end

/-! ## modCtl -/

section
variable (s : State) (i : PortId) (f : Controller → Controller)

@[simp] theorem State.modCtl_part : (s.modCtl i f).part = s.part := rfl
@[simp] theorem State.modCtl_ponn : (s.modCtl i f).ponn = s.ponn := rfl
@[simp] theorem State.modCtl_rstn : (s.modCtl i f).rstn = s.rstn := rfl
@[simp] theorem State.modCtl_kind : (s.modCtl i f).kind = s.kind := rfl
@[simp] theorem State.modCtl_ports : (s.modCtl i f).ports = s.ports := rfl
@[simp] theorem State.modCtl_ctls : (s.modCtl i f).ctls = upd s.ctls i f := rfl
@[simp] theorem State.modCtl_header : (s.modCtl i f).header = s.header := rfl
@[simp] theorem State.modCtl_windows : (s.modCtl i f).windows = s.windows := rfl
@[simp] theorem State.modCtl_recs : (s.modCtl i f).recs = s.recs := rfl
@[simp] theorem State.modCtl_leases : (s.modCtl i f).leases = s.leases := rfl
@[simp] theorem State.modCtl_tick : (s.modCtl i f).tick = s.tick := rfl
@[simp] theorem State.modCtl_rings : (s.modCtl i f).rings = s.rings := rfl
@[simp] theorem State.modCtl_locks : (s.modCtl i f).locks = s.locks := rfl
@[simp] theorem State.modCtl_chans : (s.modCtl i f).chans = s.chans := rfl
@[simp] theorem State.modCtl_lastChan : (s.modCtl i f).lastChan = s.lastChan := rfl
@[simp] theorem State.modCtl_reqs : (s.modCtl i f).reqs = s.reqs := rfl
@[simp] theorem State.modCtl_inProg : (s.modCtl i f).inProg = s.inProg := rfl
@[simp] theorem State.modCtl_lastGrant : (s.modCtl i f).lastGrant = s.lastGrant := rfl
@[simp] theorem State.modCtl_fault : (s.modCtl i f).fault = s.fault := rfl
@[simp] theorem State.modCtl_mem : (s.modCtl i f).mem = s.mem := rfl
@[simp] theorem State.modCtl_powerOns : (s.modCtl i f).powerOns = s.powerOns := rfl
@[simp] theorem State.modCtl_freeUse : (s.modCtl i f).freeUse = s.freeUse := rfl
@[simp] theorem State.modCtl_pending : (s.modCtl i f).pending = s.pending := rfl

end

/-! ## modWin -/

section
variable (s : State) (i : WinId) (f : WinEntry → WinEntry)

@[simp] theorem State.modWin_part : (s.modWin i f).part = s.part := rfl
@[simp] theorem State.modWin_ponn : (s.modWin i f).ponn = s.ponn := rfl
@[simp] theorem State.modWin_rstn : (s.modWin i f).rstn = s.rstn := rfl
@[simp] theorem State.modWin_kind : (s.modWin i f).kind = s.kind := rfl
@[simp] theorem State.modWin_ports : (s.modWin i f).ports = s.ports := rfl
@[simp] theorem State.modWin_ctls : (s.modWin i f).ctls = s.ctls := rfl
@[simp] theorem State.modWin_header : (s.modWin i f).header = s.header := rfl
@[simp] theorem State.modWin_windows : (s.modWin i f).windows = upd s.windows i f := rfl
@[simp] theorem State.modWin_recs : (s.modWin i f).recs = s.recs := rfl
@[simp] theorem State.modWin_leases : (s.modWin i f).leases = s.leases := rfl
@[simp] theorem State.modWin_tick : (s.modWin i f).tick = s.tick := rfl
@[simp] theorem State.modWin_rings : (s.modWin i f).rings = s.rings := rfl
@[simp] theorem State.modWin_locks : (s.modWin i f).locks = s.locks := rfl
@[simp] theorem State.modWin_chans : (s.modWin i f).chans = s.chans := rfl
@[simp] theorem State.modWin_lastChan : (s.modWin i f).lastChan = s.lastChan := rfl
@[simp] theorem State.modWin_reqs : (s.modWin i f).reqs = s.reqs := rfl
@[simp] theorem State.modWin_inProg : (s.modWin i f).inProg = s.inProg := rfl
@[simp] theorem State.modWin_lastGrant : (s.modWin i f).lastGrant = s.lastGrant := rfl
@[simp] theorem State.modWin_fault : (s.modWin i f).fault = s.fault := rfl
@[simp] theorem State.modWin_mem : (s.modWin i f).mem = s.mem := rfl
@[simp] theorem State.modWin_powerOns : (s.modWin i f).powerOns = s.powerOns := rfl
@[simp] theorem State.modWin_freeUse : (s.modWin i f).freeUse = s.freeUse := rfl
@[simp] theorem State.modWin_pending : (s.modWin i f).pending = s.pending := rfl

end

/-! ## modRec -/

section
variable (s : State) (i : RingId) (f : RingRec → RingRec)

@[simp] theorem State.modRec_part : (s.modRec i f).part = s.part := rfl
@[simp] theorem State.modRec_ponn : (s.modRec i f).ponn = s.ponn := rfl
@[simp] theorem State.modRec_rstn : (s.modRec i f).rstn = s.rstn := rfl
@[simp] theorem State.modRec_kind : (s.modRec i f).kind = s.kind := rfl
@[simp] theorem State.modRec_ports : (s.modRec i f).ports = s.ports := rfl
@[simp] theorem State.modRec_ctls : (s.modRec i f).ctls = s.ctls := rfl
@[simp] theorem State.modRec_header : (s.modRec i f).header = s.header := rfl
@[simp] theorem State.modRec_windows : (s.modRec i f).windows = s.windows := rfl
@[simp] theorem State.modRec_recs : (s.modRec i f).recs = upd s.recs i f := rfl
@[simp] theorem State.modRec_leases : (s.modRec i f).leases = s.leases := rfl
@[simp] theorem State.modRec_tick : (s.modRec i f).tick = s.tick := rfl
@[simp] theorem State.modRec_rings : (s.modRec i f).rings = s.rings := rfl
@[simp] theorem State.modRec_locks : (s.modRec i f).locks = s.locks := rfl
@[simp] theorem State.modRec_chans : (s.modRec i f).chans = s.chans := rfl
@[simp] theorem State.modRec_lastChan : (s.modRec i f).lastChan = s.lastChan := rfl
@[simp] theorem State.modRec_reqs : (s.modRec i f).reqs = s.reqs := rfl
@[simp] theorem State.modRec_inProg : (s.modRec i f).inProg = s.inProg := rfl
@[simp] theorem State.modRec_lastGrant : (s.modRec i f).lastGrant = s.lastGrant := rfl
@[simp] theorem State.modRec_fault : (s.modRec i f).fault = s.fault := rfl
@[simp] theorem State.modRec_mem : (s.modRec i f).mem = s.mem := rfl
@[simp] theorem State.modRec_powerOns : (s.modRec i f).powerOns = s.powerOns := rfl
@[simp] theorem State.modRec_freeUse : (s.modRec i f).freeUse = s.freeUse := rfl
@[simp] theorem State.modRec_pending : (s.modRec i f).pending = s.pending := rfl

end

/-! ## modRing -/

section
variable (s : State) (i : RingId) (f : Ring → Ring)

@[simp] theorem State.modRing_part : (s.modRing i f).part = s.part := rfl
@[simp] theorem State.modRing_ponn : (s.modRing i f).ponn = s.ponn := rfl
@[simp] theorem State.modRing_rstn : (s.modRing i f).rstn = s.rstn := rfl
@[simp] theorem State.modRing_kind : (s.modRing i f).kind = s.kind := rfl
@[simp] theorem State.modRing_ports : (s.modRing i f).ports = s.ports := rfl
@[simp] theorem State.modRing_ctls : (s.modRing i f).ctls = s.ctls := rfl
@[simp] theorem State.modRing_header : (s.modRing i f).header = s.header := rfl
@[simp] theorem State.modRing_windows : (s.modRing i f).windows = s.windows := rfl
@[simp] theorem State.modRing_recs : (s.modRing i f).recs = s.recs := rfl
@[simp] theorem State.modRing_leases : (s.modRing i f).leases = s.leases := rfl
@[simp] theorem State.modRing_tick : (s.modRing i f).tick = s.tick := rfl
@[simp] theorem State.modRing_rings : (s.modRing i f).rings = upd s.rings i f := rfl
@[simp] theorem State.modRing_locks : (s.modRing i f).locks = s.locks := rfl
@[simp] theorem State.modRing_chans : (s.modRing i f).chans = s.chans := rfl
@[simp] theorem State.modRing_lastChan : (s.modRing i f).lastChan = s.lastChan := rfl
@[simp] theorem State.modRing_reqs : (s.modRing i f).reqs = s.reqs := rfl
@[simp] theorem State.modRing_inProg : (s.modRing i f).inProg = s.inProg := rfl
@[simp] theorem State.modRing_lastGrant : (s.modRing i f).lastGrant = s.lastGrant := rfl
@[simp] theorem State.modRing_fault : (s.modRing i f).fault = s.fault := rfl
@[simp] theorem State.modRing_mem : (s.modRing i f).mem = s.mem := rfl
@[simp] theorem State.modRing_powerOns : (s.modRing i f).powerOns = s.powerOns := rfl
@[simp] theorem State.modRing_freeUse : (s.modRing i f).freeUse = s.freeUse := rfl
@[simp] theorem State.modRing_pending : (s.modRing i f).pending = s.pending := rfl

end

/-! ## modLock -/

section
variable (s : State) (i : LockId) (f : Lock → Lock)

@[simp] theorem State.modLock_part : (s.modLock i f).part = s.part := rfl
@[simp] theorem State.modLock_ponn : (s.modLock i f).ponn = s.ponn := rfl
@[simp] theorem State.modLock_rstn : (s.modLock i f).rstn = s.rstn := rfl
@[simp] theorem State.modLock_kind : (s.modLock i f).kind = s.kind := rfl
@[simp] theorem State.modLock_ports : (s.modLock i f).ports = s.ports := rfl
@[simp] theorem State.modLock_ctls : (s.modLock i f).ctls = s.ctls := rfl
@[simp] theorem State.modLock_header : (s.modLock i f).header = s.header := rfl
@[simp] theorem State.modLock_windows : (s.modLock i f).windows = s.windows := rfl
@[simp] theorem State.modLock_recs : (s.modLock i f).recs = s.recs := rfl
@[simp] theorem State.modLock_leases : (s.modLock i f).leases = s.leases := rfl
@[simp] theorem State.modLock_tick : (s.modLock i f).tick = s.tick := rfl
@[simp] theorem State.modLock_rings : (s.modLock i f).rings = s.rings := rfl
@[simp] theorem State.modLock_locks : (s.modLock i f).locks = upd s.locks i f := rfl
@[simp] theorem State.modLock_chans : (s.modLock i f).chans = s.chans := rfl
@[simp] theorem State.modLock_lastChan : (s.modLock i f).lastChan = s.lastChan := rfl
@[simp] theorem State.modLock_reqs : (s.modLock i f).reqs = s.reqs := rfl
@[simp] theorem State.modLock_inProg : (s.modLock i f).inProg = s.inProg := rfl
@[simp] theorem State.modLock_lastGrant : (s.modLock i f).lastGrant = s.lastGrant := rfl
@[simp] theorem State.modLock_fault : (s.modLock i f).fault = s.fault := rfl
@[simp] theorem State.modLock_mem : (s.modLock i f).mem = s.mem := rfl
@[simp] theorem State.modLock_powerOns : (s.modLock i f).powerOns = s.powerOns := rfl
@[simp] theorem State.modLock_freeUse : (s.modLock i f).freeUse = s.freeUse := rfl
@[simp] theorem State.modLock_pending : (s.modLock i f).pending = s.pending := rfl

end

/-! ## modChan -/

section
variable (s : State) (i : ChanId) (f : Chan → Chan)

@[simp] theorem State.modChan_part : (s.modChan i f).part = s.part := rfl
@[simp] theorem State.modChan_ponn : (s.modChan i f).ponn = s.ponn := rfl
@[simp] theorem State.modChan_rstn : (s.modChan i f).rstn = s.rstn := rfl
@[simp] theorem State.modChan_kind : (s.modChan i f).kind = s.kind := rfl
@[simp] theorem State.modChan_ports : (s.modChan i f).ports = s.ports := rfl
@[simp] theorem State.modChan_ctls : (s.modChan i f).ctls = s.ctls := rfl
@[simp] theorem State.modChan_header : (s.modChan i f).header = s.header := rfl
@[simp] theorem State.modChan_windows : (s.modChan i f).windows = s.windows := rfl
@[simp] theorem State.modChan_recs : (s.modChan i f).recs = s.recs := rfl
@[simp] theorem State.modChan_leases : (s.modChan i f).leases = s.leases := rfl
@[simp] theorem State.modChan_tick : (s.modChan i f).tick = s.tick := rfl
@[simp] theorem State.modChan_rings : (s.modChan i f).rings = s.rings := rfl
@[simp] theorem State.modChan_locks : (s.modChan i f).locks = s.locks := rfl
@[simp] theorem State.modChan_chans : (s.modChan i f).chans = upd s.chans i f := rfl
@[simp] theorem State.modChan_lastChan : (s.modChan i f).lastChan = s.lastChan := rfl
@[simp] theorem State.modChan_reqs : (s.modChan i f).reqs = s.reqs := rfl
@[simp] theorem State.modChan_inProg : (s.modChan i f).inProg = s.inProg := rfl
@[simp] theorem State.modChan_lastGrant : (s.modChan i f).lastGrant = s.lastGrant := rfl
@[simp] theorem State.modChan_fault : (s.modChan i f).fault = s.fault := rfl
@[simp] theorem State.modChan_mem : (s.modChan i f).mem = s.mem := rfl
@[simp] theorem State.modChan_powerOns : (s.modChan i f).powerOns = s.powerOns := rfl
@[simp] theorem State.modChan_freeUse : (s.modChan i f).freeUse = s.freeUse := rfl
@[simp] theorem State.modChan_pending : (s.modChan i f).pending = s.pending := rfl

end

/-! ## modReq -/

section
variable (s : State) (i : Fin 5) (f : Option Request → Option Request)

@[simp] theorem State.modReq_part : (s.modReq i f).part = s.part := rfl
@[simp] theorem State.modReq_ponn : (s.modReq i f).ponn = s.ponn := rfl
@[simp] theorem State.modReq_rstn : (s.modReq i f).rstn = s.rstn := rfl
@[simp] theorem State.modReq_kind : (s.modReq i f).kind = s.kind := rfl
@[simp] theorem State.modReq_ports : (s.modReq i f).ports = s.ports := rfl
@[simp] theorem State.modReq_ctls : (s.modReq i f).ctls = s.ctls := rfl
@[simp] theorem State.modReq_header : (s.modReq i f).header = s.header := rfl
@[simp] theorem State.modReq_windows : (s.modReq i f).windows = s.windows := rfl
@[simp] theorem State.modReq_recs : (s.modReq i f).recs = s.recs := rfl
@[simp] theorem State.modReq_leases : (s.modReq i f).leases = s.leases := rfl
@[simp] theorem State.modReq_tick : (s.modReq i f).tick = s.tick := rfl
@[simp] theorem State.modReq_rings : (s.modReq i f).rings = s.rings := rfl
@[simp] theorem State.modReq_locks : (s.modReq i f).locks = s.locks := rfl
@[simp] theorem State.modReq_chans : (s.modReq i f).chans = s.chans := rfl
@[simp] theorem State.modReq_lastChan : (s.modReq i f).lastChan = s.lastChan := rfl
@[simp] theorem State.modReq_reqs : (s.modReq i f).reqs = upd s.reqs i f := rfl
@[simp] theorem State.modReq_inProg : (s.modReq i f).inProg = s.inProg := rfl
@[simp] theorem State.modReq_lastGrant : (s.modReq i f).lastGrant = s.lastGrant := rfl
@[simp] theorem State.modReq_fault : (s.modReq i f).fault = s.fault := rfl
@[simp] theorem State.modReq_mem : (s.modReq i f).mem = s.mem := rfl
@[simp] theorem State.modReq_powerOns : (s.modReq i f).powerOns = s.powerOns := rfl
@[simp] theorem State.modReq_freeUse : (s.modReq i f).freeUse = s.freeUse := rfl
@[simp] theorem State.modReq_pending : (s.modReq i f).pending = s.pending := rfl

end

/-! ## memWrite and completeCycle -/

section
variable (s : State)

@[simp] theorem State.memWrite_part (a : Addr) (w : Word) : (s.memWrite a w).part = s.part := rfl
@[simp] theorem State.memWrite_ponn (a : Addr) (w : Word) : (s.memWrite a w).ponn = s.ponn := rfl
@[simp] theorem State.memWrite_rstn (a : Addr) (w : Word) : (s.memWrite a w).rstn = s.rstn := rfl
@[simp] theorem State.memWrite_kind (a : Addr) (w : Word) : (s.memWrite a w).kind = s.kind := rfl
@[simp] theorem State.memWrite_ports (a : Addr) (w : Word) : (s.memWrite a w).ports = s.ports := rfl
@[simp] theorem State.memWrite_ctls (a : Addr) (w : Word) : (s.memWrite a w).ctls = s.ctls := rfl
@[simp] theorem State.memWrite_header (a : Addr) (w : Word) : (s.memWrite a w).header = s.header := rfl
@[simp] theorem State.memWrite_windows (a : Addr) (w : Word) : (s.memWrite a w).windows = s.windows := rfl
@[simp] theorem State.memWrite_recs (a : Addr) (w : Word) : (s.memWrite a w).recs = s.recs := rfl
@[simp] theorem State.memWrite_leases (a : Addr) (w : Word) : (s.memWrite a w).leases = s.leases := rfl
@[simp] theorem State.memWrite_tick (a : Addr) (w : Word) : (s.memWrite a w).tick = s.tick := rfl
@[simp] theorem State.memWrite_rings (a : Addr) (w : Word) : (s.memWrite a w).rings = s.rings := rfl
@[simp] theorem State.memWrite_locks (a : Addr) (w : Word) : (s.memWrite a w).locks = s.locks := rfl
@[simp] theorem State.memWrite_chans (a : Addr) (w : Word) : (s.memWrite a w).chans = s.chans := rfl
@[simp] theorem State.memWrite_lastChan (a : Addr) (w : Word) : (s.memWrite a w).lastChan = s.lastChan := rfl
@[simp] theorem State.memWrite_reqs (a : Addr) (w : Word) : (s.memWrite a w).reqs = s.reqs := rfl
@[simp] theorem State.memWrite_inProg (a : Addr) (w : Word) : (s.memWrite a w).inProg = s.inProg := rfl
@[simp] theorem State.memWrite_lastGrant (a : Addr) (w : Word) : (s.memWrite a w).lastGrant = s.lastGrant := rfl
@[simp] theorem State.memWrite_fault (a : Addr) (w : Word) : (s.memWrite a w).fault = s.fault := rfl
@[simp] theorem State.memWrite_mem (a : Addr) (w : Word) : (s.memWrite a w).mem = Mem.set s.mem a.toNat (goodCell w) := rfl
@[simp] theorem State.memWrite_powerOns (a : Addr) (w : Word) : (s.memWrite a w).powerOns = s.powerOns := rfl
@[simp] theorem State.memWrite_freeUse (a : Addr) (w : Word) : (s.memWrite a w).freeUse = s.freeUse := rfl
@[simp] theorem State.memWrite_pending (a : Addr) (w : Word) : (s.memWrite a w).pending = s.pending := rfl

@[simp] theorem State.completeCycle_part (p : PortId) (e : CycleEnd) : (s.completeCycle p e).part = s.part := rfl
@[simp] theorem State.completeCycle_ponn (p : PortId) (e : CycleEnd) : (s.completeCycle p e).ponn = s.ponn := rfl
@[simp] theorem State.completeCycle_rstn (p : PortId) (e : CycleEnd) : (s.completeCycle p e).rstn = s.rstn := rfl
@[simp] theorem State.completeCycle_kind (p : PortId) (e : CycleEnd) : (s.completeCycle p e).kind = s.kind := rfl
@[simp] theorem State.completeCycle_ctls (p : PortId) (e : CycleEnd) : (s.completeCycle p e).ctls = s.ctls := rfl
@[simp] theorem State.completeCycle_header (p : PortId) (e : CycleEnd) : (s.completeCycle p e).header = s.header := rfl
@[simp] theorem State.completeCycle_windows (p : PortId) (e : CycleEnd) : (s.completeCycle p e).windows = s.windows := rfl
@[simp] theorem State.completeCycle_recs (p : PortId) (e : CycleEnd) : (s.completeCycle p e).recs = s.recs := rfl
@[simp] theorem State.completeCycle_leases (p : PortId) (e : CycleEnd) : (s.completeCycle p e).leases = s.leases := rfl
@[simp] theorem State.completeCycle_tick (p : PortId) (e : CycleEnd) : (s.completeCycle p e).tick = s.tick := rfl
@[simp] theorem State.completeCycle_rings (p : PortId) (e : CycleEnd) : (s.completeCycle p e).rings = s.rings := rfl
@[simp] theorem State.completeCycle_locks (p : PortId) (e : CycleEnd) : (s.completeCycle p e).locks = s.locks := rfl
@[simp] theorem State.completeCycle_chans (p : PortId) (e : CycleEnd) : (s.completeCycle p e).chans = s.chans := rfl
@[simp] theorem State.completeCycle_lastChan (p : PortId) (e : CycleEnd) : (s.completeCycle p e).lastChan = s.lastChan := rfl
@[simp] theorem State.completeCycle_reqs (p : PortId) (e : CycleEnd) : (s.completeCycle p e).reqs = s.reqs := rfl
@[simp] theorem State.completeCycle_inProg (p : PortId) (e : CycleEnd) : (s.completeCycle p e).inProg = s.inProg := rfl
@[simp] theorem State.completeCycle_lastGrant (p : PortId) (e : CycleEnd) : (s.completeCycle p e).lastGrant = s.lastGrant := rfl
@[simp] theorem State.completeCycle_fault (p : PortId) (e : CycleEnd) : (s.completeCycle p e).fault = s.fault := rfl
@[simp] theorem State.completeCycle_mem (p : PortId) (e : CycleEnd) : (s.completeCycle p e).mem = s.mem := rfl
@[simp] theorem State.completeCycle_powerOns (p : PortId) (e : CycleEnd) : (s.completeCycle p e).powerOns = s.powerOns := rfl
@[simp] theorem State.completeCycle_freeUse (p : PortId) (e : CycleEnd) : (s.completeCycle p e).freeUse = s.freeUse := rfl
@[simp] theorem State.completeCycle_pending (p : PortId) (e : CycleEnd) : (s.completeCycle p e).pending = s.pending := rfl

@[simp] theorem State.setWait_part (p : PortId) (w : CycleWait) : (s.setWait p w).part = s.part := rfl
@[simp] theorem State.setWait_ponn (p : PortId) (w : CycleWait) : (s.setWait p w).ponn = s.ponn := rfl
@[simp] theorem State.setWait_rstn (p : PortId) (w : CycleWait) : (s.setWait p w).rstn = s.rstn := rfl
@[simp] theorem State.setWait_kind (p : PortId) (w : CycleWait) : (s.setWait p w).kind = s.kind := rfl
@[simp] theorem State.setWait_ctls (p : PortId) (w : CycleWait) : (s.setWait p w).ctls = s.ctls := rfl
@[simp] theorem State.setWait_header (p : PortId) (w : CycleWait) : (s.setWait p w).header = s.header := rfl
@[simp] theorem State.setWait_windows (p : PortId) (w : CycleWait) : (s.setWait p w).windows = s.windows := rfl
@[simp] theorem State.setWait_recs (p : PortId) (w : CycleWait) : (s.setWait p w).recs = s.recs := rfl
@[simp] theorem State.setWait_leases (p : PortId) (w : CycleWait) : (s.setWait p w).leases = s.leases := rfl
@[simp] theorem State.setWait_tick (p : PortId) (w : CycleWait) : (s.setWait p w).tick = s.tick := rfl
@[simp] theorem State.setWait_rings (p : PortId) (w : CycleWait) : (s.setWait p w).rings = s.rings := rfl
@[simp] theorem State.setWait_locks (p : PortId) (w : CycleWait) : (s.setWait p w).locks = s.locks := rfl
@[simp] theorem State.setWait_chans (p : PortId) (w : CycleWait) : (s.setWait p w).chans = s.chans := rfl
@[simp] theorem State.setWait_lastChan (p : PortId) (w : CycleWait) : (s.setWait p w).lastChan = s.lastChan := rfl
@[simp] theorem State.setWait_reqs (p : PortId) (w : CycleWait) : (s.setWait p w).reqs = s.reqs := rfl
@[simp] theorem State.setWait_inProg (p : PortId) (w : CycleWait) : (s.setWait p w).inProg = s.inProg := rfl
@[simp] theorem State.setWait_lastGrant (p : PortId) (w : CycleWait) : (s.setWait p w).lastGrant = s.lastGrant := rfl
@[simp] theorem State.setWait_fault (p : PortId) (w : CycleWait) : (s.setWait p w).fault = s.fault := rfl
@[simp] theorem State.setWait_mem (p : PortId) (w : CycleWait) : (s.setWait p w).mem = s.mem := rfl
@[simp] theorem State.setWait_powerOns (p : PortId) (w : CycleWait) : (s.setWait p w).powerOns = s.powerOns := rfl
@[simp] theorem State.setWait_freeUse (p : PortId) (w : CycleWait) : (s.setWait p w).freeUse = s.freeUse := rfl
@[simp] theorem State.setWait_pending (p : PortId) (w : CycleWait) : (s.setWait p w).pending = s.pending := rfl

end

end Sys2Proof.Machine
end

