-- ==== Sys2Proof/Laws/Memory.lean ====
section
/-! SUPPORT. Memory: the canonical form and its keeping by every memory operation, what a read gives after a write, and that
equal canonical memories are equal data. -/

namespace Sys2Proof.Machine

/-! ## The canonical form -/

theorem Mem.wfFrom_mono {lo hi : Nat} (h : lo ≤ hi) : ∀ {m : Memory}, Mem.wfFrom hi m = true → Mem.wfFrom lo m = true
  | [], _ => rfl
  | (a, _) :: m, w => by
    simp only [Mem.wfFrom, Bool.and_eq_true, decide_eq_true_eq] at w ⊢
    exact ⟨⟨le_trans h w.1.1, w.1.2⟩, w.2⟩

/-- Writing a cell keeps the canonical form. -/
theorem Mem.wfFrom_set {a : Nat} (ha : a < 262144) (c : MemCell) :
    ∀ {lo : Nat} {m : Memory}, lo ≤ a → Mem.wfFrom lo m = true → Mem.wfFrom lo (Mem.set m a c) = true
  | lo, [], hl, _ => by simp [Mem.set, Mem.wfFrom, hl, ha]
  | lo, (b, d) :: m, hl, w => by
    simp only [Mem.wfFrom, Bool.and_eq_true, decide_eq_true_eq] at w
    unfold Mem.set
    split
    · next h =>
      simp only [Mem.wfFrom, Bool.and_eq_true, decide_eq_true_eq]
      exact ⟨⟨hl, ha⟩, ⟨⟨h, w.1.2⟩, w.2⟩⟩
    · split
      · next h => subst h; simpa [Mem.wfFrom, ha, hl] using w.2
      · next h h' =>
        simp only [Mem.wfFrom, Bool.and_eq_true, decide_eq_true_eq]
        exact ⟨w.1, Mem.wfFrom_set ha c (by omega) w.2⟩

/-- Writing at an address keeps the canonical form. -/
theorem Mem.wf_set {m : Memory} (a : Addr) (c : MemCell) (h : Mem.wf m = true) : Mem.wf (Mem.set m a.toNat c) = true :=
  Mem.wfFrom_set (by have := a.isLt; simpa using this) c (Nat.zero_le _) h

/-! ## Reading after writing -/

/-- The written address reads as the written cell. -/
theorem Mem.get?_set_same (a : Nat) (c : MemCell) : ∀ m : Memory, Mem.get? (Mem.set m a c) a = some c
  | [] => by simp [Mem.set, Mem.get?]
  | (b, d) :: m => by
    unfold Mem.set
    split
    · simp [Mem.get?]
    · split
      · simp [Mem.get?]
      · next h h' => simp [Mem.get?, h, h', Mem.get?_set_same a c m]

/-- A list whose first address lies above `x` does not list `x`. -/
theorem Mem.get?_below {x : Nat} : ∀ {lo : Nat} {m : Memory}, x < lo → Mem.wfFrom lo m = true → Mem.get? m x = none
  | _, [], _, _ => rfl
  | _, (b, _) :: _, h, w => by
    simp only [Mem.wfFrom, Bool.and_eq_true, decide_eq_true_eq] at w
    simp [Mem.get?, show x < b by omega]

/-- Every other address of a canonical memory reads as before. -/
theorem Mem.get?_set_other {a x : Nat} (hx : x ≠ a) (c : MemCell) :
    ∀ {lo : Nat} {m : Memory}, Mem.wfFrom lo m = true → Mem.get? (Mem.set m a c) x = Mem.get? m x
  | _, [], _ => by simp [Mem.set, Mem.get?, hx]
  | lo, (b, d) :: m, w => by
    simp only [Mem.wfFrom, Bool.and_eq_true, decide_eq_true_eq] at w
    unfold Mem.set
    split
    · next h =>
      by_cases hxa : x < a
      · simp [Mem.get?, hxa, show x < b by omega]
      · simp [Mem.get?, hxa, hx]
    · split
      · next h h' =>
        subst h'
        by_cases hxa : x < a
        · simp [Mem.get?, hxa]
        · simp [Mem.get?, hxa, hx]
      · next h h' =>
        simp only [Mem.get?, Mem.get?_set_other hx c w.2]

/-- What the memory holds at the written address. -/
theorem State.cellAt_memWrite_same (s : State) (a : Addr) (w : Word) : (s.memWrite a w).cellAt a = goodCell w := by
  simp [State.cellAt, Mem.get?_set_same]

/-- What the memory holds at every other address. -/
theorem State.cellAt_memWrite_other (s : State) {a x : Addr} (w : Word) (h : Mem.wf s.mem = true) (hx : x ≠ a) :
    (s.memWrite a w).cellAt x = s.cellAt x := by
  have : x.toNat ≠ a.toNat := fun e => hx (BitVec.eq_of_toNat_eq e)
  simp [State.cellAt, Mem.get?_set_other this (goodCell w) h]

/-- A stored word never has a parity error (R142). -/
theorem goodCell_not_bad (w : Word) : (goodCell w).bad = false := by
  simp [goodCell, MemCell.bad, parityFor]

/-! ## The memory operations of the state -/

theorem State.memWrite_wf {s : State} (a : Addr) (w : Word) (h : Mem.wf s.mem = true) :
    Mem.wf (s.memWrite a w).mem = true := Mem.wf_set a _ h

theorem State.memUpset_wf {s : State} (a : Addr) (u : Upset) (h : Mem.wf s.mem = true) :
    Mem.wf (s.memUpset a u).mem = true := by
  unfold State.memUpset
  split
  · exact h
  · split
    · exact Mem.wf_set a _ h
    · exact h

/-- Flips never mend a cell (R144). -/
theorem MemCell.flipped_bad {c : MemCell} (u : Upset) (h : c.bad = true) : (c.flipped u).bad = true := by
  unfold MemCell.flipped
  simp only [h, Bool.true_and]
  split
  · exact h
  · next k => simpa using k

/-- Without flipped bits nothing changes. -/
@[simp] theorem State.memUpset_zero (s : State) (a : Addr) : s.memUpset a 0 = s := by simp [State.memUpset]

/-- Flipped bits at one address leave every other address as it was. -/
theorem State.cellAt_memUpset_other {s : State} {a x : Addr} (u : Upset) (h : Mem.wf s.mem = true) (hx : x ≠ a) :
    (s.memUpset a u).cellAt x = s.cellAt x := by
  have hn : x.toNat ≠ a.toNat := fun e => hx (BitVec.eq_of_toNat_eq e)
  unfold State.memUpset
  split
  · rfl
  · split
    · next c _ => simp only [State.cellAt]; rw [Mem.get?_set_other hn _ h]
    · rfl

/-- Flipped bits change the memory only. -/
theorem State.memUpset_eq (s : State) (a : Addr) (u : Upset) : s.memUpset a u = { s with mem := (s.memUpset a u).mem } := by
  unfold State.memUpset
  split
  · rfl
  · split <;> rfl

theorem State.memEffect_wf {s : State} (q : Request) (u : Upset) (h : Mem.wf s.mem = true) :
    Mem.wf (s.memEffect q u).mem = true := by
  unfold State.memEffect
  split
  · exact State.memUpset_wf _ _ h
  · exact State.memWrite_wf _ _ h
  · exact State.memWrite_wf _ _ h

/-- An access changes the memory only. -/
theorem State.memEffect_eq (s : State) (q : Request) (u : Upset) :
    s.memEffect q u = { s with mem := (s.memEffect q u).mem } := by
  unfold State.memEffect
  split
  · exact State.memUpset_eq _ _ _
  · rfl
  · rfl

/-- An access changes no address but its own. -/
theorem State.cellAt_memEffect_other {s : State} {q : Request} {x : Addr} (u : Upset) (h : Mem.wf s.mem = true)
    (hx : x ≠ q.addr) : (s.memEffect q u).cellAt x = s.cellAt x := by
  unfold State.memEffect
  split
  · exact State.cellAt_memUpset_other _ h hx
  · exact State.cellAt_memWrite_other _ _ h hx
  · exact State.cellAt_memWrite_other _ _ h hx

/-- The memory after reset is canonical. -/
theorem State.reset_mem_wf : Mem.wf State.reset.mem = true := rfl

/-! ## Equal memories are equal data -/

theorem Mem.ext_from : ∀ {lo : Nat} {m n : Memory}, Mem.wfFrom lo m = true → Mem.wfFrom lo n = true →
    (∀ x, Mem.get? m x = Mem.get? n x) → m = n
  | _, [], [], _, _, _ => rfl
  | _, [], (b, d) :: n, _, _, e => by have := e b; simp [Mem.get?] at this
  | _, (b, d) :: m, [], _, _, e => by have := e b; simp [Mem.get?] at this
  | lo, (a, c) :: m, (b, d) :: n, w, v, e => by
    simp only [Mem.wfFrom, Bool.and_eq_true, decide_eq_true_eq] at w v
    have hab : a = b := by
      rcases lt_trichotomy a b with h | h | h
      · have := e a; simp [Mem.get?, h] at this
      · exact h
      · have := e b; simp [Mem.get?, h] at this
    subst hab
    have hcd : c = d := by have := e a; simpa [Mem.get?] using this
    subst hcd
    have : m = n := Mem.ext_from w.2 v.2 fun x => by
      rcases lt_trichotomy x a with h | h | h
      · rw [Mem.get?_below (by omega) w.2, Mem.get?_below (by omega) v.2]
      · rw [Mem.get?_below (by omega) w.2, Mem.get?_below (by omega) v.2]
      · have := e x
        simpa [Mem.get?, show ¬ x < a by omega, show ¬ x = a by omega] using this
    rw [this]

/-- Two canonical memories that list the same cells are the same list. -/
theorem Mem.ext {m n : Memory} (hm : Mem.wf m = true) (hn : Mem.wf n = true) (h : ∀ x, Mem.get? m x = Mem.get? n x) :
    m = n := Mem.ext_from hm hn h

end Sys2Proof.Machine
end

