-- ==== Sys2Proof/Laws/Quiet.lean ====
section
/-! SUPPORT. What the blocks below the table unit can do, said once: `Quiet s t` holds between the states before and after each
of their operations. They leave the shadow, the part's state, the memory and the queue as they were, change no port's
state, and change a controller by deliveries alone. Each operation has one lemma here, in the form that extends a chain. -/

namespace Sys2Proof.Machine

/-- The shadow (bindings apart), the part's state, memory and queue are the same. -/
def KeepsConfig (s t : State) : Prop :=
  t.part = s.part ∧ t.ponn = s.ponn ∧ t.rstn = s.rstn ∧ t.kind = s.kind ∧ t.header = s.header ∧
    t.windows = s.windows ∧ t.recs = s.recs ∧ t.leases = s.leases ∧ t.tick = s.tick ∧ t.lastGrant = s.lastGrant ∧
    t.mem = s.mem ∧ t.powerOns = s.powerOns ∧ t.freeUse = s.freeUse ∧ t.pending = s.pending

/-- The port's part in start-up control is the same. -/
def KeepsPort (a b : Port) : Prop :=
  b.state = a.state ∧ b.prstn = a.prstn ∧ b.dropped = a.dropped ∧ b.teardown = a.teardown

/-- The controller has changed by deliveries alone, of sources that it takes. -/
def KeepsCtl (takes : Source → Bool) (a b : Controller) : Prop :=
  b.mask = a.mask ∧ b.threshold = a.threshold ∧ b.inService = a.inService ∧ b.rotation = a.rotation ∧
    b.taken = a.taken ∧
    ∀ i : SlotId, b.slots[i].binding = a.slots[i].binding ∧
      (b.slots[i].notice = a.slots[i].notice ∨ ∃ x, a.slots[i].binding = some x ∧ takes x.source = true)

/-- See the head of this file. -/
structure Quiet (s t : State) : Prop where
  config : KeepsConfig s t
  ports : ∀ p : PortId, KeepsPort s.ports[p] t.ports[p]
  ctls : ∀ p : PortId, KeepsCtl (s.takesDelivery p) s.ctls[p] t.ctls[p]

theorem KeepsConfig.refl (s : State) : KeepsConfig s s :=
  ⟨rfl, rfl, rfl, rfl, rfl, rfl, rfl, rfl, rfl, rfl, rfl, rfl, rfl, rfl⟩

theorem KeepsConfig.trans {s t u : State} (h : KeepsConfig s t) (k : KeepsConfig t u) : KeepsConfig s u := by
  obtain ⟨a1, a2, a3, a4, a5, a6, a7, a8, a9, a10, a11, a12, a13, a14⟩ := h
  obtain ⟨b1, b2, b3, b4, b5, b6, b7, b8, b9, b10, b11, b12, b13, b14⟩ := k
  exact ⟨b1.trans a1, b2.trans a2, b3.trans a3, b4.trans a4, b5.trans a5, b6.trans a6, b7.trans a7, b8.trans a8,
    b9.trans a9, b10.trans a10, b11.trans a11, b12.trans a12, b13.trans a13, b14.trans a14⟩

theorem KeepsPort.refl (a : Port) : KeepsPort a a := ⟨rfl, rfl, rfl, rfl⟩

theorem KeepsPort.trans {a b c : Port} (h : KeepsPort a b) (k : KeepsPort b c) : KeepsPort a c :=
  ⟨k.1.trans h.1, k.2.1.trans h.2.1, k.2.2.1.trans h.2.2.1, k.2.2.2.trans h.2.2.2⟩

theorem KeepsCtl.refl (f : Source → Bool) (a : Controller) : KeepsCtl f a a :=
  ⟨rfl, rfl, rfl, rfl, rfl, fun _ => ⟨rfl, .inl rfl⟩⟩

theorem KeepsCtl.trans {f : Source → Bool} {a b c : Controller} (h : KeepsCtl f a b) (k : KeepsCtl f b c) :
    KeepsCtl f a c := by
  obtain ⟨h1, h2, h3, h4, h5, h6⟩ := h
  obtain ⟨k1, k2, k3, k4, k5, k6⟩ := k
  refine ⟨k1.trans h1, k2.trans h2, k3.trans h3, k4.trans h4, k5.trans h5, fun i => ⟨(k6 i).1.trans (h6 i).1, ?_⟩⟩
  rcases (k6 i).2 with e | ⟨x, e, g⟩
  · rcases (h6 i).2 with e' | w
    · exact .inl (e.trans e')
    · exact .inr w
  · exact .inr ⟨x, (h6 i).1 ▸ e, g⟩

theorem Quiet.refl (s : State) : Quiet s s := ⟨.refl s, fun _ => .refl _, fun _ => .refl _ _⟩

/-- Whether a controller takes a delivery depends on nothing that a quiet operation changes. -/
theorem Quiet.takes {s t : State} (h : Quiet s t) (p : PortId) : t.takesDelivery p = s.takesDelivery p := by
  funext src
  unfold State.takesDelivery
  rw [(h.ports p).1, h.config.1]

theorem Quiet.trans {s t u : State} (h : Quiet s t) (k : Quiet t u) : Quiet s u :=
  ⟨h.config.trans k.config, fun p => (h.ports p).trans (k.ports p), fun p => (h.ctls p).trans (h.takes p ▸ k.ctls p)⟩

/-- A change of nothing but the objects and the memory port. -/
theorem Quiet.of_same {s t u : State} (h : Quiet s t) (c : KeepsConfig t u) (p : u.ports = t.ports)
    (k : u.ctls = t.ctls) : Quiet s u :=
  h.trans ⟨c, fun _ => p ▸ .refl _, fun _ => k ▸ .refl _ _⟩

/-- A fold of quiet steps is quiet. -/
theorem Quiet.foldl {α : Type} {f : State → α → State} (hf : ∀ {s t : State} (a : α), Quiet s t → Quiet s (f t a)) :
    ∀ (l : List α) {s t : State}, Quiet s t → Quiet s (l.foldl f t)
  | [], _, _, h => h
  | a :: l, _, _, h => Quiet.foldl hf l (hf a h)

section
variable {s t : State} (h : Quiet s t)
include h

theorem Quiet.modRing (r : RingId) (f : Ring → Ring) : Quiet s (t.modRing r f) := h.of_same (.refl t) rfl rfl
theorem Quiet.modLock (l : LockId) (f : Lock → Lock) : Quiet s (t.modLock l f) := h.of_same (.refl t) rfl rfl
theorem Quiet.modChan (c : ChanId) (f : Chan → Chan) : Quiet s (t.modChan c f) := h.of_same (.refl t) rfl rfl
theorem Quiet.modReq (q : Fin 5) (f : Option Request → Option Request) : Quiet s (t.modReq q f) :=
  h.of_same (.refl t) rfl rfl
theorem Quiet.withInProg (a : Option Access) : Quiet s { t with inProg := a } := h.of_same (.refl t) rfl rfl
theorem Quiet.withFault (a : Option FaultRec) : Quiet s { t with fault := a } := h.of_same (.refl t) rfl rfl
theorem Quiet.withLastChan (c : ChanId) : Quiet s { t with lastChan := c } := h.of_same (.refl t) rfl rfl

/-- A change of one port that keeps its part in start-up control. -/
theorem Quiet.modPort (p : PortId) (f : Port → Port) (hf : ∀ pt, KeepsPort pt (f pt)) : Quiet s (t.modPort p f) := by
  refine h.trans ⟨.refl t, fun q => ?_, fun q => .refl _ _⟩
  show KeepsPort t.ports[q] (upd t.ports p f)[q]
  rw [upd_get]
  split
  · exact hf _
  · exact .refl _

theorem Quiet.completeCycle (p : PortId) (e : CycleEnd) : Quiet s (t.completeCycle p e) := by
  refine h.modPort p _ fun pt => ?_
  cases hc : pt.cycle <;> simp [KeepsPort]

theorem Quiet.completeRead (p : PortId) (w : Word) : Quiet s (t.completeRead p w) := h.completeCycle p _

theorem Quiet.completeWrite (p : PortId) : Quiet s (t.completeWrite p) := h.completeCycle p _

theorem Quiet.setWait (p : PortId) (w : CycleWait) : Quiet s (t.setWait p w) :=
  h.modPort p _ fun _ => ⟨rfl, rfl, rfl, rfl⟩

/-- A delivery that is taken latches into the slot bound to its source (R37, R38). -/
theorem Quiet.deliver (p : PortId) (src : Source) (d : Word) : Quiet s (t.deliver p src d) := by
  unfold State.deliver
  split
  · next ht =>
    cases hb : t.boundSlot p src with
    | none => exact h
    | some i =>
      refine h.trans ⟨.refl t, fun q => .refl _, fun q => ?_⟩
      show KeepsCtl _ t.ctls[q] (upd t.ctls p _)[q]
      rw [upd_get]
      split
      · next e =>
        subst e
        refine ⟨rfl, rfl, rfl, rfl, rfl, fun j => ?_⟩
        rw [upd_get]
        split
        · next e =>
          subst e
          refine ⟨rfl, .inr ?_⟩
          have hs := List.find?_some hb
          simp only [decide_eq_true_eq, Option.map_eq_some_iff] at hs
          obtain ⟨x, hx, hsrc⟩ := hs
          exact ⟨x, hx, by rw [hsrc]; exact ht⟩
        · exact ⟨rfl, .inl rfl⟩
      · exact .refl _ _
  · exact h

theorem Quiet.refuse (p : PortId) (r : Reason) : Quiet s (t.refuse p r) := by
  unfold State.refuse
  split
  · exact h
  · refine ((h.modPort p _ ?_).deliver p _ _).completeCycle p _
    exact fun _ => ⟨rfl, rfl, rfl, rfl⟩

theorem Quiet.reportParity (a : Addr) (c : Nat) : Quiet s (t.reportParity a c) := (h.withFault _).deliver 0 _ _

theorem Quiet.rejectTable (n : Nat) (r : TableReason) : Quiet s (t.rejectTable n r) := h.deliver 0 _ _

/-! ## Lock unit -/

theorem Quiet.grantLock (l : LockId) (c : Claimant) : Quiet s (t.grantLock l c) := h.modLock _ _
theorem Quiet.queueLock (l : LockId) (c : Claimant) : Quiet s (t.queueLock l c) := h.modLock _ _
theorem Quiet.dropWaiters (l : LockId) (f : Claimant → Bool) : Quiet s (t.dropWaiters l f) := h.modLock _ _

theorem Quiet.announceGrant (l : LockId) (c : Claimant) : Quiet s (t.announceGrant l c) := by
  cases c
  · exact h.deliver _ _ _
  · exact h.modChan _ _

theorem Quiet.releaseLock (l : LockId) : Quiet s (t.releaseLock l) := by
  unfold State.releaseLock
  split
  · exact h.modLock _ _
  · exact ((h.modLock _ _).grantLock _ _).announceGrant _ _

theorem Quiet.readLock (w : Bool) (p : PortId) (l : LockId) : Quiet s (t.readLock w p l).1 := by
  unfold State.readLock
  repeat' split
  all_goals first | exact h.grantLock _ _ | exact h.queueLock _ _ | exact h

theorem Quiet.writeLock (p : PortId) (l : LockId) : Quiet s (t.writeLock p l) := by
  unfold State.writeLock
  repeat' split
  all_goals first | exact (h.releaseLock _).completeWrite _ | exact (h.dropWaiters _ _).completeWrite _ | exact h.refuse _ _

theorem Quiet.acquireForChan (c : ChanId) (l : LockId) : Quiet s (t.acquireForChan c l) := by
  unfold State.acquireForChan
  split
  · exact (h.grantLock _ _).modChan _ _
  · exact (h.queueLock _ _).modChan _ _

theorem Quiet.releaseForChan (c : ChanId) (l : LockId) : Quiet s (t.releaseForChan c l) := by
  unfold State.releaseForChan
  split
  · exact h.releaseLock _
  · exact h.dropWaiters _ _

/-! ## Ring engine -/

theorem Quiet.issueRing (r : RingId) (q : Post) (d : Dir) (a : Addr) : Quiet s (t.issueRing r q d a) := by
  unfold State.issueRing
  split
  · exact ((h.modRing _ _).modReq _ _).setWait _ _
  · exact h.modRing _ _

theorem Quiet.issuePost (r : RingId) (q : Post) : Quiet s (t.issuePost r q) := h.issueRing _ _ _ _

theorem Quiet.openPost (r : RingId) (q : Post) : Quiet s (t.openPost r q) := by
  unfold State.openPost
  dsimp only
  split
  · split
    · exact ((h.modRing _ _).modRing _ _).setWait _ _
    · exact (h.modRing _ _).modRing _ _
  · exact (h.modRing _ _).issuePost _ _

theorem Quiet.unstall (q : Post) : Quiet s (t.unstall q) := by
  unfold State.unstall
  repeat' split
  all_goals first | exact h.modChan _ _ | exact h

theorem Quiet.openHead (r : RingId) : Quiet s (t.openHead r) := by
  unfold State.openHead
  repeat' split
  all_goals first | exact ((h.modRing _ _).unstall _).openPost _ _ | exact h

theorem Quiet.joinStall (r : RingId) (q : Post) : Quiet s (t.joinStall r q) := by
  unfold State.joinStall
  dsimp only
  repeat' split
  all_goals first | exact (h.modRing _ _).setWait _ _ | exact (h.modRing _ _).modChan _ _ | exact h.modRing _ _

theorem Quiet.postWritten (r : RingId) : Quiet s (t.postWritten r) := by
  unfold State.postWritten
  repeat' split
  all_goals first | exact (h.modRing _ _).openHead _ | exact h.modRing _ _ | exact h

theorem Quiet.tellSpace (r : RingId) (b : Bool) : Quiet s (t.tellSpace r b) := by
  unfold State.tellSpace
  split
  · exact h.deliver _ _ _
  · exact h

theorem Quiet.takeRead (r : RingId) : Quiet s (t.takeRead r) := by
  unfold State.takeRead
  repeat' split
  all_goals first | exact ((h.modRing _ _).tellSpace _ _).openHead _ | exact h.modRing _ _ | exact h

theorem Quiet.dropAssembly (c : Claimant) (r : RingId) : Quiet s (t.dropAssembly c r) := by
  unfold State.dropAssembly
  dsimp only
  split
  · exact (h.modRing _ _).openHead _
  · exact h.modRing _ _

theorem Quiet.closeAssembly (c : ChanId) (r : RingId) : Quiet s (t.closeAssembly c r) := by
  unfold State.closeAssembly
  split
  · exact h.modRing _ _
  · exact h.dropAssembly _ _

theorem Quiet.closeAssemblies (c : ChanId) : Quiet s (t.closeAssemblies c) := Quiet.foldl (fun _ k => k.closeAssembly _ _) _ h

theorem Quiet.finishLeaving (r : RingId) (f : InFlight) : Quiet s (t.finishLeaving r f) := by
  unfold State.finishLeaving
  repeat' split
  all_goals first | exact h.dropAssembly _ _ | exact h

/-! ## Ends of runs -/

theorem Quiet.deliverDone (c : ChanId) (st : Status) : Quiet s (t.deliverDone c st) := by
  unfold State.deliverDone
  split
  · exact h.deliver _ _ _
  · exact h

theorem Quiet.withdrawFromRings (c : ChanId) : Quiet s (t.withdrawFromRings c) := by
  unfold State.withdrawFromRings
  split
  · exact (h.modRing _ _).closeAssemblies _
  · exact h.closeAssemblies _

theorem Quiet.finishLockFree (c : ChanId) : Quiet s (t.finishLockFree c) := by
  unfold State.finishLockFree
  split
  · exact h.completeWrite _
  · exact h

theorem Quiet.leaveLock (c : ChanId) : Quiet s (t.leaveLock c) := by
  unfold State.leaveLock
  split
  · exact h.releaseForChan _ _
  · exact h

theorem Quiet.endRun (c : ChanId) (st : Status) : Quiet s (t.endRun c st) :=
  ((((h.modChan _ _).withdrawFromRings _).leaveLock _).deliverDone _ _).finishLockFree _

theorem Quiet.leaveQueue (c : ChanId) : Quiet s (t.leaveQueue c) := by
  unfold State.leaveQueue
  repeat' split
  all_goals first | exact (h.leaveLock _).modRing _ _ | exact h.leaveLock _ | exact h.modRing _ _ | exact h

theorem Quiet.stopRun (c : ChanId) (st : Status) : Quiet s (t.stopRun c st) := by
  unfold State.stopRun
  split
  · exact (h.leaveQueue _).modChan _ _
  · exact h.endRun _ _

theorem Quiet.stopChan (c : ChanId) (st : Status) : Quiet s (t.stopChan c st) := by
  unfold State.stopChan
  repeat' split
  all_goals first | exact h.stopRun _ _ | exact h

theorem Quiet.settleStop (c : ChanId) : Quiet s (t.settleStop c) := by
  unfold State.settleStop
  repeat' split
  all_goals first | exact h.endRun _ _ | exact h

theorem Quiet.detachChan (c : ChanId) : Quiet s (t.detachChan c) := h.of_same (.refl t) rfl rfl

theorem Quiet.endRunByReset (c : ChanId) (st : Status) : Quiet s (t.endRunByReset c st) :=
  (((h.modChan _ _).closeAssemblies _).leaveLock _).deliverDone _ _

theorem Quiet.stopByReset (c : ChanId) : Quiet s (t.stopByReset c) := by
  unfold State.stopByReset
  split
  · exact h
  · exact (h.detachChan _).endRunByReset _ _

/-! ## Take-up and ring reset -/

theorem Quiet.refuseFull (r : RingId) (p : PortId) : Quiet s (t.refuseFull r p) := (h.deliver _ _ _).refuse _ _

theorem Quiet.takeUpPost (r : RingId) (q : Post) : Quiet s (t.takeUpPost r q) := by
  unfold State.takeUpPost
  repeat' split
  all_goals first
    | exact h.refuse _ _ | exact h.stopChan _ _ | exact h.issuePost _ _ | exact h.openPost _ _ | exact h.joinStall _ _
    | exact h.refuseFull _ _

theorem Quiet.takeUpTake (r : RingId) (p : PortId) : Quiet s (t.takeUpTake r p) := by
  unfold State.takeUpTake
  dsimp only
  repeat' split
  all_goals first | exact h.refuse _ _ | exact h.issueRing _ _ _ _ | exact (h.modRing _ _).issueRing _ _ _ _

theorem Quiet.takeUp (r : RingId) (i : HoldItem) : Quiet s (t.takeUp r i) := by
  cases i
  · exact h.takeUpPost _ _
  · exact h.takeUpTake _ _

theorem Quiet.holdWait (r : RingId) (i : HoldItem) : Quiet s (t.holdWait r i) := by
  unfold State.holdWait
  repeat' split
  all_goals first | exact h.setWait _ _ | exact h

theorem Quiet.ringArrive (r : RingId) (i : HoldItem) : Quiet s (t.ringArrive r i) := by
  unfold State.ringArrive
  split
  · exact (h.modRing _ _).holdWait _ _
  · exact h.takeUp _ _

end

theorem Quiet.takeUpHold (r : RingId) : ∀ (n : Nat) {s t : State}, Quiet s t → Quiet s (t.takeUpHold r n)
  | 0, _, _, h => h
  | n + 1, s, t, h => by
    unfold State.takeUpHold
    repeat' split
    all_goals first | exact h | exact Quiet.takeUpHold r n ((h.modRing _ _).takeUp _ _)

section
variable {s t : State} (h : Quiet s t)
include h

theorem Quiet.resumeRing (r : RingId) : Quiet s (t.resumeRing r) := by
  unfold State.resumeRing
  repeat' split
  all_goals first | exact h | exact (h.modRing _ _).issuePost _ _ | exact Quiet.takeUpHold _ _ h

theorem Quiet.resetClaimant (q : Post) : Quiet s (t.resetClaimant q) := by
  unfold State.resetClaimant
  repeat' split
  all_goals first | exact h.refuse _ _ | exact h.stopByReset _

theorem Quiet.resetAwaiting (q : Option Post) : Quiet s (t.resetAwaiting q) := by
  unfold State.resetAwaiting
  repeat' split
  all_goals first | exact h.refuse _ _ | exact h

theorem Quiet.resetOwner (a : Option PostAsm) : Quiet s (t.resetOwner a) := by
  unfold State.resetOwner
  repeat' split
  all_goals first | exact h.stopByReset _ | exact h

theorem Quiet.resetRing (r : RingId) : Quiet s (t.resetRing r) := by
  unfold State.resetRing
  refine Quiet.resetOwner (Quiet.foldl ?_ _ ((h.modRing _ _).resetAwaiting _)) _
  exact fun _ k => k.resetClaimant _

/-! ## Transfer engine -/

theorem Quiet.startChan (p : PortId) (c : ChanId) : Quiet s (t.startChan p c) := by
  unfold State.startChan
  dsimp only
  repeat' split
  all_goals first
    | exact h.refuse _ _ | exact ((h.modChan _ _).acquireForChan _ _).completeWrite _ | exact (h.modChan _ _).completeWrite _

theorem Quiet.abortChan (p : PortId) (c : ChanId) : Quiet s (t.abortChan p c) := by
  unfold State.abortChan
  split
  · exact (h.stopChan _ _).completeWrite _
  · exact h.refuse _ _

theorem Quiet.writeChan (p : PortId) (c : ChanId) (k : Nat) (v : Word) : Quiet s (t.writeChan p c k v) := by
  unfold State.writeChan
  repeat' split
  all_goals first
    | exact h.startChan _ _ | exact h.abortChan _ _ | exact h.refuse _ _ | exact (h.modChan _ _).completeWrite _

theorem Quiet.deliverMark (c : ChanId) : Quiet s (t.deliverMark c) := by
  unfold State.deliverMark
  repeat' split
  all_goals first | exact h.deliver _ _ _ | exact h

theorem Quiet.descComplete (c : ChanId) : Quiet s (t.descComplete c) := by
  unfold State.descComplete
  dsimp only
  split
  · exact (h.withdrawFromRings _).modChan _ _
  · exact (h.withdrawFromRings _).endRun _ _

theorem Quiet.wordDone (c : ChanId) (w : Word) : Quiet s (t.wordDone c w) := by
  have k : Quiet s ((t.modChan c fun k =>
    { k with desc := k.desc.step w, wordsDone := k.wordsDone + 1, holding := none }).deliverMark c) :=
    (h.modChan _ _).deliverMark _
  unfold State.wordDone
  dsimp only
  repeat' split
  all_goals first | exact k.settleStop _ | exact k.descComplete _ | exact k

theorem Quiet.chainLock (c : ChanId) (old new : Option LockId) : Quiet s (t.chainLock c old new) := by
  unfold State.chainLock
  dsimp only
  repeat' split
  all_goals first
    | exact h | exact (h.releaseLock _).acquireForChan _ _ | exact h.acquireForChan _ _ | exact h.releaseLock _

theorem Quiet.installDesc (c : ChanId) (ws : List Word) : Quiet s (t.installDesc c ws) := by
  unfold State.installDesc
  split
  · exact (h.modChan _ _).chainLock _ _ _
  · exact h.endRun _ _

theorem Quiet.readStopped {c : ChanId} {b : Bool} {u : State} (e : t.readStopped c b = some u) : Quiet s u := by
  unfold State.readStopped at e
  split at e
  · cases e; exact h.settleStop _
  · split at e
    · cases e; exact h.endRun _ _
    · cases e

theorem Quiet.srcReadDone (c : ChanId) (w : Word) : Quiet s (t.srcReadDone c w) := by
  unfold State.srcReadDone
  dsimp only
  repeat' split
  all_goals first | exact h.wordDone _ _ | exact (h.modChan _ _).ringArrive _ _ | exact h.modChan _ _

theorem Quiet.dstReadDone (c : ChanId) (w : Word) : Quiet s (t.dstReadDone c w) := by
  unfold State.dstReadDone
  split
  · exact h.wordDone _ _
  · exact h.endRun _ _

theorem Quiet.fetchReadDone (c : ChanId) (w : Word) : Quiet s (t.fetchReadDone c w) := by
  unfold State.fetchReadDone
  dsimp only
  split
  · exact h.installDesc _ _
  · exact h.modChan _ _

theorem Quiet.sumWriteDone (c : ChanId) : Quiet s (t.sumWriteDone c) := by
  unfold State.sumWriteDone
  split
  · exact h.settleStop _
  · exact h.descComplete _

theorem Quiet.chanAccessDone (c : ChanId) (k : ChanStep) (w : Word) (b : Bool) : Quiet s (t.chanAccessDone c k w b) := by
  unfold State.chanAccessDone
  repeat' split
  all_goals first
    | exact h.readStopped ‹_› | exact h.srcReadDone _ _ | exact h.dstReadDone _ _ | exact h.fetchReadDone _ _
    | exact h.wordDone _ _ | exact h.sumWriteDone _

theorem Quiet.presentChan (c : ChanId) : Quiet s (t.presentChan c) := by
  unfold State.presentChan
  dsimp only
  repeat' split
  all_goals first | exact h | exact ((h.withLastChan _).modRing _ _).modReq _ _ | exact (h.withLastChan _).modReq _ _

theorem Quiet.pickChan : Quiet s t.pickChan := by
  unfold State.pickChan
  repeat' split
  all_goals first | exact h | exact h.presentChan _

/-! ## Parts of a teardown, and forcing a lock -/

theorem Quiet.abandonCycle (p : PortId) : Quiet s (t.abandonCycle p) :=
  ((h.modPort p (·.abandonCycle) fun _ => ⟨rfl, rfl, rfl, rfl⟩).modReq _ _).withInProg _

theorem Quiet.tearLocks (p : PortId) : Quiet s (t.tearLocks p) := by
  unfold State.tearLocks
  refine Quiet.foldl (fun l k => ?_) _ (Quiet.foldl (fun l k => k.dropWaiters _ _) _ h)
  split
  · exact k.releaseLock _
  · exact k

theorem Quiet.settleRing (r : RingId) : Quiet s (t.settleRing r) := (h.openHead _).resumeRing _

theorem Quiet.tearRings (p : PortId) : Quiet s (t.tearRings p) := by
  unfold State.tearRings
  refine Quiet.foldl (fun l k => ?_) _ (Quiet.foldl (fun l k => k.modRing _ _) _ h)
  split
  · exact k.settleRing _
  · exact k

theorem Quiet.tearChans (p : PortId) : Quiet s (t.tearChans p) := by
  refine Quiet.foldl (fun l k => ?_) _ h
  split
  · exact k.stopChan _ _
  · exact k

theorem Quiet.endDrop (p : PortId) : Quiet s (t.endDrop p) := by
  unfold State.endDrop
  repeat' split
  all_goals first | exact h | exact h.completeWrite _ | exact h.abandonCycle _

theorem Quiet.forceLock (l : LockId) (b : Bool) : Quiet s (t.forceLock l b) := by
  unfold State.forceLock
  repeat' split
  all_goals first | exact h | exact (h.deliver _ _ _).releaseLock _ | exact (h.releaseLock _).stopChan _ _

/-! ## Access path, as far as it changes no controller -/

theorem Quiet.toMemory (p : PortId) (k : AccKind) (a : Addr) (g : Option WatchTag) : Quiet s (t.toMemory p k a g) :=
  (h.modReq _ _).setWait _ _

theorem Quiet.doRingReset (r : RingId) : Quiet s (t.doRingReset r) := by
  unfold State.doRingReset
  split
  · exact (h.resetRing _).completeWrite _
  · exact h.completeWrite _

theorem Quiet.doLockFree (l : LockId) : Quiet s (t.doLockFree l) := by
  unfold State.doLockFree
  dsimp only
  split
  · exact (h.forceLock _ _).setWait _ _
  · exact (h.forceLock _ _).completeWrite _

theorem Quiet.doClearFault : Quiet s t.doClearFault := (h.withFault _).completeWrite _

theorem Quiet.readFree (p : PortId) (r : RingId) : Quiet s (t.readFree p r) := by
  unfold State.readFree
  split
  · exact h.completeRead _ _
  · exact h.refuse _ _

theorem Quiet.ringCycle (p : PortId) (r : RingId) (o : Nat) (d : Dir) (v : Word) : Quiet s (t.ringCycle p r o d v) := by
  unfold State.ringCycle
  repeat' split
  all_goals first | exact h.ringArrive _ _ | exact h.readFree _ _

theorem Quiet.lockCycle (p : PortId) (k o : Nat) (d : Dir) : Quiet s (t.lockCycle p k o d) := by
  unfold State.lockCycle
  dsimp only
  split
  · exact (h.readLock _ _ _).completeRead _ _
  · exact h.writeLock _ _

theorem Quiet.chanCycle (p : PortId) (k o : Nat) (d : Dir) (v : Word) : Quiet s (t.chanCycle p k o d v) := by
  unfold State.chanCycle
  dsimp only
  split
  · exact h.completeRead _ _
  · exact h.writeChan _ _ _ _

theorem Quiet.rightfulCycle (p : PortId) (w : WinId) (d : Dir) (a : Addr) (v : Word) :
    Quiet s (t.rightfulCycle p w d a v) := by
  unfold State.rightfulCycle State.watchCycle
  dsimp only
  repeat' split
  all_goals first
    | exact h.toMemory _ _ _ _ | exact h.ringCycle _ _ _ _ _ | exact h.lockCycle _ _ _ _ | exact h.chanCycle _ _ _ _ _

theorem Quiet.windowCycle (p : PortId) (w : WinId) (d : Dir) (a : Addr) (v : Word) : Quiet s (t.windowCycle p w d a v) := by
  unfold State.windowCycle
  repeat' split
  all_goals first | exact h.refuse _ _ | exact h.rightfulCycle _ _ _ _ _

/-! ## Memory port -/

theorem Quiet.judge (g : Option WatchTag) (k : AccKind) (o : Option (Word × Bool)) : Quiet s (t.judge g k o) := by
  unfold State.judge
  repeat' split
  all_goals first | exact h.deliver _ _ _ | exact h

theorem Quiet.portDone (p : PortId) (k : AccKind) (w : Word) : Quiet s (t.portDone p k w) := by
  unfold State.portDone
  split
  · exact h.completeRead _ _
  · exact h.completeWrite _

theorem Quiet.ringEffect (r : RingId) (f : InFlight) : Quiet s (t.ringEffect r f) := by
  unfold State.ringEffect
  repeat' split
  all_goals first | exact h.postWritten _ | exact h.takeRead _ | exact h

theorem Quiet.ringReport (q : Request) (f : InFlight) (w : Word) : Quiet s (t.ringReport q f w) := by
  unfold State.ringReport
  repeat' split
  all_goals first | exact h.portDone _ _ _ | exact h.wordDone _ _ | exact h.settleStop _ | exact h

theorem Quiet.ringDone (r : RingId) (q : Request) (w : Word) : Quiet s (t.ringDone r q w) := by
  unfold State.ringDone
  split
  · exact h
  · exact ((((h.modRing _ _).ringEffect _ _).finishLeaving _ _).ringReport _ _ _).resumeRing _

theorem Quiet.passResult (q : Request) (w : Word) (b : Bool) : Quiet s (t.passResult q w b) := by
  unfold State.passResult
  repeat' split
  all_goals first
    | exact h | exact h.portDone _ _ _ | exact h.ringDone _ _ _ | exact h.chanAccessDone _ _ _ _ | exact h.settleStop _

theorem Quiet.reportIf (b : Bool) (a : Addr) (c : Nat) : Quiet s (t.reportIf b a c) := by
  unfold State.reportIf
  split
  · exact h.reportParity _ _
  · exact h

/-! ## Ticks -/

theorem Quiet.leaseExpires (l : LockId) : Quiet s (t.leaseExpires l) := by
  unfold State.leaseExpires
  split
  · exact h.forceLock _ _
  · exact h

theorem Quiet.stallExpires (r : RingId) (p : PortId) : Quiet s (t.stallExpires r p) := by
  unfold State.stallExpires
  split
  · exact (h.modRing _ _).refuseFull _ _
  · exact h

theorem Quiet.settleDue : Quiet s t.settleDue :=
  Quiet.foldl (fun r k => Quiet.foldl (f := fun v p => v.stallExpires r p) (fun _ k => k.stallExpires _ _) _ k) _
    (Quiet.foldl (fun _ k => k.leaseExpires _) _ h)

theorem Quiet.countDown : Quiet s t.countDown :=
  Quiet.foldl (fun _ k => k.modRing _ _) _ (Quiet.foldl (fun _ k => k.modLock _ _) _ h)

end

end Sys2Proof.Machine
end

