-- ==== Sys2Proof/Laws/Cycles.lean ====
section
/-! SUPPORT. A cycle that a ready port takes: how its arrival and its end at once combine into one change of the port's
record; what a stop of a channel does; and what the rings and the pins show. -/

namespace Sys2Proof.Machine

/-- Two changes of one place are one. -/
theorem upd_upd {α : Type} {n : Nat} (v : Vector α n) (i : Fin n) (f g : α → α) :
    upd (upd v i f) i g = upd v i fun x => g (f x) := by
  apply Vector.ext
  intro j hj
  rw [upd_getElem, upd_getElem, upd_getElem]
  split <;> rfl

/-- A change that does nothing at the place. -/
theorem upd_id {α : Type} {n : Nat} (v : Vector α n) (i : Fin n) (f : α → α) (h : f v[i] = v[i]) : upd v i f = v := by
  apply Vector.ext
  intro j hj
  rw [upd_getElem]
  split
  · next e => subst e; exact h
  · rfl

/-- Changes that agree at the place. -/
theorem upd_congr {α : Type} {n : Nat} (v : Vector α n) (i : Fin n) {f g : α → α} (h : f v[i] = g v[i]) :
    upd v i f = upd v i g := by
  apply Vector.ext
  intro j hj
  rw [upd_getElem, upd_getElem]
  split
  · next e => subst e; exact h
  · rfl

/-- A ready port takes the cycle, and it reaches the access path (R1). -/
theorem State.present_ready {s : State} {p : PortId} (h : s.ready p) (d : Dir) (a : Addr) (v : Word) :
    s.present p d a v = (s.modPort p fun pt => pt.accept d a v .arriving).arrive p d a v := by
  unfold State.present
  rw [h.2, h.1]
  rfl

/-- A DOWN port takes no cycle (R1). -/
theorem State.present_down {s : State} {p : PortId} (h : s.ports[p].state = .down) (d : Dir) (a : Addr) (v : Word) :
    s.present p d a v = s := by
  unfold State.present
  rw [h]
  split <;> rfl

/-- An OFF port holds the cycle unclassified (R1). -/
theorem State.present_off {s : State} {p : PortId} (h : s.ports[p].state = .off) (c : s.ports[p].cycle = none) (d : Dir)
    (a : Addr) (v : Word) : s.present p d a v = s.modPort p fun pt => pt.accept d a v .unclassified := by
  unfold State.present
  rw [c, h]
  rfl

/-- A read that is answered at once changes its port and nothing else (R2). -/
theorem State.completeRead_accept (s : State) (p : PortId) (d : Dir) (a : Addr) (v w : Word) (c : CycleWait) :
    (s.modPort p fun pt => pt.accept d a v c).completeRead p w = s.answered p w := by
  unfold State.completeRead State.completeCycle State.answered State.modPort
  simp only [upd_upd]
  rfl

/-- A write that is answered at once changes its port and nothing else (R2). -/
theorem State.completeWrite_accept (s : State) (p : PortId) (d : Dir) (a : Addr) (v : Word) (c : CycleWait) :
    (s.modPort p fun pt => pt.accept d a v c).completeWrite p = s.written p := by
  unfold State.completeWrite State.completeCycle State.written State.modPort
  simp only [upd_upd]
  rfl

/-- A change of a controller and a change of a port do not meet. -/
theorem State.modCtl_modPort (s : State) (p q : PortId) (f : Controller → Controller) (g : Port → Port) :
    (s.modPort q g).modCtl p f = (s.modCtl p f).modPort q g := rfl

/-- The acceptance of a cycle changes no port's state, so every derived condition stands. -/
theorem State.modPort_state (s : State) (p q : PortId) (f : Port → Port) (h : ∀ pt, (f pt).state = pt.state) :
    ((s.modPort p f).ports[q]).state = s.ports[q].state := by
  show ((upd s.ports p f)[q]).state = _
  rw [upd_get]
  split
  · next e => subst e; exact h _
  · rfl

/-- A delivery depends on ports' states alone. -/
theorem State.deliver_modPort (s : State) (p q : PortId) (f : Port → Port) (h : ∀ pt, (f pt).state = pt.state)
    (src : Source) (d : Word) : (s.modPort p f).deliver q src d = (s.deliver q src d).modPort p f := by
  have ht : (s.modPort p f).takesDelivery q src = s.takesDelivery q src := by
    unfold State.takesDelivery
    rw [State.modPort_state s p q f h]
    rfl
  have hb : (s.modPort p f).boundSlot q src = s.boundSlot q src := rfl
  unfold State.deliver
  rw [ht, hb]
  cases s.takesDelivery q src
  · rfl
  · cases s.boundSlot q src <;> rfl

/-- A cycle refused on arrival (R17, R18, R20). -/
theorem State.refuse_accept (s : State) (p : PortId) (d : Dir) (a : Addr) (v : Word) (c : CycleWait) (r : Reason) :
    (s.modPort p fun pt => pt.accept d a v c).refuse p r = s.refusedOn p d a r := by
  have hc : (s.modPort p fun pt => pt.accept d a v c).ports[p].cycle =
      some { dir := d, addr := a, data := v, strobe := true, wait := c } := by
    show ((upd s.ports p _)[p]).cycle = _
    rw [upd_get, if_pos rfl]
    rfl
  unfold State.refuse
  rw [hc]
  show State.completeCycle p _ (State.deliver p _ _ (State.modPort _ p _)) = _
  rw [State.deliver_modPort, State.deliver_modPort]
  · unfold State.completeCycle State.refusedOn State.modPort
    simp only [upd_upd]
    cases d <;> rfl
  · exact fun _ => rfl
  · exact fun _ => rfl

/-- A cycle that passes to memory on arrival (R16). -/
theorem State.toMemory_accept (s : State) (p : PortId) (d : Dir) (a : Addr) (v : Word) (c : CycleWait) (k : AccKind)
    (g : Option WatchTag) :
    (s.modPort p fun pt => pt.accept d a v c).toMemory p k a g =
      s.requested p d a v .memory (portRequest p k a g) := by
  unfold State.toMemory State.setWait State.requested State.modPort State.modReq
  simp only [upd_upd]
  rfl

/-! ## Stops (R131) -/

theorem State.stopRun_pending {s : State} {c : ChanId} (st : Status) (h : s.chanPresented c = true) :
    s.stopRun c st = (s.leaveQueue c).modChan c fun k => { k with stopPending := some st } := by simp [State.stopRun, h]

theorem State.stopRun_now {s : State} {c : ChanId} (st : Status) (h : s.chanPresented c = false) :
    s.stopRun c st = s.endRun c st := by simp [State.stopRun, h]

theorem State.settleStop_none {s : State} {c : ChanId} (h : s.chans[c].stopPending = none) : s.settleStop c = s := by
  simp only [State.settleStop, h]

theorem State.settleStop_waits {s : State} {c : ChanId} (h : s.chanPresented c = true) : s.settleStop c = s := by
  unfold State.settleStop; split <;> simp [h]

theorem State.settleStop_ends {s : State} {c : ChanId} {st : Status} (h : s.chans[c].stopPending = some st)
    (k : s.chanPresented c = false) : s.settleStop c = s.endRun c st := by simp only [State.settleStop, h, k]; rfl

/-- Where P0 has no cycle, no LOCK_FREE write waits. -/
theorem State.finishLockFree_none {s : State} (c : ChanId) (h : s.ports[(0 : PortId)].cycle = none) :
    s.finishLockFree c = s := by simp only [State.finishLockFree, h]; rfl

/-- LOCK_FREE of a lock that no channel holds completes its write (R105). -/
theorem State.doLockFree_noChan {s : State} {l : LockId} (h : ∀ c : ChanId, s.locks[l].holder ≠ some (.chan c)) :
    s.doLockFree l = (s.forceLock l true).completeWrite 0 := by
  have e : s.stopsPending l (s.forceLock l true) = none := by
    unfold State.stopsPending
    split
    · next c k => exact absurd k (h c)
    · rfl
  simp only [State.doLockFree, e]

theorem State.modRing_self {s : State} {r : RingId} {f : Ring → Ring} (h : f s.rings[r] = s.rings[r]) : s.modRing r f = s := by
  have e : upd s.rings r f = s.rings := by
    unfold upd
    rw [h]
    exact Vector.set_getElem_self _
  unfold State.modRing
  rw [e]

/-- At a ring whose assembly the channel does not own there is nothing to discard (R71). -/
theorem State.closeAssembly_of_unowned {s : State} {c : ChanId} {r : RingId} (h : s.rings[r].ownsPost (.chan c) = false) :
    s.closeAssembly c r = s := by
  have e : s.rings[r].discardPost (.chan c) = s.rings[r] := by
    revert h
    unfold Ring.discardPost Ring.ownsPost
    cases s.rings[r].postAsm with
    | none => intro _; rfl
    | some a => intro h; exact if_neg (by simpa using h)
  unfold State.closeAssembly State.dropAssembly
  rw [h]
  exact State.modRing_self e

/-- A channel that owns no assembly has none to discard. -/
theorem State.closeAssemblies_of_unowned {s : State} {c : ChanId} (h : ∀ r : RingId, s.rings[r].ownsPost (.chan c) = false) :
    s.closeAssemblies c = s := by
  have go : ∀ l : List RingId, l.foldl (fun t r => t.closeAssembly c r) s = s := by
    intro l
    induction l with
    | nil => rfl
    | cons r l ih => rw [List.foldl_cons, State.closeAssembly_of_unowned (h r), ih]
  exact go _

/-! ## What the rings and the pins show -/

@[simp] theorem State.inFlightAt_ports (s : State) (r : RingId) (q : Post) (d : Dir) (x : Addr) (b : Bool) :
    (s.inFlightAt r q d x b).ports = s.ports := rfl

@[simp] theorem State.inFlightAt_mem (s : State) (r : RingId) (q : Post) (d : Dir) (x : Addr) (b : Bool) :
    (s.inFlightAt r q d x b).mem = s.mem := rfl

@[simp] theorem State.portIssued_mem (s : State) (r : RingId) (p : PortId) (q : Post) (d : Dir) (x : Addr) :
    (s.portIssued r p q d x).mem = s.mem := rfl

/-- Nothing in progress: no pin of the memory port is driven or asserted (R137). -/
theorem State.pins_idle {s : State} (h : s.inProg = none) :
    s.moen = false ∧ s.mwen = false ∧ s.ma = none ∧ s.md = none ∧ s.mdp = none := by
  simp [State.moen, State.mwen, State.ma, State.md, State.mdp, h]

end Sys2Proof.Machine
end

