-- ==== Sys2Proof/Laws/Objects.lean ====
section
/-! SUPPORT. The laws of locks (R94) and rings (R67) are kept by every operation of the blocks: one lemma for each operation, in
the form that extends a chain. -/

namespace Sys2Proof.Machine

/-- Every lock and every ring keeps its laws. -/
structure State.Ordered (s : State) : Prop where
  locks : s.lockLaw
  rings : s.ringLaw

/-- A change of neither locks nor rings nor ring records. -/
theorem State.Ordered.same {s t : State} (h : s.Ordered) (hl : t.locks = s.locks) (hr : t.rings = s.rings)
    (hc : t.recs = s.recs) : t.Ordered := by
  refine ⟨fun l => hl ▸ h.1 l, fun r => ?_⟩
  rw [hr, hc]
  exact h.2 r

/-! ## One lock -/

theorem Lock.law_drop {k : Lock} (h : k.law) (f : Claimant → Bool) :
    Lock.law { k with waiters := k.waiters.filter f } := by
  refine ⟨fun e => ?_, (List.length_filter_le _ _).trans h.2.1,
    h.2.2.sublist (List.Sublist.append_left List.filter_sublist _)⟩
  obtain ⟨a, b⟩ := h.1 e
  refine ⟨?_, b⟩
  show k.waiters.filter f = []
  rw [a]
  rfl

theorem Lock.law_ticked {k : Lock} (h : k.law) : k.ticked.law := by
  unfold Lock.ticked
  split
  · next e => exact ⟨fun n => by simp only at n; simp [n] at e, h.2⟩
  · exact h

/-- A lock without a holder, granted (R97, R108). -/
theorem Lock.law_grant {k : Lock} (h : k.law) (e : k.holder = none) (c : Claimant) (t : Option Nat) :
    Lock.law { k with holder := some c, timer := t } :=
  ⟨fun n => (by cases n), h.2.1, by simp [(h.1 e).1]⟩

/-- A queue whose lock is HELD and has a place takes a claimant (R97, R108). -/
theorem Lock.law_queue {k : Lock} (h : k.law) (c : Claimant) (hh : k.holder.isSome = true)
    (hl : k.waiters.length < Config.lockQueueMax) : (k.queue c).law := by
  unfold Lock.queue
  split
  · exact h
  · next n =>
    rw [not_or] at n
    refine ⟨fun e => ?_, ?_, ?_⟩
    · have e' : k.holder = none := e
      simp [e'] at hh
    · show (k.waiters ++ [c]).length ≤ 7
      rw [List.length_append]
      exact hl
    · show (k.holder.toList ++ (k.waiters ++ [c])).Nodup
      rw [← List.append_assoc]
      refine List.nodup_append.2 ⟨h.2.2, List.nodup_singleton c, fun a ha b hb e => ?_⟩
      simp only [List.mem_singleton] at hb
      subst hb e
      rcases List.mem_append.1 ha with m | m
      · exact n.1 (by simpa using m)
      · exact n.2 m

/-- A lock handed to the head of its queue (R101). -/
theorem Lock.law_handed {k : Lock} (h : k.law) {c : Claimant} {rest : List Claimant} (e : k.waiters = c :: rest)
    (t : Option Nat) : Lock.law { holder := some c, waiters := rest, timer := t } := by
  obtain ⟨_, h2, h3⟩ := h
  rw [e] at h2 h3
  refine ⟨fun n => (by cases n), ?_, (List.nodup_append.1 h3).2.1⟩
  simp only [List.length_cons] at h2
  show rest.length ≤ 7
  omega

theorem Lock.law_reset : Lock.reset.law := by simp [Lock.law, Lock.reset]

/-! ## One ring -/

theorem Ring.law_reset (cap : Nat) : Ring.reset.law cap := by simp [Ring.law, Ring.reset]

theorem Ring.law_cleared (k : Ring) (cap : Nat) : k.cleared.law cap := by simp [Ring.law, Ring.cleared, Ring.reset]

/-- Discarding assemblies and touching the lists keeps the law. -/
theorem Ring.law_of_same {k j : Ring} {cap : Nat} (h : k.law cap) (hh : j.head = k.head) (ht : j.tail = k.tail)
    (hc : j.count = k.count) (hp : j.postAsm.isSome = true → k.postAsm.isSome = true)
    (hk : j.takeAsm.isSome = true → k.takeAsm.isSome = true) : j.law cap := by
  obtain ⟨h1, h2, h3, h4, h5⟩ := h
  exact ⟨by rw [hc]; exact h1, fun e => by rw [hc]; exact h2 (hp e), fun e => by rw [hc]; exact h3 (hk e),
    by rw [hh]; exact h4, by rw [ht, hh, hc]; exact h5⟩

theorem wrapNext_mod {i cap : Nat} (h : i < cap) : wrapNext i cap = (i + 1) % cap := by
  unfold wrapNext
  split
  · next e => rw [e, Nat.mod_self]
  · next e => rw [Nat.mod_eq_of_lt (by omega)]

/-- An entry becomes whole (R72). -/
theorem Ring.law_pushed {k : Ring} {cap : Nat} (h : k.law cap) (p : k.postAsm.isSome = true) : (k.pushed cap).law cap := by
  obtain ⟨h1, h2, h3, h4, h5⟩ := h
  have hc := h2 p
  refine ⟨hc, fun e => ?_, fun _ => Nat.succ_pos _, h4, ?_⟩
  · simp [Ring.pushed] at e
  · show wrapNext k.tail cap = (k.head + (k.count + 1)) % cap
    rw [wrapNext_mod (by rw [h5]; exact Nat.mod_lt _ (by omega)), h5]
    rw [Nat.mod_add_mod, Nat.add_assoc]

/-- An entry has been taken (R80). -/
theorem Ring.law_popped {k : Ring} {cap : Nat} (h : k.law cap) (p : k.takeAsm.isSome = true) : (k.popped cap).law cap := by
  obtain ⟨h1, h2, h3, h4, h5⟩ := h
  have hc := h3 p
  have hcap : 0 < cap := by omega
  have hhd : k.head < cap := by omega
  refine ⟨?_, fun e => ?_, fun e => ?_, .inr ?_, ?_⟩
  · show k.count - 1 ≤ cap
    omega
  · have := h2 e
    show k.count - 1 < cap
    omega
  · simp [Ring.popped] at e
  · show wrapNext k.head cap < cap
    rw [wrapNext_mod hhd]
    exact Nat.mod_lt _ hcap
  · show k.tail = (wrapNext k.head cap + (k.count - 1)) % cap
    rw [wrapNext_mod hhd, h5, Nat.mod_add_mod]
    congr 1
    omega

theorem State.unstall_rings (s : State) (q : Post) : (s.unstall q).rings = s.rings ∧ (s.unstall q).recs = s.recs := by
  unfold State.unstall
  repeat' split
  all_goals exact ⟨rfl, rfl⟩

section
variable {t : State} (h : t.Ordered)
include h

/-! ## Changes of one record -/

theorem State.Ordered.modPort (p : PortId) (f : Port → Port) : (t.modPort p f).Ordered := h.same rfl rfl rfl
theorem State.Ordered.modCtl (p : PortId) (f : Controller → Controller) : (t.modCtl p f).Ordered := h.same rfl rfl rfl
theorem State.Ordered.modWin (p : WinId) (f : WinEntry → WinEntry) : (t.modWin p f).Ordered := h.same rfl rfl rfl
theorem State.Ordered.modChan (c : ChanId) (f : Chan → Chan) : (t.modChan c f).Ordered := h.same rfl rfl rfl
theorem State.Ordered.modReq (q : Fin 5) (f : Option Request → Option Request) : (t.modReq q f).Ordered := h.same rfl rfl rfl
theorem State.Ordered.withInProg (a : Option Access) : State.Ordered { t with inProg := a } := h.same rfl rfl rfl
theorem State.Ordered.withFault (a : Option FaultRec) : State.Ordered { t with fault := a } := h.same rfl rfl rfl
theorem State.Ordered.withLastChan (c : ChanId) : State.Ordered { t with lastChan := c } := h.same rfl rfl rfl

theorem State.Ordered.modLock (l : LockId) (f : Lock → Lock) (hf : t.locks[l].law → (f t.locks[l]).law) :
    (t.modLock l f).Ordered := by
  refine ⟨fun m => ?_, h.2⟩
  show Lock.law (upd t.locks l f)[m]
  rw [upd_get]
  split
  · next e => subst e; exact hf (h.1 l)
  · exact h.1 m

theorem State.Ordered.modRing (r : RingId) (f : Ring → Ring)
    (hf : t.rings[r].law t.recs[r].capacity → (f t.rings[r]).law t.recs[r].capacity) : (t.modRing r f).Ordered := by
  refine ⟨h.1, fun q => ?_⟩
  show Ring.law (upd t.rings r f)[q] t.recs[q].capacity
  rw [upd_get]
  split
  · next e => subst e; exact hf (h.2 r)
  · exact h.2 q

/-- A change of a ring's lists, of its access in flight or of its awaiting post. -/
theorem State.Ordered.modRingSame (r : RingId) (f : Ring → Ring) (h1 : ∀ k, (f k).head = k.head := by intro; rfl)
    (h2 : ∀ k, (f k).tail = k.tail := by intro; rfl) (h3 : ∀ k, (f k).count = k.count := by intro; rfl)
    (h4 : ∀ k, (f k).postAsm.isSome = true → k.postAsm.isSome = true := by intro _ e; exact e)
    (h5 : ∀ k, (f k).takeAsm.isSome = true → k.takeAsm.isSome = true := by intro _ e; exact e) :
    (t.modRing r f).Ordered :=
  h.modRing r f fun k => Ring.law_of_same k (h1 _) (h2 _) (h3 _) (h4 _) (h5 _)

theorem State.Ordered.completeCycle (p : PortId) (e : CycleEnd) : (t.completeCycle p e).Ordered := h.same rfl rfl rfl
theorem State.Ordered.completeRead (p : PortId) (w : Word) : (t.completeRead p w).Ordered := h.same rfl rfl rfl
theorem State.Ordered.completeWrite (p : PortId) : (t.completeWrite p).Ordered := h.same rfl rfl rfl
theorem State.Ordered.setWait (p : PortId) (w : CycleWait) : (t.setWait p w).Ordered := h.same rfl rfl rfl

theorem State.Ordered.deliver (p : PortId) (src : Source) (d : Word) : (t.deliver p src d).Ordered := by
  unfold State.deliver
  repeat' split
  all_goals first | exact h | exact h.same rfl rfl rfl

theorem State.Ordered.refuse (p : PortId) (r : Reason) : (t.refuse p r).Ordered := by
  unfold State.refuse
  split
  · exact h
  · exact ((h.modPort p _).deliver p _ _).completeCycle p _

/-! ## Lock unit -/

theorem State.Ordered.grantLock (l : LockId) (c : Claimant) (e : t.locks[l].holder = none) : (t.grantLock l c).Ordered :=
  h.modLock l _ fun k => Lock.law_grant k e _ _

theorem State.Ordered.queueLock (l : LockId) (c : Claimant) (hh : t.locks[l].holder.isSome = true)
    (hl : t.locks[l].waiters.length < Config.lockQueueMax) : (t.queueLock l c).Ordered :=
  h.modLock l _ fun k => Lock.law_queue k _ hh hl

theorem State.Ordered.dropWaiters (l : LockId) (f : Claimant → Bool) : (t.dropWaiters l f).Ordered :=
  h.modLock l _ fun k => Lock.law_drop k _

theorem State.Ordered.announceGrant (l : LockId) (c : Claimant) : (t.announceGrant l c).Ordered := by
  cases c
  · exact h.deliver _ _ _
  · exact h.modChan _ _

theorem State.Ordered.releaseLock (l : LockId) : (t.releaseLock l).Ordered := by
  unfold State.releaseLock
  split
  · next e => exact h.modLock l _ fun k => ⟨fun _ => ⟨e, rfl⟩, k.2.1, (List.nodup_append.1 k.2.2).2.1⟩
  · next c rest e =>
    refine State.Ordered.announceGrant ?_ l c
    refine ⟨fun m => ?_, h.2⟩
    show Lock.law (upd (upd t.locks l fun k => { k with waiters := rest }) l fun k =>
      { k with holder := some c, timer := t.leaseOf l })[m]
    rw [upd_get, upd_get]
    split
    · exact Lock.law_handed (h.1 l) e _
    · exact h.1 m

theorem State.Ordered.readLock (w : Bool) (p : PortId) (l : LockId) : (t.readLock w p l).1.Ordered := by
  unfold State.readLock
  split
  · next e => exact h.grantLock _ _ e
  · next e =>
    split
    · exact h
    · split
      · exact h
      · split
        · next k => exact h.queueLock _ _ (by rw [e]; rfl) k.2
        · exact h

theorem State.Ordered.writeLock (p : PortId) (l : LockId) : (t.writeLock p l).Ordered := by
  unfold State.writeLock
  repeat' split
  all_goals first | exact (h.releaseLock _).completeWrite _ | exact (h.dropWaiters _ _).completeWrite _ | exact h.refuse _ _

/-- A channel acquires a lock whose queue has a place, or that is FREE (R108). -/
theorem State.Ordered.acquireForChan (c : ChanId) (l : LockId) (hl : t.locks[l].waiters.length < Config.lockQueueMax) :
    (t.acquireForChan c l).Ordered := by
  unfold State.acquireForChan
  split
  · next e => exact (h.grantLock _ _ e).modChan _ _
  · next e => exact (h.queueLock _ _ (by rw [e]; rfl) hl).modChan _ _

theorem State.Ordered.releaseForChan (c : ChanId) (l : LockId) : (t.releaseForChan c l).Ordered := by
  unfold State.releaseForChan
  split
  · exact h.releaseLock _
  · exact h.dropWaiters _ _

/-! ## Ring engine -/

theorem State.Ordered.issueRing (r : RingId) (q : Post) (d : Dir) (a : Addr) : (t.issueRing r q d a).Ordered := by
  unfold State.issueRing
  split
  · exact ((h.modRingSame r _).modReq _ _).setWait _ _
  · exact h.modRingSame r _

theorem State.Ordered.issuePost (r : RingId) (q : Post) : (t.issuePost r q).Ordered := h.issueRing _ _ _ _

/-- A post opens where the opening condition holds (R70). -/
theorem State.Ordered.openPost (r : RingId) (q : Post) (hc : t.rings[r].count < t.recs[r].capacity) :
    (t.openPost r q).Ordered := by
  have k : (t.modRing r fun k => { k with postAsm := some { owner := q.who, words := 0 } }).Ordered :=
    h.modRing r _ fun k => ⟨k.1, fun _ => hc, k.2.2.1, k.2.2.2.1, k.2.2.2.2⟩
  have k2 := k.modRingSame r (fun k => { k with awaiting := some q })
  unfold State.openPost
  dsimp only
  split
  · split
    · exact k2.setWait _ _
    · exact k2
  · exact k.issuePost _ _

theorem State.Ordered.unstall (q : Post) : (t.unstall q).Ordered := by
  unfold State.unstall
  repeat' split
  all_goals first | exact h | exact h.same rfl rfl rfl

theorem State.Ordered.openHead (r : RingId) : (t.openHead r).Ordered := by
  unfold State.openHead
  split
  · next hc =>
    split
    · exact h
    · next e rest _ =>
      have k := h.modRingSame r (fun k => { k with stall := rest })
      refine (k.unstall e.post).openPost r _ ?_
      rw [(State.unstall_rings _ _).1, (State.unstall_rings _ _).2]
      simp only [State.openingCond, Bool.and_eq_true, decide_eq_true_eq] at hc
      show (upd t.rings r _)[r].count < _
      rw [upd_get, if_pos rfl]
      exact hc.1
  · exact h

theorem State.Ordered.joinStall (r : RingId) (q : Post) : (t.joinStall r q).Ordered := by
  have k (x : Option Nat) := h.modRingSame r (·.stalled q x)
  unfold State.joinStall
  dsimp only
  repeat' split
  all_goals first | exact (k _).setWait _ _ | exact (k _).modChan _ _ | exact k _

theorem State.Ordered.postWritten (r : RingId) : (t.postWritten r).Ordered := by
  unfold State.postWritten
  split
  · exact h
  · next a e =>
    split
    · exact (h.modRing r _ fun k => Ring.law_pushed k (by rw [e]; rfl)).openHead _
    · exact h.modRing r _ fun k => Ring.law_of_same k rfl rfl rfl (fun _ => by rw [e]; rfl) id

theorem State.Ordered.tellSpace (r : RingId) (b : Bool) : (t.tellSpace r b).Ordered := by
  unfold State.tellSpace
  split
  · exact h.deliver _ _ _
  · exact h

theorem State.Ordered.takeRead (r : RingId) : (t.takeRead r).Ordered := by
  unfold State.takeRead
  split
  · exact h
  · next a e =>
    split
    · exact ((h.modRing r _ fun k => Ring.law_popped k (by rw [e]; rfl)).tellSpace _ _).openHead _
    · exact h.modRing r _ fun k => Ring.law_of_same k rfl rfl rfl id (fun _ => by rw [e]; rfl)

end

/-- Discarding an assembly keeps the law. -/
theorem Ring.law_discardPost {k : Ring} {cap : Nat} (h : k.law cap) (c : Claimant) : (k.discardPost c).law cap := by
  unfold Ring.discardPost
  repeat' split
  all_goals first | exact h | exact Ring.law_of_same h rfl rfl rfl (fun e => by simp at e) id

theorem Ring.law_closeTake {k : Ring} {cap : Nat} (h : k.law cap) (p : PortId) : (k.closeTake p).law cap := by
  unfold Ring.closeTake
  repeat' split
  all_goals first | exact h | exact Ring.law_of_same h rfl rfl rfl id (fun e => by simp at e)

theorem Ring.law_dropFlight {k : Ring} {cap : Nat} (h : k.law cap) (p : PortId) (b : Bool) :
    (k.dropFlight p b).law cap := by
  unfold Ring.dropFlight
  split
  · exact Ring.law_of_same h rfl rfl rfl id id
  · exact h

theorem Ring.law_dropAwaiting {k : Ring} {cap : Nat} (h : k.law cap) (out : Claimant → Bool) :
    (k.dropAwaiting out).law cap := by
  unfold Ring.dropAwaiting
  split
  · exact Ring.law_of_same h rfl rfl rfl (fun e => by simp at e) id
  · exact h

theorem Ring.law_tear {k : Ring} {cap : Nat} (h : k.law cap) (p : PortId) (out : Claimant → Bool) (b : Bool) :
    (k.tear p out b).law cap := by
  have k0 : Ring.law { k with stall := k.stall.filter fun e => !out e.post.who, hold := k.hold.filter fun i => !out i.who }
      cap := Ring.law_of_same h rfl rfl rfl id id
  exact Ring.law_dropFlight (Ring.law_closeTake (Ring.law_dropAwaiting (Ring.law_discardPost k0 _) out) p) p b

theorem State.Ordered.foldl {α : Type} {f : State → α → State}
    (hf : ∀ {t : State} (a : α), t.Ordered → (f t a).Ordered) :
    ∀ (l : List α) {t : State}, t.Ordered → (l.foldl f t).Ordered
  | [], _, h => h
  | a :: l, _, h => State.Ordered.foldl hf l (hf a h)

section
variable {t : State} (h : t.Ordered)
include h

theorem State.Ordered.dropAssembly (c : Claimant) (r : RingId) : (t.dropAssembly c r).Ordered := by
  have k : (t.modRing r (·.discardPost c)).Ordered := h.modRing r _ fun k => Ring.law_discardPost k _
  unfold State.dropAssembly
  dsimp only
  split
  · exact k.openHead _
  · exact k

theorem State.Ordered.closeAssembly (c : ChanId) (r : RingId) : (t.closeAssembly c r).Ordered := by
  unfold State.closeAssembly
  split
  · exact h.modRingSame r _
  · exact h.dropAssembly _ _

theorem State.Ordered.closeAssemblies (c : ChanId) : (t.closeAssemblies c).Ordered :=
  State.Ordered.foldl (fun _ k => k.closeAssembly _ _) _ h

theorem State.Ordered.finishLeaving (r : RingId) (f : InFlight) : (t.finishLeaving r f).Ordered := by
  unfold State.finishLeaving
  repeat' split
  all_goals first | exact h | exact h.dropAssembly _ _

/-! ## Ends of runs -/

theorem State.Ordered.deliverDone (c : ChanId) (st : Status) : (t.deliverDone c st).Ordered := by
  unfold State.deliverDone
  split
  · exact h.deliver _ _ _
  · exact h

theorem State.Ordered.withdrawFromRings (c : ChanId) : (t.withdrawFromRings c).Ordered := by
  unfold State.withdrawFromRings
  split
  · exact State.Ordered.closeAssemblies (h.modRingSame _ _) _
  · exact h.closeAssemblies _

theorem State.Ordered.finishLockFree (c : ChanId) : (t.finishLockFree c).Ordered := by
  unfold State.finishLockFree
  split
  · exact h.completeWrite _
  · exact h

theorem State.Ordered.leaveLock (c : ChanId) : (t.leaveLock c).Ordered := by
  unfold State.leaveLock
  split
  · exact h.releaseForChan _ _
  · exact h

theorem State.Ordered.endRun (c : ChanId) (st : Status) : (t.endRun c st).Ordered :=
  ((((h.modChan c fun k => k.ended st).withdrawFromRings _).leaveLock _).deliverDone _ _).finishLockFree _

theorem State.Ordered.leaveQueue (c : ChanId) : (t.leaveQueue c).Ordered := by
  unfold State.leaveQueue
  repeat' split
  all_goals first
    | exact h | exact h.leaveLock _ | exact (h.leaveLock _).modRingSame _ _ | exact h.modRingSame _ _

theorem State.Ordered.stopRun (c : ChanId) (st : Status) : (t.stopRun c st).Ordered := by
  unfold State.stopRun
  split
  · exact State.Ordered.modChan (h.leaveQueue c) c _
  · exact h.endRun _ _

theorem State.Ordered.stopChan (c : ChanId) (st : Status) : (t.stopChan c st).Ordered := by
  unfold State.stopChan
  repeat' split
  all_goals first | exact h | exact h.stopRun _ _

theorem State.Ordered.settleStop (c : ChanId) : (t.settleStop c).Ordered := by
  unfold State.settleStop
  repeat' split
  all_goals first | exact h | exact h.endRun _ _

theorem State.Ordered.detachChan (c : ChanId) : (t.detachChan c).Ordered := by
  refine ⟨h.1, fun r => ?_⟩
  show Ring.law (Vector.ofFn fun q : RingId => (t.rings[q]).unlive c)[r] _
  rw [Fin.getElem_fin, Vector.getElem_ofFn]
  exact h.2 r

theorem State.Ordered.endRunByReset (c : ChanId) (st : Status) : (t.endRunByReset c st).Ordered :=
  (((h.modChan c fun k => k.ended st).closeAssemblies _).leaveLock _).deliverDone _ _

theorem State.Ordered.stopByReset (c : ChanId) : (t.stopByReset c).Ordered := by
  unfold State.stopByReset
  split
  · exact h
  · exact (h.detachChan _).endRunByReset _ _

/-! ## Take-up and ring reset -/

theorem State.Ordered.refuseFull (r : RingId) (p : PortId) : (t.refuseFull r p).Ordered := (h.deliver _ _ _).refuse _ _

theorem State.Ordered.takeUpPost (r : RingId) (q : Post) : (t.takeUpPost r q).Ordered := by
  unfold State.takeUpPost
  split
  · repeat' split
    all_goals first | exact h.refuse _ _ | exact h.stopChan _ _
  · split
    · exact h.issuePost _ _
    · split
      · next hc =>
        simp only [State.openingCond, Bool.and_eq_true, decide_eq_true_eq] at hc
        exact h.openPost _ _ hc.1
      · repeat' split
        all_goals first | exact h.joinStall _ _ | exact h.refuseFull _ _ | exact h.refuse _ _

theorem State.Ordered.takeUpTake (r : RingId) (p : PortId) : (t.takeUpTake r p).Ordered := by
  unfold State.takeUpTake
  dsimp only
  split
  · exact h.refuse _ _
  · split
    · exact h.refuse _ _
    · next hc =>
      split
      · split
        · exact h.issueRing _ _ _ _
        · exact h.refuse _ _
      · have k : (t.modRing r fun k => { k with takeAsm := some { owner := p, words := 0 } }).Ordered :=
          h.modRing r _ fun k => ⟨k.1, k.2.1, fun _ => Nat.pos_of_ne_zero hc, k.2.2.2.1, k.2.2.2.2⟩
        exact k.issueRing _ _ _ _

theorem State.Ordered.takeUp (r : RingId) (i : HoldItem) : (t.takeUp r i).Ordered := by
  cases i
  · exact h.takeUpPost _ _
  · exact h.takeUpTake _ _

theorem State.Ordered.holdWait (r : RingId) (i : HoldItem) : (t.holdWait r i).Ordered := by
  unfold State.holdWait
  repeat' split
  all_goals first | exact h | exact h.same rfl rfl rfl

theorem State.Ordered.ringArrive (r : RingId) (i : HoldItem) : (t.ringArrive r i).Ordered := by
  unfold State.ringArrive
  split
  · exact (h.modRingSame r _).holdWait _ _
  · exact h.takeUp _ _

end

theorem State.Ordered.takeUpHold (r : RingId) : ∀ (n : Nat) {t : State}, t.Ordered → (t.takeUpHold r n).Ordered
  | 0, _, h => h
  | n + 1, t, h => by
    unfold State.takeUpHold
    repeat' split
    all_goals first
      | exact h
      | exact State.Ordered.takeUpHold r n ((h.modRingSame r _).takeUp _ _)

section
variable {t : State} (h : t.Ordered)
include h

theorem State.Ordered.resumeRing (r : RingId) : (t.resumeRing r).Ordered := by
  unfold State.resumeRing
  repeat' split
  all_goals first
    | exact h
    | exact (h.modRingSame r _).issuePost _ _
    | exact State.Ordered.takeUpHold _ _ h

theorem State.Ordered.resetClaimant (q : Post) : (t.resetClaimant q).Ordered := by
  unfold State.resetClaimant
  repeat' split
  all_goals first | exact h.refuse _ _ | exact h.stopByReset _

theorem State.Ordered.resetAwaiting (q : Option Post) : (t.resetAwaiting q).Ordered := by
  unfold State.resetAwaiting
  repeat' split
  all_goals first | exact h.refuse _ _ | exact h

theorem State.Ordered.resetOwner (a : Option PostAsm) : (t.resetOwner a).Ordered := by
  unfold State.resetOwner
  repeat' split
  all_goals first | exact h.stopByReset _ | exact h

theorem State.Ordered.resetRing (r : RingId) : (t.resetRing r).Ordered := by
  unfold State.resetRing
  refine State.Ordered.resetOwner (State.Ordered.foldl ?_ _ (State.Ordered.resetAwaiting ?_ _)) _
  · exact fun _ k => k.resetClaimant _
  · exact h.modRing r _ fun _ => Ring.law_cleared _ _

/-! ## Transfer engine -/

theorem State.Ordered.startChan (p : PortId) (c : ChanId) : (t.startChan p c).Ordered := by
  unfold State.startChan
  dsimp only
  split
  · exact h.refuse _ _
  · split
    · next ok =>
      split
      · next l hl =>
        refine (State.Ordered.acquireForChan (h.modChan c _) c l ?_).completeWrite _
        simp only [State.descOk, hl, Bool.and_eq_true, Bool.or_eq_true, decide_eq_true_eq] at ok
        rcases ok.2 with e | e
        · cases e
        · exact e
      · exact h.same rfl rfl rfl
    · exact h.refuse _ _

theorem State.Ordered.abortChan (p : PortId) (c : ChanId) : (t.abortChan p c).Ordered := by
  unfold State.abortChan
  split
  · exact (h.stopChan _ _).completeWrite _
  · exact h.refuse _ _

theorem State.Ordered.writeChan (p : PortId) (c : ChanId) (k : Nat) (v : Word) : (t.writeChan p c k v).Ordered := by
  unfold State.writeChan
  repeat' split
  all_goals first | exact h.startChan _ _ | exact h.abortChan _ _ | exact h.refuse _ _ | exact h | exact h.same rfl rfl rfl

theorem State.Ordered.deliverMark (c : ChanId) : (t.deliverMark c).Ordered := by
  unfold State.deliverMark
  repeat' split
  all_goals first | exact h.deliver _ _ _ | exact h

theorem State.Ordered.descComplete (c : ChanId) : (t.descComplete c).Ordered := by
  unfold State.descComplete
  dsimp only
  split
  · exact (h.withdrawFromRings _).modChan _ _
  · exact (h.withdrawFromRings _).endRun _ _

theorem State.Ordered.wordDone (c : ChanId) (w : Word) : (t.wordDone c w).Ordered := by
  have k : ((t.modChan c fun k =>
    { k with desc := k.desc.step w, wordsDone := k.wordsDone + 1, holding := none }).deliverMark c).Ordered :=
    State.Ordered.deliverMark (h.modChan c _) _
  unfold State.wordDone
  dsimp only
  repeat' split
  all_goals first | exact k.settleStop _ | exact k.descComplete _ | exact k

end

/-- Releasing a lock leaves every other lock as it was. -/
theorem State.releaseLock_other (s : State) {l m : LockId} (e : l ≠ m) : (s.releaseLock l).locks[m] = s.locks[m] := by
  have hd (u : State) (p : PortId) (src : Source) (d : Word) : (u.deliver p src d).locks = u.locks := by
    unfold State.deliver
    repeat' split
    all_goals rfl
  unfold State.releaseLock
  split
  · show (upd s.locks l _)[m] = _
    exact upd_other _ _ e
  · next c rest _ =>
    have : ∀ u : State, (u.announceGrant l c).locks = u.locks := fun u => by
      cases c
      · exact hd _ _ _ _
      · rfl
    rw [this]
    show (upd (upd s.locks l fun k => { k with waiters := rest }) l fun k =>
      { k with holder := some c, timer := s.leaseOf l })[m] = _
    rw [upd_other _ _ e, upd_other _ _ e]

section
variable {t : State} (h : t.Ordered)
include h

/-- The lock hand-over between two descriptors, where the new lock has a place (R110, R128). -/
theorem State.Ordered.chainLock (c : ChanId) (old new : Option LockId)
    (hn : ∀ l, new = some l → old ≠ new → t.locks[l].waiters.length < Config.lockQueueMax) :
    (t.chainLock c old new).Ordered := by
  unfold State.chainLock
  dsimp only
  split
  · exact h
  · next ne =>
    cases old with
    | none =>
      cases new with
      | none => exact h
      | some l => exact h.acquireForChan _ _ (hn l rfl (by simp))
    | some o =>
      cases new with
      | none => exact h.releaseLock _
      | some l =>
        have hol : o ≠ l := fun e => ne ⟨rfl, by rw [e]⟩
        refine (h.releaseLock o).acquireForChan _ _ ?_
        rw [State.releaseLock_other _ hol]
        exact hn l rfl (by simpa using hol)

theorem State.Ordered.installDesc (c : ChanId) (ws : List Word) : (t.installDesc c ws).Ordered := by
  unfold State.installDesc
  split
  · next ok =>
    refine State.Ordered.chainLock (h.modChan c _) c _ _ fun l hl ne => ?_
    unfold State.ownerAccepts at ok
    split at ok
    · have kept : t.keptLock c (descOfWords ws) = none := by
        unfold State.keptLock
        exact if_neg ne
      simp only [State.descOk, hl, kept, Bool.and_eq_true, Bool.or_eq_true, decide_eq_true_eq] at ok
      rcases ok.2 with e | e
      · cases e
      · exact e
    · cases ok
  · exact h.endRun _ _

theorem State.Ordered.readStopped {c : ChanId} {b : Bool} {u : State} (e : t.readStopped c b = some u) : u.Ordered := by
  unfold State.readStopped at e
  split at e
  · cases e; exact h.settleStop _
  · split at e
    · cases e; exact h.endRun _ _
    · cases e

theorem State.Ordered.srcReadDone (c : ChanId) (w : Word) : (t.srcReadDone c w).Ordered := by
  unfold State.srcReadDone
  dsimp only
  repeat' split
  all_goals first | exact h.wordDone _ _ | exact State.Ordered.ringArrive (h.modChan c _) _ _ | exact h | exact h.same rfl rfl rfl

theorem State.Ordered.dstReadDone (c : ChanId) (w : Word) : (t.dstReadDone c w).Ordered := by
  unfold State.dstReadDone
  split
  · exact h.wordDone _ _
  · exact h.endRun _ _

theorem State.Ordered.fetchReadDone (c : ChanId) (w : Word) : (t.fetchReadDone c w).Ordered := by
  unfold State.fetchReadDone
  dsimp only
  split
  · exact h.installDesc _ _
  · exact h.same rfl rfl rfl

theorem State.Ordered.sumWriteDone (c : ChanId) : (t.sumWriteDone c).Ordered := by
  unfold State.sumWriteDone
  split
  · exact h.settleStop _
  · exact h.descComplete _

theorem State.Ordered.chanAccessDone (c : ChanId) (k : ChanStep) (w : Word) (b : Bool) :
    (t.chanAccessDone c k w b).Ordered := by
  unfold State.chanAccessDone
  repeat' split
  all_goals first
    | exact h.readStopped ‹_› | exact h.srcReadDone _ _ | exact h.dstReadDone _ _ | exact h.fetchReadDone _ _
    | exact h.wordDone _ _ | exact h.sumWriteDone _

theorem State.Ordered.presentChan (c : ChanId) : (t.presentChan c).Ordered := by
  unfold State.presentChan
  dsimp only
  repeat' split
  all_goals first
    | exact h
    | exact (h.withLastChan c).modReq _ _
    | exact ((h.withLastChan c).modRingSame _ _).modReq _ _

theorem State.Ordered.pickChan : t.pickChan.Ordered := by
  unfold State.pickChan
  repeat' split
  all_goals first | exact h | exact h.presentChan _

/-! ## Teardown and forcing -/

theorem State.Ordered.abandonCycle (p : PortId) : (t.abandonCycle p).Ordered := h.same rfl rfl rfl

theorem State.Ordered.tearLocks (p : PortId) : (t.tearLocks p).Ordered := by
  unfold State.tearLocks
  refine State.Ordered.foldl (fun l k => ?_) _ (State.Ordered.foldl (fun l k => k.dropWaiters _ _) _ h)
  split
  · exact k.releaseLock _
  · exact k

theorem State.Ordered.settleRing (r : RingId) : (t.settleRing r).Ordered := (h.openHead _).resumeRing _

theorem State.Ordered.tearRings (p : PortId) : (t.tearRings p).Ordered := by
  unfold State.tearRings
  refine State.Ordered.foldl (fun l k => ?_) _
    (State.Ordered.foldl (fun l k => k.modRing l _ fun j => Ring.law_tear j _ _ _) _ h)
  split
  · exact k.settleRing _
  · exact k

theorem State.Ordered.tearChans (p : PortId) : (t.tearChans p).Ordered := by
  refine State.Ordered.foldl (fun l k => ?_) _ h
  split
  · exact k.stopChan _ _
  · exact k

theorem State.Ordered.endDrop (p : PortId) : (t.endDrop p).Ordered := by
  unfold State.endDrop
  repeat' split
  all_goals first | exact h | exact h.same rfl rfl rfl

theorem State.Ordered.startTeardown (p : PortId) (c : TeardownCause) : (t.startTeardown p c).Ordered := by
  unfold State.startTeardown
  dsimp only
  refine State.Ordered.tearChans (State.Ordered.tearRings (State.Ordered.tearLocks ?_ _) _) _
  split
  · exact h.same rfl rfl rfl
  · exact h.same rfl rfl rfl

theorem State.Ordered.finishTeardown (p : PortId) : (t.finishTeardown p).Ordered := by
  unfold State.finishTeardown
  split
  · exact State.Ordered.endDrop (h.modPort p _) _
  · exact h

theorem State.Ordered.tearDown (p : PortId) (c : TeardownCause) : (t.tearDown p c).Ordered :=
  (h.startTeardown _ _).finishTeardown _

theorem State.Ordered.forceLock (l : LockId) (b : Bool) : (t.forceLock l b).Ordered := by
  unfold State.forceLock
  repeat' split
  all_goals first | exact h | exact (h.deliver _ _ _).releaseLock _ | exact (h.releaseLock _).stopChan _ _

/-! ## Access path -/

theorem State.Ordered.toMemory (p : PortId) (k : AccKind) (a : Addr) (g : Option WatchTag) : (t.toMemory p k a g).Ordered := h.same rfl rfl rfl

theorem State.Ordered.takeNotice (p : PortId) : (t.takeNotice p).Ordered := by
  unfold State.takeNotice
  repeat' split
  all_goals first | exact h | exact h.same rfl rfl rfl

theorem State.Ordered.endSlot (p : PortId) (i : SlotId) : (t.endSlot p i).Ordered := by
  unfold State.endSlot
  split
  · exact h.same rfl rfl rfl
  · exact h.refuse _ _

theorem State.Ordered.endUrgent (p : PortId) : (t.endUrgent p).Ordered := by
  unfold State.endUrgent
  split
  · exact h.same rfl rfl rfl
  · exact h.refuse _ _

theorem State.Ordered.writeEnd (p : PortId) (v : Word) : (t.writeEnd p v).Ordered := by
  unfold State.writeEnd
  repeat' split
  all_goals first | exact h.endUrgent _ | exact h.endSlot _ _ | exact h.refuse _ _

theorem State.Ordered.writeThreshold (p : PortId) (v : Word) : (t.writeThreshold p v).Ordered := by
  unfold State.writeThreshold
  split
  · exact h.same rfl rfl rfl
  · exact h.refuse _ _

theorem State.Ordered.writeSignal (p : PortId) (v : Word) : (t.writeSignal p v).Ordered := by
  unfold State.writeSignal
  split
  · exact (h.deliver _ _ _).completeWrite _
  · exact h.refuse _ _

theorem State.Ordered.doDropPort (n : PortId) : (t.doDropPort n).Ordered := by
  unfold State.doDropPort
  split
  · exact (h.setWait 0 _).tearDown _ _
  · exact h.same rfl rfl rfl

theorem State.Ordered.doRingReset (r : RingId) : (t.doRingReset r).Ordered := by
  unfold State.doRingReset
  split
  · exact (h.resetRing _).completeWrite _
  · exact h.same rfl rfl rfl

theorem State.Ordered.doLockFree (l : LockId) : (t.doLockFree l).Ordered := by
  unfold State.doLockFree
  dsimp only
  split
  · exact (h.forceLock _ _).setWait _ _
  · exact (h.forceLock _ _).completeWrite _

theorem State.Ordered.writeControl (p : PortId) (v : Word) : (t.writeControl p v).Ordered := by
  unfold State.writeControl
  split
  · next c _ =>
    cases c
    · exact h.doDropPort _
    · exact h.doRingReset _
    · exact h.doLockFree _
    · exact h.same rfl rfl rfl
  · exact h.refuse _ _

theorem State.Ordered.readPortWord (p : PortId) (k : Fin 16) : (t.readPortWord p k).Ordered := by
  unfold State.readPortWord
  split
  all_goals first | exact h | exact (h.takeNotice _).completeRead _ _ | exact h.refuse _ _ | exact h.same rfl rfl rfl

theorem State.Ordered.writePortWord (p : PortId) (k : Fin 16) (v : Word) : (t.writePortWord p k v).Ordered := by
  unfold State.writePortWord
  split
  all_goals first
    | exact h.writeEnd _ _ | exact h.writeThreshold _ _ | exact h.writeSignal _ _ | exact h.writeControl _ _
    | exact h.refuse _ _ | exact h | exact h.same rfl rfl rfl

theorem State.Ordered.portWindow (p : PortId) (k : Fin 16) (d : Dir) (v : Word) : (t.portWindow p k d v).Ordered := by
  unfold State.portWindow
  repeat' split
  all_goals first | exact h.refuse _ _ | exact h.readPortWord _ _ | exact h.writePortWord _ _ _

theorem State.Ordered.readFree (p : PortId) (r : RingId) : (t.readFree p r).Ordered := by
  unfold State.readFree
  split
  · exact h.same rfl rfl rfl
  · exact h.refuse _ _

theorem State.Ordered.ringCycle (p : PortId) (r : RingId) (o : Nat) (d : Dir) (v : Word) : (t.ringCycle p r o d v).Ordered := by
  unfold State.ringCycle
  repeat' split
  all_goals first | exact h.ringArrive _ _ | exact h.readFree _ _

theorem State.Ordered.lockCycle (p : PortId) (k o : Nat) (d : Dir) : (t.lockCycle p k o d).Ordered := by
  unfold State.lockCycle
  dsimp only
  split
  · exact (h.readLock _ _ _).completeRead _ _
  · exact h.writeLock _ _

theorem State.Ordered.chanCycle (p : PortId) (k o : Nat) (d : Dir) (v : Word) : (t.chanCycle p k o d v).Ordered := by
  unfold State.chanCycle
  dsimp only
  split
  · exact h.same rfl rfl rfl
  · exact h.writeChan _ _ _ _

theorem State.Ordered.windowCycle (p : PortId) (w : WinId) (d : Dir) (a : Addr) (v : Word) :
    (t.windowCycle p w d a v).Ordered := by
  unfold State.windowCycle State.rightfulCycle State.watchCycle
  dsimp only
  repeat' split
  all_goals first
    | exact h.refuse _ _ | exact h.ringCycle _ _ _ _ _ | exact h.lockCycle _ _ _ _ | exact h.chanCycle _ _ _ _ _ | exact h.toMemory _ _ _ _

end

/-! ## Table unit -/

/-- A rejection is a delivery. -/
theorem State.Ordered.rejectTable {t : State} (h : t.Ordered) (n : Nat) (r : TableReason) : (t.rejectTable n r).Ordered :=
  h.deliver _ _ _

/-- A change of a record that keeps its data words. -/
theorem State.Ordered.modRecSame {t : State} (h : t.Ordered) (r : RingId) (f : RingRec → RingRec)
    (hf : ∀ k, (f k).data = k.data) : (t.modRec r f).Ordered := by
  refine ⟨h.1, fun q => ?_⟩
  have e : (upd t.recs r f)[q].capacity = t.recs[q].capacity := by
    rw [upd_get]
    split
    · next e => subst e; unfold RingRec.capacity; rw [hf]
    · rfl
  show Ring.law t.rings[q] (upd t.recs r f)[q].capacity
  rw [e]
  exact h.2 q

theorem State.deliver_rings (s : State) (p : PortId) (src : Source) (d : Word) : (s.deliver p src d).rings = s.rings := by
  unfold State.deliver
  repeat' split
  all_goals rfl

theorem State.refuse_rings (s : State) (p : PortId) (r : Reason) : (s.refuse p r).rings = s.rings := by
  unfold State.refuse
  split
  · rfl
  · show (State.deliver _ _ _ _).rings = _
    rw [State.deliver_rings]
    rfl

/-- What a ring's dynamic part holds at the end of its reset: no entry, no assembly (R89). -/
def Ring.Clear (k : Ring) : Prop := k.head = 0 ∧ k.tail = 0 ∧ k.count = 0 ∧ k.postAsm = none ∧ k.takeAsm = none

theorem Ring.Clear.law {k : Ring} (h : k.Clear) (cap : Nat) : k.law cap := by
  obtain ⟨h1, h2, h3, h4, h5⟩ := h
  simp [Ring.law, h1, h2, h3, h4, h5]

theorem State.announceGrant_rings (s : State) (l : LockId) (c : Claimant) : (s.announceGrant l c).rings = s.rings := by
  cases c
  · exact State.deliver_rings _ _ _ _
  · rfl

theorem State.releaseLock_rings (s : State) (l : LockId) : (s.releaseLock l).rings = s.rings := by
  unfold State.releaseLock
  split
  · rfl
  · rw [State.announceGrant_rings]; rfl

theorem State.leaveLock_rings (s : State) (c : ChanId) : (s.leaveLock c).rings = s.rings := by
  unfold State.leaveLock State.releaseForChan
  repeat' split
  all_goals first | rfl | exact State.releaseLock_rings _ _

theorem State.modRing_other (s : State) {r q : RingId} (n : r ≠ q) (f : Ring → Ring) :
    (s.modRing r f).rings[q] = s.rings[q] := by
  show (upd s.rings r f)[q] = _
  rw [upd_get, if_neg n]

theorem State.issuePost_other (s : State) {r q : RingId} (n : r ≠ q) (x : Post) :
    (s.issuePost r x).rings[q] = s.rings[q] := by
  unfold State.issuePost State.issueRing
  split
  · exact s.modRing_other n _
  · exact s.modRing_other n _

theorem State.openPost_other (s : State) {r q : RingId} (n : r ≠ q) (x : Post) : (s.openPost r x).rings[q] = s.rings[q] := by
  have e := s.modRing_other n fun k => { k with postAsm := some { owner := x.who, words := 0 } }
  unfold State.openPost
  dsimp only
  repeat' split
  · exact (State.modRing_other _ n _).trans e
  · exact (State.modRing_other _ n _).trans e
  · exact (State.issuePost_other _ n _).trans e

/-- Opening the head of the stall queue at a ring leaves the other rings alone. -/
theorem State.openHead_other (s : State) {r q : RingId} (n : r ≠ q) : (s.openHead r).rings[q] = s.rings[q] := by
  have u : ∀ (x : Post) (t : State), (t.unstall x).rings = t.rings := by
    intro x t
    unfold State.unstall
    repeat' split
    all_goals rfl
  unfold State.openHead
  repeat' split
  · rfl
  · rw [State.openPost_other _ n, u]
    exact s.modRing_other n _
  · rfl

theorem Ring.unowned {k : Ring} (h : k.postAsm = none) (c : Claimant) :
    k.ownsPost c = false ∧ k.discardPost c = k := by
  simp [Ring.ownsPost, Ring.discardPost, h]

/-- A ring without an assembly is not touched by the discarding of a channel's assemblies. -/
theorem State.closeAssembly_unowned {s : State} {q : RingId} (h : s.rings[q].postAsm = none) (c : ChanId) (r : RingId) :
    (s.closeAssembly c r).rings[q] = s.rings[q] := by
  unfold State.closeAssembly State.dropAssembly
  dsimp only
  by_cases n : r = q
  · subst n
    rw [(Ring.unowned h _).1, Bool.false_and, if_neg Bool.false_ne_true, if_neg Bool.false_ne_true]
    show (upd s.rings r _)[r] = _
    rw [upd_get, if_pos rfl]
    exact (Ring.unowned h _).2
  · repeat' split
    · exact s.modRing_other n _
    · exact (State.openHead_other _ n).trans (s.modRing_other n _)
    · exact s.modRing_other n _

theorem State.closeAssemblies_unowned {q : RingId} (c : ChanId) (l : List RingId) : ∀ {s : State},
    s.rings[q].postAsm = none → (l.foldl (fun t r => t.closeAssembly c r) s).rings[q] = s.rings[q] := by
  induction l with
  | nil => intro s _; rfl
  | cons r l ih =>
    intro s h
    have e := State.closeAssembly_unowned h c r
    rw [List.foldl_cons, ih (by rw [e]; exact h), e]

/-- The end of a run by a ring reset leaves a ring without an assembly alone. -/
theorem State.endRunByReset_unowned {s : State} {q : RingId} (h : s.rings[q].postAsm = none) (c : ChanId) (st : Status) :
    (s.endRunByReset c st).rings[q] = s.rings[q] := by
  have e : ((s.modChan c fun k => k.ended st).closeAssemblies c).rings[q] = s.rings[q] :=
    State.closeAssemblies_unowned (s := s.modChan c fun k => k.ended st) c _ h
  unfold State.endRunByReset State.deliverDone
  split
  · rw [State.deliver_rings, State.leaveLock_rings]; exact e
  · rw [State.leaveLock_rings]; exact e

/-- Only the rings matter. -/
theorem State.clear_of_rings {s t : State} {q : RingId} (e : t.rings = s.rings) (h : s.rings[q].Clear) :
    t.rings[q].Clear := by
  rw [e]
  exact h

theorem State.detachChan_clear {s : State} {q : RingId} (h : s.rings[q].Clear) (c : ChanId) :
    (s.detachChan c).rings[q].Clear := by
  show Ring.Clear (Vector.ofFn fun r : RingId => (s.rings[r]).unlive c)[q]
  rw [Fin.getElem_fin, Vector.getElem_ofFn]
  exact h

/-- A stop by a ring reset leaves a clear ring clear. -/
theorem State.stopByReset_clear {s : State} {q : RingId} (h : s.rings[q].Clear) (c : ChanId) :
    (s.stopByReset c).rings[q].Clear := by
  unfold State.stopByReset
  split
  · exact h
  · have k := State.detachChan_clear h c
    rw [State.endRunByReset_unowned k.2.2.2.1]
    exact k

theorem State.resetClaimant_clear {s : State} {r : RingId} (h : s.rings[r].Clear) (q : Post) :
    (s.resetClaimant q).rings[r].Clear := by
  unfold State.resetClaimant
  split
  · exact State.clear_of_rings (State.refuse_rings _ _ _) h
  · exact State.stopByReset_clear h _

theorem State.resetAwaiting_clear {s : State} {r : RingId} (h : s.rings[r].Clear) (q : Option Post) :
    (s.resetAwaiting q).rings[r].Clear := by
  unfold State.resetAwaiting
  repeat' split
  all_goals first | exact h | exact State.clear_of_rings (State.refuse_rings _ _ _) h

theorem State.resetOwner_clear {s : State} {r : RingId} (h : s.rings[r].Clear) (a : Option PostAsm) :
    (s.resetOwner a).rings[r].Clear := by
  unfold State.resetOwner
  repeat' split
  all_goals first | exact h | exact State.stopByReset_clear h _

theorem State.resetStall_clear {r : RingId} : ∀ (l : List StallEntry) (s : State), s.rings[r].Clear →
    (l.foldl (fun t e => t.resetClaimant e.post) s).rings[r].Clear
  | [], _, h => h
  | e :: l, _, h => State.resetStall_clear l _ (State.resetClaimant_clear h e.post)

/-- A ring reset leaves its ring clear (R89). -/
theorem State.resetRing_clear (s : State) (r : RingId) : (s.resetRing r).rings[r].Clear := by
  have h0 : (s.modRing r (·.cleared)).rings[r].Clear := by
    show Ring.Clear (upd s.rings r _)[r]
    rw [upd_get, if_pos rfl]
    exact ⟨rfl, rfl, rfl, rfl, rfl⟩
  exact State.resetOwner_clear (State.resetStall_clear _ _ (State.resetAwaiting_clear h0 _)) _

section
variable {t : State} (h : t.Ordered)
include h

theorem State.Ordered.installRing (r : RingId) (d : Vector Word 7) (en : Bool) : (t.installRing r d en).Ordered := by
  refine ⟨(h.resetRing r).1, fun q => ?_⟩
  show Ring.law (t.resetRing r).rings[q] (upd (t.resetRing r).recs r _)[q].capacity
  rw [upd_get]
  split
  · next e => subst e; exact (State.resetRing_clear t _).law _
  · exact (h.resetRing r).2 q

theorem State.Ordered.commitWin (w : WinId) (v : Word) : (t.commitWin w v).Ordered := by
  unfold State.commitWin
  dsimp only
  repeat' split
  all_goals first | exact h | exact State.Ordered.rejectTable (h.modWin w _) _ _ | exact h.same rfl rfl rfl

theorem State.Ordered.commitRing (r : RingId) (v : Word) : (t.commitRing r v).Ordered := by
  unfold State.commitRing
  dsimp only
  repeat' split
  all_goals first | exact h.installRing _ _ _ | exact (h.modRecSame r (·.unstage) fun _ => rfl).rejectTable _ _

theorem State.Ordered.writeBinding (p : PortId) (i : SlotId) (v : Word) : (t.writeBinding p i v).Ordered := by
  unfold State.writeBinding
  split
  · exact h.same rfl rfl rfl
  · exact State.Ordered.rejectTable (h.modCtl p _) _ _

theorem State.Ordered.applyTable (k : TableWord) (v : Word) : (t.applyTable k v).Ordered := by
  cases k
  · exact h.same rfl rfl rfl
  · exact h.same rfl rfl rfl
  · exact h.commitWin _ _
  · exact h.modRecSame _ _ fun _ => rfl
  · exact h.commitRing _ _
  · exact h.same rfl rfl rfl
  · exact h.writeBinding _ _ _
  · exact h

theorem State.Ordered.damageTable (k : TableWord) : (t.damageTable k).Ordered := by
  cases k
  · exact h
  · exact h.same rfl rfl rfl
  · exact h.same rfl rfl rfl
  · exact h.modRecSame _ _ fun _ => rfl
  · exact h.modRecSame _ _ fun _ => rfl
  · exact h
  · exact h.same rfl rfl rfl
  · exact h

theorem State.Ordered.tableCycle (p : PortId) (o : Nat) (d : Dir) (a : Addr) (v : Word) : (t.tableCycle p o d a v).Ordered := by
  unfold State.tableCycle
  repeat' split
  all_goals first | exact h.refuse _ _ | exact (h.applyTable _ _).toMemory _ _ _ _ | exact h | exact h.same rfl rfl rfl

theorem State.Ordered.arrive (p : PortId) (d : Dir) (a : Addr) (v : Word) : (t.arrive p d a v).Ordered := by
  unfold State.arrive
  split
  · exact h.portWindow _ _ _ _
  · exact h.tableCycle _ _ _ _ _
  · exact h.refuse _ _
  · exact h.windowCycle _ _ _ _ _
  · exact h.same rfl rfl rfl

/-- Presenting a cycle keeps the laws of locks and rings. -/
theorem State.Ordered.present (p : PortId) (d : Dir) (a : Addr) (v : Word) : (t.present p d a v).Ordered := by
  unfold State.present
  repeat' split
  all_goals first | exact h | exact State.Ordered.arrive (h.modPort p _) _ _ _ _ | exact h.same rfl rfl rfl

end

end Sys2Proof.Machine
end

