-- ==== Sys2Proof/Laws/PerInstr.lean ====
section
/-! SUPPORT. Facts about every command as syntax, one lemma per constructor: no word spells a command, since
spec/opcode_table.json gives no row any bits. -/

namespace Sys2Proof.Laws.NoWord

/-- No word of any length spells the command. -/
def Statement (i : Instr) : Prop := ∀ nbits w : Nat, decodeTableWord nbits w ≠ some i

/-- The decoder of table words answers none. -/
theorem of_decode (i : Instr) : Statement i := fun _ _ h => nomatch h

theorem ponnLow : Statement (.ponnLow) := of_decode _
theorem ponnHigh : Statement (.ponnHigh) := of_decode _
theorem coldClearWriteComplete : Statement (.coldClearWriteComplete) := of_decode _
theorem rstnLow : Statement (.rstnLow) := of_decode _
theorem sweepStart : Statement (.sweepStart) := of_decode _
theorem sweepReadComplete (upset : Upset) : Statement (.sweepReadComplete upset) := of_decode _
theorem portReset (p : PortId) : Statement (.portReset p) := of_decode _
theorem teardownComplete (p : PortId) : Statement (.teardownComplete p) := of_decode _
theorem portUp (p : PortId) : Statement (.portUp p) := of_decode _
theorem strobeNegated (p : PortId) : Statement (.strobeNegated p) := of_decode _
theorem memoryRead (p : PortId) (a : Addr) : Statement (.memoryRead p a) := of_decode _
theorem memoryWrite (p : PortId) (a : Addr) (v : Word) : Statement (.memoryWrite p a v) := of_decode _
theorem headerWrite (n : Fin 4) (v : Word) : Statement (.headerWrite n v) := of_decode _
theorem windowDataWrite (w : WinId) (k : Fin 3) (v : Word) : Statement (.windowDataWrite w k v) := of_decode _
theorem windowCommit (w : WinId) (v : Word) : Statement (.windowCommit w v) := of_decode _
theorem ringDataWrite (r : RingId) (k : Fin 7) (v : Word) : Statement (.ringDataWrite r k v) := of_decode _
theorem ringCommit (r : RingId) (v : Word) : Statement (.ringCommit r v) := of_decode _
theorem leaseWrite (l : LockId) (v : Word) : Statement (.leaseWrite l v) := of_decode _
theorem bindingWrite (q : PortId) (i : SlotId) (v : Word) : Statement (.bindingWrite q i v) := of_decode _
theorem take (p : PortId) : Statement (.take p) := of_decode _
theorem peek (p : PortId) : Statement (.peek p) := of_decode _
theorem endSpecific (p : PortId) (v : Word) : Statement (.endSpecific p v) := of_decode _
theorem endNonSpecific (p : PortId) : Statement (.endNonSpecific p) := of_decode _
theorem pendClear (p : PortId) (v : Word) : Statement (.pendClear p v) := of_decode _
theorem maskSet (p : PortId) (v : Word) : Statement (.maskSet p v) := of_decode _
theorem maskClear (p : PortId) (v : Word) : Statement (.maskClear p v) := of_decode _
theorem threshold (p : PortId) (v : Word) : Statement (.threshold p v) := of_decode _
theorem signal (p : PortId) (v : Word) : Statement (.signal p v) := of_decode _
theorem refusalBRead (p : PortId) : Statement (.refusalBRead p) := of_decode _
theorem identRead (p : PortId) : Statement (.identRead p) := of_decode _
theorem faultBRead (p : PortId) : Statement (.faultBRead p) := of_decode _
theorem readOnlyWordWrite (p : PortId) (a : Addr) (v : Word) : Statement (.readOnlyWordWrite p a v) := of_decode _
theorem dropPort (p : PortId) (n : PortId) : Statement (.dropPort p n) := of_decode _
theorem ringReset (p : PortId) (r : RingId) : Statement (.ringReset p r) := of_decode _
theorem lockFree (p : PortId) (l : LockId) : Statement (.lockFree p l) := of_decode _
theorem clearFault (p : PortId) : Statement (.clearFault p) := of_decode _
theorem ringPost (p : PortId) (a : Addr) (v : Word) : Statement (.ringPost p a v) := of_decode _
theorem ringTake (p : PortId) (a : Addr) : Statement (.ringTake p a) := of_decode _
theorem freeCountRead (p : PortId) (a : Addr) : Statement (.freeCountRead p a) := of_decode _
theorem holdListTakeUp (r : RingId) : Statement (.holdListTakeUp r) := of_decode _
theorem stalledPostOpen (r : RingId) : Statement (.stalledPostOpen r) := of_decode _
theorem stallLimitExpiry (r : RingId) (p : PortId) : Statement (.stallLimitExpiry r p) := of_decode _
theorem lockTry (p : PortId) (a : Addr) : Statement (.lockTry p a) := of_decode _
theorem lockWait (p : PortId) (a : Addr) : Statement (.lockWait p a) := of_decode _
theorem lockWrite (p : PortId) (a : Addr) (v : Word) : Statement (.lockWrite p a v) := of_decode _
theorem lockHandover (l : LockId) : Statement (.lockHandover l) := of_decode _
theorem leaseExpiry (l : LockId) : Statement (.leaseExpiry l) := of_decode _
theorem tickBoundary : Statement (.tickBoundary) := of_decode _
theorem channelFieldWrite (p : PortId) (a : Addr) (v : Word) : Statement (.channelFieldWrite p a v) := of_decode _
theorem channelStart (p : PortId) (a : Addr) : Statement (.channelStart p a) := of_decode _
theorem channelAbort (p : PortId) (a : Addr) : Statement (.channelAbort p a) := of_decode _
theorem stopPendingComplete (c : ChanId) (upset : Upset) : Statement (.stopPendingComplete c upset) := of_decode _
theorem channelPick : Statement (.channelPick) := of_decode _
theorem arbiterGrant (upset : Upset) : Statement (.arbiterGrant upset) := of_decode _
theorem memoryAccessComplete (upset : Upset) : Statement (.memoryAccessComplete upset) := of_decode _
theorem cycleHeldOnOffPort (p : PortId) (d : Dir) (a : Addr) (v : Word) : Statement (.cycleHeldOnOffPort p d a v) := of_decode _
theorem writeOnlyWordRead (p : PortId) (a : Addr) : Statement (.writeOnlyWordRead p a) := of_decode _

end Sys2Proof.Laws.NoWord
end

