-- ==== Sys2Proof/Tests/Slice0.lean ====
section
/-! SUPPORT. The model's own tests: ill-formed commands that the checks refuse, and for every statement for the provers states
and operands that meet its hypotheses together, with the command's outcome there. -/

namespace Sys2Proof.Tests

open Sys2Proof.Machine

set_option maxRecDepth 20000

/-! ## Small states -/

/-- The state after a command. -/
def after (i : Instr) (s : State) : State :=
  match exec i s with
  | .next t => t
  | _ => s

/-- The part RUNNING with every port UP and nothing configured. -/
def running : State :=
  { State.reset with
    part := .running
    ponn := true
    ports := Vector.replicate 4 { Port.reset with state := .up } }

/-- A VALID window below 10000H by its words. -/
def win (base : Nat) (len rights ctl : Word) : WinEntry :=
  { WinEntry.reset with valid := true, data := #v[BitVec.ofNat 16 base, len, rights], ctl := winCtlOf ctl }

/-- An enabled ring with producer P0 and consumer P1, watermark 1 and stall limit 3. -/
def ringOf (base cap size policy : Nat) : RingRec :=
  { RingRec.reset with
    enable := true
    data := #v[BitVec.ofNat 16 base, BitVec.ofNat 16 (16 * size), BitVec.ofNat 16 cap, 1, 3, BitVec.ofNat 16 policy, 1] }

/-- W0 PLAIN at 0H, W1 WATCH (on-write, on-read) at 100H for P1, W2 to W4 RING 0 to 2 at 200H, 202H and 204H, W5 LOCK 0 to 15 at
300H, W6 CHANNEL C0 to C3 at 400H, W7 WATCH (changed-only) at 500H, and W8 PLAIN at 600H without rights. -/
def windowsOf : Vector WinEntry 32 :=
  Vector.ofFn fun w : WinId =>
    match w.val with
    | 0 => win 0 0x100 0x0FF0 0x0001
    | 1 => win 0x100 0x10 0x1FF0 0x6002
    | 2 => win 0x200 2 0x0FF0 0x0003
    | 3 => win 0x202 2 0x0FF0 0x0013
    | 4 => win 0x204 2 0x0FF0 0x0023
    | 5 => win 0x300 32 0x0FF0 0x1004
    | 6 => win 0x400 32 0x0FF0 0x0405
    | 7 => win 0x500 1 0x1FF0 0xA002
    | 8 => win 0x600 1 0 0x0001
    | _ => WinEntry.reset

/-- Ring 0 at 1000H: 2 entries of one word, REFUSE; ring 1 at 1100H: 2 entries of two words, STALL; ring 2 disabled. -/
def board : State :=
  { running with
    header := #v[1, 0, 0, 0]
    windows := windowsOf
    recs := Vector.ofFn fun r : RingId =>
      if r.val = 0 then ringOf 0x1000 2 1 0 else if r.val = 1 then ringOf 0x1100 2 2 1 else RingRec.reset }

/-- Slot `i` of port `p` bound and unmasked, with a notice or none. -/
def bound (p : PortId) (i : SlotId) (src : Source) (l : Level) (n : Option Notice) (s : State) : State :=
  s.modCtl p fun k =>
    { k with
      mask := 0
      slots := upd k.slots i fun _ => { binding := some { source := src, level := l }, notice := n } }

/-- Port `p` with a cycle in progress. -/
def busy (p : PortId) (d : Dir) (a : Addr) (v : Word) (w : CycleWait) (s : State) : State :=
  s.modPort p fun pt => pt.holding d a v w

/-- An access in progress. -/
def inAccess (k : AccKind) (a : Addr) (code : Nat) (i : Issuer) (w : Option WatchTag) (old : Option (Word × Bool))
    (s : State) : State :=
  { s with inProg := some { req := { kind := k, addr := a, code := code, issuer := i, watch := w, abandoned := false }
                            old := old } }

/-- Memory holds these words, written well. -/
def holding (m : List (Nat × Word)) (s : State) : State :=
  { s with mem := m.map fun c => (c.1, goodCell c.2) }

/-- Memory holds a word with a parity error. -/
def broken (a : Nat) (w : Word) (s : State) : State := { s with mem := [(a, { word := w, par := !parityFor w })] }

/-- Port `p` took no new cycle, and its last one ended so. -/
abbrev ended (s : State) (p : PortId) (e : CycleEnd) : Prop := s.ports[p].cycle = none ∧ s.ports[p].last = some e

/-! ## Ill-formed commands -/

theorem test_illFormed_memoryRead : (Instr.memoryRead 1 0x3FDF0).wellFormed = false := by decide
theorem test_illFormed_memoryWrite_portWindow : (Instr.memoryWrite 1 0x3FDF3 7).wellFormed = false := by decide
theorem test_illFormed_memoryWrite_tableRow : (Instr.memoryWrite 0 0x3FE00 7).wellFormed = false := by decide
theorem test_illFormed_endSpecific : (Instr.endSpecific 1 0xFFFF).wellFormed = false := by decide
theorem test_illFormed_readOnlyWordWrite : (Instr.readOnlyWordWrite 1 0x3FDF6 7).wellFormed = false ∧
    (Instr.readOnlyWordWrite 0 0x3FDFD 0x0400).wellFormed = false ∧
    (Instr.readOnlyWordWrite 0 0x3FE00 7).wellFormed = false := by decide
theorem test_illFormed_writeOnlyWordRead : (Instr.writeOnlyWordRead 0 0x3FDFE).wellFormed = false ∧
    (Instr.writeOnlyWordRead 1 0x3FDF0).wellFormed = false := by decide
theorem test_illFormed_outOfSpan : (Instr.ringPost 1 0x3FDF0 7).wellFormed = false ∧
    (Instr.ringTake 1 0x3FDF0).wellFormed = false ∧ (Instr.freeCountRead 1 0x3FE00).wellFormed = false ∧
    (Instr.lockTry 1 0x3FDF0).wellFormed = false ∧ (Instr.lockWait 1 0x3FDF0).wellFormed = false ∧
    (Instr.lockWrite 1 0x3FFFF 0).wellFormed = false ∧ (Instr.channelFieldWrite 1 0x3FDF0 0).wellFormed = false ∧
    (Instr.channelStart 1 0x3FDF0).wellFormed = false ∧ (Instr.channelAbort 1 0x3FDF0).wellFormed = false := by decide

/-! ## Steps and reset -/

theorem test_StepRunsFront : ({ board with pending := [.peek 1, .ponnLow] } : State).pending = .peek 1 :: [.ponnLow] ∧
    step { board with pending := [.peek 1, .ponnLow] } = exec (.peek 1) { board with pending := [.ponnLow] } :=
  ⟨rfl, rfl⟩

/-- Lock 2 held by P1 with two ticks left, and P2's post stalled at ring 1 with one tick left. -/
def ticking : State :=
  (board.modLock 2 fun _ => { holder := some (.port 1), waiters := [], timer := some 2 }).modRing 1 fun k =>
    { k with stall := [{ post := { who := .port 2, word := 7, live := true }, ticks := some 1 }] }

theorem test_TicksAndClock_quiet : ticking.ponn = true ∧ (∀ l : LockId, ticking.leaseDue l = false) ∧
    (∀ (r : RingId) (p : PortId), ticking.rings[r].stall.any (·.dueFor p) = false) ∧
    ticking.tick + 1 < 256 * ((ticking.header[(3 : Fin 4)]).toNat + 1) ∧
    256 * ((ticking.header[(3 : Fin 4)]).toNat + 1) ≤ ({ ticking with tick := 255 } : State).tick + 1 ∧
    State.reset.ponn = false := by decide

theorem test_tickBoundary : (after .tickBoundary ticking).locks[(2 : LockId)].timer = some 1 ∧
    ((after .tickBoundary ticking).rings[(1 : RingId)].stall.map (·.ticks)) = [some 0] ∧
    (after .tickBoundary ticking).tick = 0 := by decide

/-- Both expiries outstanding, and only that of P2's stalled post. -/
def overdue : State :=
  (ticking.modLock 2 fun k => { k with timer := some 0 }).modRing 1 fun k =>
    { k with stall := [{ post := { who := .port 2, word := 7, live := true }, ticks := some 0 }] }

theorem test_TicksAndClock_outstanding : overdue.ponn = true ∧ overdue.leaseDue 2 = true ∧
    (∀ k : LockId, k < 2 → overdue.leaseDue k = false) ∧
    exec (.leaseExpiry 2) overdue = .next (after (.leaseExpiry 2) overdue) ∧ overdue.pending = [] ∧
    (∀ l : LockId, (after (.leaseExpiry 2) overdue).leaseDue l = false) ∧
    (after (.leaseExpiry 2) overdue).rings[(1 : RingId)].stall.any (·.dueFor 2) = true ∧
    (∀ (k : RingId) (q : PortId), k < 1 ∨ k = 1 ∧ q < 2 →
      (after (.leaseExpiry 2) overdue).rings[k].stall.any (·.dueFor q) = false) ∧
    (after .tickBoundary overdue).rings[(1 : RingId)].stall = [] ∧
    (after .tickBoundary overdue).locks[(2 : LockId)].holder = none :=
  ⟨rfl, by decide, by decide, rfl, rfl, by decide⟩

theorem test_ponnLow : board.ponn = true ∧ State.reset.ponn = false ∧ (after .ponnLow board).part = .coldClear ∧
    (after .ponnLow board).header[(0 : Fin 4)] = 0 := by decide

theorem test_rstnLow : board.rstn = true ∧ board.part ≠ .coldClear ∧ State.reset.rstn = true ∧
    State.reset.part = .coldClear ∧ ({ board with rstn := false } : State).rstn = false ∧
    (after .rstnLow board).part = .sweep ∧ (after .rstnLow board).kind = .warm ∧
    (after .rstnLow State.reset).part = .coldClear := by decide

/-- The clear at its write number `i`. -/
def clearing (i : Nat) : State :=
  inAccess (.write 0) (tableAddr i) 8 (.clear i) none none { State.reset with ponn := true }

theorem test_ponnHigh : State.reset.ponn = false ∧ board.ponn = true ∧
    (after .ponnHigh State.reset) = clearing 0 := by decide

theorem test_TableClear : (∀ (a : Access) (i : Nat), board.inProg = some a → a.req.issuer ≠ .clear i) ∧
    after .coldClearWriteComplete (clearing 510) = { clearing 511 with mem := [(0x3FFFE, { word := 0, par := true })] } :=
  ⟨fun _ _ h => (by rw [show board.inProg = none from rfl] at h; exact nomatch h), by decide⟩

theorem test_coldClearWriteComplete : (clearing 511).rstn = true ∧ (∀ p : PortId, (clearing 511).ports[p].cycle = none) ∧
    (after .coldClearWriteComplete (clearing 511)).part = .running ∧
    (after .coldClearWriteComplete (clearing 511)).ports[(3 : PortId)].state = .up ∧
    (after .coldClearWriteComplete { clearing 511 with rstn := false }).part = .sweep := by decide

/-- The sweep with RSTN low. -/
def sweepWait : State := { State.reset with part := .sweep, kind := .warm, ponn := true, rstn := false }

/-- The sweep at its read number `i`. -/
def sweeping (i : Nat) : State :=
  inAccess .read (tableAddr (sweepOffset i)) 8 (.sweep i) none none { sweepWait with rstn := true }

theorem test_sweepStart : sweepWait.rstn = false ∧ sweepWait.part = .sweep ∧ sweepWait.inProg = none ∧
    State.reset.rstn = true ∧ ({ board with rstn := false } : State).part ≠ .sweep ∧
    after .sweepStart sweepWait = sweeping 0 := by decide

theorem test_SweepOfTable_good :
    ((holding [(0x3FE00, 1)] (sweeping 0)).cellAt (tableAddr (sweepOffset 0))).bad = false ∧
    (after (.sweepReadComplete 0) (holding [(0x3FE00, 1)] (sweeping 0))).header[(0 : Fin 4)] = 1 ∧
    ((holding [(0x3FEDE, 9)] (sweeping 274)).cellAt (tableAddr (sweepOffset 274))).bad = false ∧
    (after (.sweepReadComplete 0) (holding [(0x3FEDE, 9)] (sweeping 274))).inProg = (sweeping 275).inProg := by decide

theorem test_SweepOfTable_bad : ((broken 0x3FE00 1 (sweeping 0)).cellAt (tableAddr (sweepOffset 0))).bad = true ∧
    (after (.sweepReadComplete 0) (broken 0x3FE00 1 (sweeping 0))).header[(0 : Fin 4)] = 0 ∧
    (after (.sweepReadComplete 0) (broken 0x3FE00 1 (sweeping 0))).fault =
      some { addr := 0x3FE00, code := 8, further := false } := by decide

theorem test_sweepReadComplete_last : ((holding [(0x3FEDF, 9)] (sweeping 275)).cellAt 0x3FEDF).bad = false ∧
    (∀ p : PortId, (sweeping 275).ports[p].cycle = none) ∧
    (after (.sweepReadComplete 0) (holding [(0x3FEDF, 9)] (sweeping 275))).part = .running ∧
    (after (.sweepReadComplete 0) (holding [(0x3FEDF, 9)] (sweeping 275))).leases[(15 : LockId)] = 9 := by decide

theorem test_SweepOfTable_upset : Mem.get? (holding [(0x3FE00, 1)] (sweeping 0)).mem (tableAddr (sweepOffset 0)).toNat =
      some (goodCell 1) ∧
    (after (.sweepReadComplete 1) (holding [(0x3FE00, 1)] (sweeping 0))).fault =
      some { addr := 0x3FE00, code := 8, further := false } ∧
    Mem.get? (sweeping 0).mem (tableAddr (sweepOffset 0)).toNat = none ∧
    ((after (.sweepReadComplete 0) (broken 0x3FE10 1 (sweeping 68))).windows[(0 : WinId)]).damaged = true := by decide

/-- The last clear write with IDENT reads held on these ports. -/
def starting (l : List PortId) : State := l.foldl (fun s p => busy p .read 0x3FDFC 0 .unclassified s) (clearing 511)

/-- The same state with the access made. -/
def startedUp (l : List PortId) : State :=
  { starting l with inProg := none, mem := Mem.set (starting l).mem 0x3FFFF { word := 0, par := true } }

theorem test_EndOfStartUp_held : ((startedUp [1]).heldOn 1 ∧ ∀ q : PortId, q ≠ 1 → ¬(startedUp [1]).heldOn q) ∧
    ((startedUp [1, 2]).heldOn 1 ∧ (startedUp [1, 2]).heldOn 2) ∧ (∀ p : PortId, ¬(startedUp []).heldOn p) ∧
    ended (after .coldClearWriteComplete (starting [1])) 1 (.read 0x0011) ∧
    (after .coldClearWriteComplete (starting [1])).ports[(1 : PortId)].pd = some 0x0011 ∧
    (after .coldClearWriteComplete ((starting [1]).modPort 1 (·.strobeNegated))).ports[(1 : PortId)].pd = none ∧
    ended (after .coldClearWriteComplete ((starting [1]).modPort 1 fun pt => { pt with prstn := false })) 1 .abandoned := by
  decide

theorem test_EndOfStartUp_badLast : ((broken 0x3FEDF 9 (sweeping 275)).cellAt 0x3FEDF).bad = true ∧
    (after (.sweepReadComplete 0) (broken 0x3FEDF 9 (sweeping 275))).part = .running ∧
    (after (.sweepReadComplete 0) (broken 0x3FEDF 9 (sweeping 275))).leases[(15 : LockId)] = 0 ∧
    (after (.sweepReadComplete 0) (broken 0x3FEDF 9 (sweeping 275))).fault =
      some { addr := 0x3FEDF, code := 8, further := false } := by decide

/-! ## Cycles and the access path -/

/-- Port 1 DOWN, port 2 OFF in a part that starts up, port 3 with a cycle at memory. -/
def mixed : State :=
  busy 3 .read 0x9000 0 .memory ((board.modPort 1 fun pt => { pt with state := .down }).modPort 2 fun pt =>
    { pt with state := .off })

theorem test_PresentedCycles : cycleOf (.take 1) = some (1, .read, 0x3FDF0, 0) ∧
    (mixed.ports[(1 : PortId)].cycle = none ∧ mixed.ports[(1 : PortId)].state = .down) ∧
    (mixed.ports[(2 : PortId)].cycle = none ∧ mixed.ports[(2 : PortId)].state = .off) ∧
    mixed.ports[(3 : PortId)].cycle.isSome = true ∧ after (.take 1) mixed = mixed ∧ after (.take 3) mixed = mixed ∧
    (after (.take 2) mixed).ports[(2 : PortId)].cycle.isSome = true := by decide

theorem test_cycleHeldOnOffPort : (after (.cycleHeldOnOffPort 2 .write 0x10 7) mixed).ports[(2 : PortId)] =
    mixed.ports[(2 : PortId)].holding .write 0x10 7 .unclassified := by decide

theorem test_strobeNegated : (mixed.ports[(3 : PortId)].cycle).map (·.strobe) = some true ∧
    ((after (.strobeNegated 3) mixed).ports[(3 : PortId)].cycle).map (·.strobe) = some false ∧
    (after (.strobeNegated 1) (board.answered 1 7)).ports[(1 : PortId)].pd = none := by decide

theorem test_Classification_fixed : board.classify 0x3FDF0 = .portWord 0 ∧ board.classify 0x3FDFF = .portWord 15 ∧
    board.classify 0x3FE00 = .table 0 ∧ board.classify 0x3FFFF = .table 511 ∧ board.classify 0x3FDEF = .memory := by decide

theorem test_Classification_ranges : board.classify 0xFFF = .memory ∧ board.classify 0x1000 = .storage ∧
    board.classify 0x1001 = .storage ∧ board.classify 0x1002 = .memory ∧ board.classify 0xFF = .window 0 ∧
    board.classify 0x100 = .window 1 ∧ board.classify 0x10F = .window 1 ∧ board.classify 0x110 = .memory ∧
    ({ board with header := #v[0, 0, 0, 0] } : State).classify 0xFF = .memory := by decide

theorem test_Classification_oneWindow : (∀ v : WinId, v ≠ 1 → board.windows[v].valid = true →
    winBase board.windows[v].data ≤ 0x100 → winBase board.windows[v].data + winLen board.windows[v].data ≤ 0x100) ∧
    (∀ r : RingId, board.recs[r].enable = true → board.recs[r].base ≤ 0x100 →
      board.recs[r].base + board.recs[r].capacity * board.recs[r].entrySize ≤ 0x100) := by decide

theorem test_readOnlyWordWrite : board.ready 1 ∧
    after (.readOnlyWordWrite 1 0x3FDF0 7) board = board.refusedOn 1 .write 0x3FDF0 .windowWord ∧
    after (.readOnlyWordWrite 1 0x3FDFF 7) board = board.refusedOn 1 .write 0x3FDFF .windowWord ∧
    after (.readOnlyWordWrite 1 0x3FDFD 0x0400) board = board.refusedOn 1 .write 0x3FDFD .supervisorOnly := by decide

theorem test_writeOnlyWordRead : after (.writeOnlyWordRead 1 0x3FDF2) board = board.refusedOn 1 .read 0x3FDF2 .windowWord ∧
    after (.writeOnlyWordRead 0 0x3FDFD) board = board.refusedOn 0 .read 0x3FDFD .windowWord ∧
    after (.writeOnlyWordRead 3 0x3FDFE) board = board.refusedOn 3 .read 0x3FDFE .supervisorOnly := by decide

theorem test_controlValues : controlOf 0x0103 = some (.dropPort 3) ∧ controlOf 0x0104 = none ∧
    controlOf 0x0207 = some (.ringReset 7) ∧ controlOf 0x0208 = none ∧ controlOf 0x030F = some (.lockFree 15) ∧
    controlOf 0x0310 = none ∧ controlOf 0x0400 = some .clearFault ∧ controlOf 0x0401 = none ∧ controlOf 0 = none ∧
    controlOf 0x0500 = none := by decide

theorem test_PortWindowReads : ended (after (.memoryRead 1 0x3FDF6) board) 1 (.read 0xFFFF) ∧
    ended (after (.memoryRead 1 0x3FDF8) board) 1 (.read 4) ∧ ended (after (.memoryRead 1 0x3FDF3) board) 1 (.read 0) ∧
    ended (after (.memoryRead 0 0x3FDFE) { board with fault := some { addr := 0x2ABCD, code := 4, further := false } }) 0
      (.read 0xABCD) := by decide

theorem test_RefusedByAccessPath : board.classify 0x1000 = .storage ∧ board.classify 0x600 = .window 8 ∧
    inReadSet board.windows[(8 : WinId)].data 1 = false ∧ inWriteSet board.windows[(8 : WinId)].data 1 = false ∧
    after (.memoryRead 1 0x1000) board = board.refusedOn 1 .read 0x1000 .ringStorage ∧
    after (.memoryWrite 1 0x3FE00 7) board = board.refusedOn 1 .write 0x3FE00 .tableWrite ∧
    after (.memoryRead 1 0x600) board = board.refusedOn 1 .read 0x600 .noReadRight ∧
    after (.readOnlyWordWrite 1 0x600 7) board = board.refusedOn 1 .write 0x600 .noWriteRight := by decide

theorem test_RefusedByAccessPath_takeWord : board.classify 0x201 = .window 2 ∧
    board.windows[(2 : WinId)].ctl.winKind = some .ring ∧
    (0x201#18).toNat = winBase board.windows[(2 : WinId)].data + 1 ∧
    after (.readOnlyWordWrite 1 0x201 7) board = board.refusedOn 1 .write 0x201 .windowWord := by decide

theorem test_RefusedByAccessPath_rows : cycleOf (.ringPost 1 0x1000 7) = some (1, .write, 0x1000, 7) ∧
    after (.ringPost 1 0x1000 7) board = board.refusedOn 1 .write 0x1000 .ringStorage ∧
    after (.memoryWrite 1 0x201 7) board = board.refusedOn 1 .write 0x201 .windowWord ∧
    after (.memoryWrite 1 0x600 7) board = board.refusedOn 1 .write 0x600 .noWriteRight ∧
    after (.lockTry 1 0x600) board = board.refusedOn 1 .read 0x600 .noReadRight ∧
    after (.channelStart 1 0x600) board = board.refusedOn 1 .write 0x600 .noWriteRight := by decide

theorem test_memoryRead : board.classify 0x9000 = .memory ∧
    after (.memoryRead 1 0x9000) board =
      board.requested 1 .read 0x9000 0 .memory (portRequest 1 .read 0x9000 none) ∧
    after (.memoryRead 3 0x3FFFF) board =
      board.requested 3 .read 0x3FFFF 0 .memory (portRequest 3 .read 0x3FFFF none) := by decide

theorem test_memoryWrite : board.windows[(0 : WinId)].ctl.winKind = some .plain ∧
    after (.memoryWrite 1 0x10 7) board = board.requested 1 .write 0x10 7 .memory (portRequest 1 (.write 7) 0x10 none) ∧
    after (.memoryWrite 0 0x3FE04 7) board =
      board.requested 0 .write 0x3FE04 7 .memory (portRequest 0 (.write 7) 0x3FE04 none) ∧
    after (.memoryWrite 0 0x3FF20 7) board =
      board.requested 0 .write 0x3FF20 7 .memory (portRequest 0 (.write 7) 0x3FF20 none) := by decide

theorem test_PassesToMemory_watch : board.classify 0x500 = .window 7 ∧
    board.windows[(7 : WinId)].ctl.winKind = some .watch ∧
    after (.memoryWrite 2 0x500 7) board = board.requested 2 .write 0x500 7 .memory
      (portRequest 2 (.pair 7) 0x500 (some { win := 7, offset := 0, target := 1, onWrite := true, onRead := false,
                                             changedOnly := true })) ∧
    after (.memoryRead 2 0x10F) board = board.requested 2 .read 0x10F 0 .memory
      (portRequest 2 .read 0x10F (some { win := 1, offset := 15, target := 1, onWrite := true, onRead := true,
                                         changedOnly := false })) := by decide

/-! ## Memory port -/

/-- Requests of P1 (a pair) and of the transfer engine. -/
def asking : State :=
  holding [(0x500, 3)] ((board.modReq 1 fun _ => some (portRequest 1 (.pair 7) 0x500 none)).modReq 4 fun _ =>
    some { portRequest 1 .read 0x20 none with code := 4, issuer := .chan 0 .srcRead })

theorem test_arbiterGrant : asking.part = .running ∧ asking.inProg = none ∧ (1 : Fin 5) = asking.lastGrant + 1 + 1 ∧
    (∀ m : Fin 5, m.val < (1 : Fin 5).val → asking.reqs[asking.lastGrant + 1 + m] = none) ∧
    (after (.arbiterGrant 0) asking).lastGrant = 1 ∧
    ((after (.arbiterGrant 0) asking).inProg).map (·.old) = some (some (3, false)) := by decide

theorem test_RoundRobinGrant : (4 : Fin 5) = ({ asking with lastGrant := 1 } : State).lastGrant + 1 + 2 ∧
    (∀ m : Fin 5, m.val < (2 : Fin 5).val →
      ({ asking with lastGrant := 1 } : State).reqs[({ asking with lastGrant := 1 } : State).lastGrant + 1 + m] = none) ∧
    (after (.arbiterGrant 0) { asking with lastGrant := 1 }).lastGrant = 4 ∧ (∀ q : Fin 5, board.reqs[q] = none) ∧
    State.reset.part ≠ .running ∧ (sweeping 0).inProg.isSome = true := by decide

theorem test_RoundRobinGrant_upset : Mem.get? asking.mem 0x500 = some (goodCell 3) ∧ (1 : Upset) ≠ 0 ∧
    ((after (.arbiterGrant 1) asking).inProg).map (·.old) = some (some (2, true)) ∧
    Mem.get? ({ asking with mem := [] } : State).mem 0x500 = none ∧
    after (.arbiterGrant 1) { asking with mem := [] } = after (.arbiterGrant 0) { asking with mem := [] } :=
  ⟨by decide, by decide, by decide, by decide, rfl⟩

/-- P1's read of 9000H in progress. -/
def reading : State :=
  inAccess .read 0x9000 1 (.port 1) none none (holding [(0x9000, 0xBEEF)] (busy 1 .read 0x9000 0 .memory board))

theorem test_memoryAccessComplete_read : (reading.cellAt 0x9000).bad = false ∧
    ended (after (.memoryAccessComplete 0) reading) 1 (.read 0xBEEF) ∧
    ((broken 0x9000 0xBEEF reading).cellAt 0x9000).bad = true ∧
    ended (after (.memoryAccessComplete 0) (broken 0x9000 0xBEEF reading)) 1 (.read 0xBEEF) ∧
    (after (.memoryAccessComplete 0) (broken 0x9000 0xBEEF reading)).fault =
      some { addr := 0x9000, code := 1, further := false } := by decide

theorem test_LayoutsAndPins : bindingOf 0x2705 = .error .badIndex ∧
    bindingOf 0x211F = .ok (some { source := .watch 31, level := 2 }) ∧ board.inProg = none ∧ board.moen = false ∧
    reading.moen = true ∧ reading.pwaitn 1 = true ∧ reading.ma = some 0x9000 ∧
    (inAccess (.pair 7) 0x9000 1 (.port 1) none (some (3, false)) reading).md = some 7 ∧
    (inAccess (.pair 7) 0x9000 1 (.port 1) none none reading).moen = true ∧
    (inAccess (.write 7) 0x9000 1 (.port 1) none none reading).mdp = some false ∧
    winTarget #v[0x8800, 0x0010, 0x2260] = 2 ∧ inReadSet #v[0x8800, 0x0010, 0x2260] 2 = true ∧
    inWriteSet #v[0x8800, 0x0010, 0x2260] 2 = false :=
  ⟨rfl, rfl, by decide⟩

/-- The access in progress belongs to a cycle that has been abandoned. -/
def orphaned (s : State) : State := { s with inProg := s.inProg.map fun (a : Access) => { a with req := a.req.abandon } }

theorem test_ReadJudged : ∃ x : Access, reading.inProg = some x ∧ ReadJudged reading x { reading with inProg := none } :=
  ⟨_, rfl, _, (if_neg (by decide)).symm, rfl, Or.inl ⟨rfl, rfl⟩⟩

theorem test_AbandonedAccesses : (orphaned reading).inProg.map (·.req.abandoned) = some true ∧
    (after (.memoryAccessComplete 0) (orphaned reading)).ports[(1 : PortId)].cycle.isSome = true ∧
    (after (.memoryAccessComplete 0) (inAccess (.write 7) 0x9000 1 .stale none none (sweeping 0))).mem =
      [(0x9000, goodCell 7)] ∧
    (after (.memoryAccessComplete 0) (inAccess (.write 7) 0x9000 1 .stale none none (sweeping 0))).inProg =
      (sweeping 0).inProg ∧
    after (.sweepReadComplete 0) (inAccess .read 0x9000 1 .stale none none (sweeping 0)) =
      inAccess .read 0x9000 1 .stale none none (sweeping 0) := by decide

/-- P1's access of `k` at 500H, watched for P1. -/
def watched (k : AccKind) (old : Option (Word × Bool)) : State :=
  inAccess k 0x500 1 (.port 1)
    (some { win := 7, offset := 0, target := 1, onWrite := true, onRead := true, changedOnly := true }) old
    (bound 1 9 (.watch 7) 0 none (busy 1 .write 0x500 7 .memory (holding [(0x500, 3)] board)))

theorem test_PortAccessCompletes_write :
    ended (after (.memoryAccessComplete 0) (inAccess (.write 7) 0x9000 1 (.port 1) none none reading)) 1 .write ∧
    (after (.memoryAccessComplete 0) (inAccess (.write 7) 0x9000 1 (.port 1) none none reading)).mem =
      [(0x9000, { word := 7, par := false })] ∧ parityFor 3 = true ∧ parityFor 7 = false ∧ parityFor 0 = true := by decide

theorem test_WatchJudged : (watched (.write 7) none).ports[(1 : PortId)].cycle.isSome = true ∧
    (after (.memoryAccessComplete 0) (watched (.write 7) none)).slotPending 1 9 = true ∧
    (after (.memoryAccessComplete 0) (watched .read none)).slotPending 1 9 = true ∧
    (after (.memoryAccessComplete 0) (watched (.pair 3) (some (3, false)))).slotPending 1 9 = false ∧
    (after (.memoryAccessComplete 0) (watched (.pair 7) (some (3, false)))).slotPending 1 9 = true ∧
    (after (.memoryAccessComplete 0) (watched (.pair 3) (some (3, true)))).slotPending 1 9 = true := by decide

theorem test_WatchJudged_badRead : ((broken 0x500 3 (watched .read none)).cellAt 0x500).bad = true ∧
    (after (.memoryAccessComplete 0) (broken 0x500 3 (watched .read none))).slotPending 1 9 = true ∧
    (after (.memoryAccessComplete 0) (broken 0x500 3 (watched .read none))).fault.isSome = true := by decide

theorem test_MemoryFrame : exec (.take 1) board = .next (after (.take 1) board) ∧
    exec (.memoryAccessComplete 0) reading = .next (after (.memoryAccessComplete 0) reading) ∧
    reading.inProg.isSome = true ∧ (after (.arbiterGrant 0) asking).inProg.isSome = true :=
  ⟨rfl, rfl, by decide, by decide⟩

theorem test_MemoryFrame_noChange : (after (.arbiterGrant 0) board).inProg = none ∧
    (after (.memoryAccessComplete 1) board).mem = board.mem ∧
    reading.inProg.map (·.req.issuer) = some (.port 1) ∧ (after (.memoryAccessComplete 0) reading).mem = reading.mem ∧
    (after .coldClearWriteComplete reading).mem = reading.mem := by decide

theorem test_MemoryFrame_reads : (holding [(0x9000, 7)] board).cellAt 0x9000 = goodCell 7 ∧
    (after (.memoryAccessComplete 0) (inAccess (.write 7) 0x9000 1 (.port 1) none none reading)).cellAt 0x9000 = goodCell 7 ∧
    (goodCell 7).bad = false ∧ ({ word := 7, par := true } : MemCell).bad = true ∧
    (goodCell 0xBEEF).flipped 1 = { word := 0xBEEE, par := parityFor 0xBEEF } ∧ reading.inProg.map (·.req.kind) = some .read ∧
    Mem.get? reading.mem 0x9000 = some (goodCell 0xBEEF) ∧ Mem.get? board.mem 0x9000 = none ∧
    ended (after (.memoryAccessComplete 1) reading) 1 (.read 0xBEEE) ∧
    (after (.memoryAccessComplete 1) reading).fault.isSome = true := by decide

theorem test_MemoryFrame_bad : ((broken 0x9000 3 reading).cellAt 0x9000).bad = true ∧
    ((after (.memoryAccessComplete 1) (broken 0x9000 3 reading)).cellAt 0x9000).bad = true ∧
    ((after (.memoryAccessComplete 1) reading).cellAt 0x9000).bad = true ∧ (goodCell 3).bad = false := by decide

theorem test_ConfigurationFrame : (Instr.portUp 1).wellFormed = true ∧ board.inProg = none ∧
    exec (.portUp 1) board = .next (after (.portUp 1) board) := ⟨rfl, rfl, rfl⟩

/-! ## Notice controllers -/

/-- Controller 1: slot 3 (level 2) and slots 5 and 12 (level 1) pending. -/
def notices : State :=
  bound 1 3 (.ringFault 0) 2 (some { detail := 2, repeated := false }) <|
    bound 1 5 (.signal 0) 1 (some { detail := 0x34, repeated := true }) <|
      bound 1 12 (.signal 2) 1 (some { detail := 0x56, repeated := false }) board

/-- The same with controller 1 rotating from slot 5. -/
def rotated : State := ({ notices with header := #v[1, 8, 0, 0] }).modCtl 1 fun k => { k with rotation := 5 }

theorem test_EligibleSlots : notices.eligible 1 5 = true ∧ notices.eligible 1 4 = false ∧ notices.pntfn 1 = true ∧
    (notices.modCtl 1 fun k => { k with threshold := 1 }).eligible 1 5 = false ∧
    (notices.modCtl 1 fun k => { k with inService := [{ slot := 0, level := 1 }] }).eligible 1 5 = false := by decide

theorem test_EligibleSlots_level : (bound 1 0 (.ringData 0) 0 none board).slotPending 1 0 = false ∧
    ((bound 1 0 (.ringData 0) 0 none board).modRing 0 fun k => { k with count := 1, tail := 1 }).slotPending 1 0 = true ∧
    ((bound 0 0 (.ringData 0) 0 none board).modRing 0 fun k => { k with count := 1, tail := 1 }).slotPending 0 0 = false := by
  decide

theorem test_EligibleSlots_selection : notices.selected 1 = some 5 ∧ rotated.selected 1 = some 12 ∧
    rotated.searchRank 1 12 = 6 ∧ rotated.searchRank 1 5 = 15 ∧ rotated.searchRank 1 6 = 0 := by decide

theorem test_EligibleSlots_pending : notices.slotPending 1 12 = true ∧
    (notices.ctls[(1 : PortId)].slots[(12 : SlotId)].binding) = some { source := .signal 2, level := 1 } ∧
    (bound 1 12 (.signal 2) 1 none board).slotPending 1 12 = false ∧
    notices.ctls[(1 : PortId)].slots[(0 : SlotId)].binding = none ∧ notices.slotPending 1 0 = false := by decide

/-- P1's RING-DATA slot 0 of ring 0, selected. -/
def dataSlot : State := (bound 1 0 (.ringData 0) 0 none board).modRing 0 fun k => { k with count := 1, tail := 1 }

theorem test_TakeSelects_data : dataSlot.ready 1 ∧ dataSlot.selected 1 = some 0 ∧
    ended (after (.take 1) dataSlot) 1 (.read 0x0200) := by decide

theorem test_TakeSelects : notices.ready 1 ∧
    (notices.ctls[(1 : PortId)].slots[(5 : SlotId)].binding) = some { source := .signal 0, level := 1 } ∧
    ended (after (.take 1) notices) 1 (.read 0x0995) ∧
    (after (.take 1) notices).ctls[(1 : PortId)].taken = some { source := .signal 0, detail := 0x34 } ∧
    (after (.take 1) notices).ctls[(1 : PortId)].inService = [{ slot := 5, level := 1 }] := by decide

theorem test_take_none : board.ready 1 ∧ (∀ i : SlotId, board.eligible 1 i = false) ∧
    after (.take 1) board = board.answered 1 0x8000 := by decide

theorem test_peek : notices.ready 1 ∧ after (.peek 1) notices = notices.answered 1 0x0995 := by decide

/-- Controller 1 with slots 3 (level 2) and 5 (level 1) in service. -/
def serving : State := board.modCtl 1 fun k => { k with inService := [{ slot := 3, level := 2 }, { slot := 5, level := 1 }] }

theorem test_endSpecific : serving.ready 1 ∧
    (after (.endSpecific 1 3) serving).ctls[(1 : PortId)].inService = [{ slot := 5, level := 1 }] ∧
    after (.endSpecific 1 15) serving = serving.refusedOn 1 .write 0x3FDF2 .endNotInService ∧
    after (.endSpecific 1 16) serving = serving.refusedOn 1 .write 0x3FDF2 .badValue := by decide

theorem test_endNonSpecific : (∀ e ∈ serving.ctls[(1 : PortId)].inService, e ≠ { slot := 5, level := 1 } → (1 : Level) < e.level) ∧
    (after (.endNonSpecific 1) serving).ctls[(1 : PortId)].inService = [{ slot := 3, level := 2 }] ∧
    after (.endNonSpecific 0) serving = serving.refusedOn 0 .write 0x3FDF2 .endNotInService := by decide

theorem test_pendClear : notices.ready 1 ∧ (after (.pendClear 1 0x0028) notices).slotPending 1 5 = false ∧
    (after (.pendClear 1 0x0028) notices).slotPending 1 12 = true := by decide

theorem test_maskSet : (after (.maskSet 1 0x8001) notices).ctls[(1 : PortId)].mask = 0x8001 := by decide

theorem test_maskClear : (after (.maskClear 1 0x00FF) board).ctls[(1 : PortId)].mask = 0xFF00 := by decide

theorem test_threshold : (after (.threshold 1 4) board).ctls[(1 : PortId)].threshold = 4 ∧
    (after (.threshold 1 0) board).ctls[(1 : PortId)].threshold = 0 ∧
    after (.threshold 1 5) board = board.refusedOn 1 .write 0x3FDF8 .badValue := by decide

theorem test_signal : (after (.signal 0 0x0177) (bound 1 5 (.signal 0) 1 none board)).ctls[(1 : PortId)].slots[(5 : SlotId)].notice =
      some { detail := 0x77, repeated := false } ∧
    after (.signal 1 0x0400) board = board.refusedOn 1 .write 0x3FDF9 .badValue := by decide

theorem test_DeliveryLatches : notices.ports[(1 : PortId)].state = .up ∧
    (∀ (j : SlotId) (c : Binding), notices.ctls[(1 : PortId)].slots[j].binding = some c → c.source = .signal 2 → j = 12) ∧
    (notices.deliver 1 (.signal 2) 9).ctls[(1 : PortId)].slots[(12 : SlotId)].notice =
      some { detail := 0x56, repeated := true } := by
  have key : ∀ j : SlotId, (notices.ctls[(1 : PortId)].slots[j].binding).map (·.source) = some (.signal 2) → j = 12 := by decide
  exact ⟨by decide, fun j c h e => key j (by rw [h]; simp [e]), by decide⟩

theorem test_DeliveryLatches_dropped : mixed.ports[(1 : PortId)].state ≠ .up ∧ mixed.deliver 1 .refusal 2 = mixed ∧
    (∀ (i : SlotId) (b : Binding), board.ctls[(1 : PortId)].slots[i].binding = some b → b.source ≠ .refusal) ∧
    ((bound 0 0 .table 0 none sweepWait).deliver 0 .table 7).ctls[(0 : PortId)].slots[(0 : SlotId)].notice =
      some { detail := 7, repeated := false } := by
  have key : ∀ i : SlotId, board.ctls[(1 : PortId)].slots[i].binding = none := by decide
  exact ⟨by decide, by decide, fun i b h => (by rw [key i] at h; exact nomatch h), by decide⟩

theorem test_refusalBRead : (board.refusedOn 1 .write 0x3FDF2 .badValue).ready 1 ∧
    ended (after (.refusalBRead 1) (board.refusedOn 1 .write 0x3FDF2 .badValue)) 1 (.read 0xB003) ∧
    (after (.refusalBRead 1) (board.refusedOn 1 .write 0x3FDF2 .badValue)).ports[(1 : PortId)].refusal = none := by decide

theorem test_identRead : ended (after (.identRead 2) (board.modPort 2 fun pt => { pt with dropped := true })) 2 (.read 0x0212) ∧
    (after (.identRead 2) (board.modPort 2 fun pt => { pt with dropped := true })).ports[(2 : PortId)].dropped = false := by decide

theorem test_faultBRead :
    ended (after (.faultBRead 0) { board with fault := some { addr := 0x2ABCD, code := 8, further := true } }) 0
      (.read 0xC802) ∧
    after (.faultBRead 1) board = board.refusedOn 1 .read 0x3FDFF .supervisorOnly := by decide

/-! ## CONTROL commands, teardowns -/

theorem test_badControl : after (.readOnlyWordWrite 0 0x3FDFD 0x0401) board = board.refusedOn 0 .write 0x3FDFD .badValue ∧
    after (.readOnlyWordWrite 0 0x3FDFD 0x0104) board = board.refusedOn 0 .write 0x3FDFD .badValue := by decide

theorem test_clearFault : board.ready 0 ∧
    after (.clearFault 0) { board with fault := some { addr := 1, code := 2, further := true } } = board.written 0 := by
  decide

/-- Lock 0 held by P1 with P2 waiting; lock 1 held by P1; lock 15 held by channel C2 in RUN. -/
def locked : State :=
  (((board.modLock 0 fun _ => { holder := some (.port 1), waiters := [.port 2], timer := none }).modLock 1 fun _ =>
    { holder := some (.port 1), waiters := [], timer := some 0 }).modLock 15 fun _ =>
      { holder := some (.chan 2), waiters := [], timer := none }).modChan 2 fun k =>
        { k with state := .run, owner := some 3, desc := { k.desc with mode := 0x0F13 } }

theorem test_lockFree : locked.ready 0 ∧ (after (.lockFree 0 0) locked).locks[(0 : LockId)].holder = some (.port 2) ∧
    (after (.lockFree 0 1) locked).locks[(1 : LockId)].holder = none ∧
    after (.lockFree 0 2) locked = locked.written 0 := by decide

theorem test_LocksForced_channel : locked.locks[(15 : LockId)].holder = some (.chan 2) ∧ locked.chans[(2 : ChanId)].state ≠ .idle ∧
    locked.chans[(2 : ChanId)].stopPending = none ∧ locked.chanPresented 2 = false ∧ locked.chans[(2 : ChanId)].feedRing = none ∧
    (after (.lockFree 0 15) locked).chans[(2 : ChanId)].last = .leaseLost := by decide

/-- Channel C2 holds lock 15 while its own read is in progress. -/
def lockedBusy : State := inAccess .read 0 6 (.chan 2 .srcRead) none none (holding [(0, 7)] locked)

theorem test_LocksForced_held : lockedBusy.chanPresented 2 = true ∧
    (after (.lockFree 0 15) lockedBusy).locks[(15 : LockId)].holder = none ∧
    ((after (.lockFree 0 15) lockedBusy).ports[(0 : PortId)].cycle).map (·.wait) = some (.lockFree 2) ∧
    (after (.lockFree 0 15) lockedBusy).chans[(2 : ChanId)].stopPending = some .leaseLost ∧
    ended (after (.memoryAccessComplete 0) (after (.lockFree 0 15) lockedBusy)) 0 .write ∧
    (after (.memoryAccessComplete 0) (after (.lockFree 0 15) lockedBusy)).chans[(2 : ChanId)].last = .leaseLost ∧
    ended (after (.lockFree 0 15) (lockedBusy.modChan 2 fun k => { k with stopPending := some .aborted })) 0 .write ∧
    ended (after .rstnLow (after (.lockFree 0 15) lockedBusy)) 0 .abandoned := by decide

theorem test_EndOfRun_awaited : (∃ k : Cycle, (after (.lockFree 0 15) lockedBusy).ports[(0 : PortId)].cycle = some k ∧
      k.wait = .lockFree 2) ∧
    ended ((after (.lockFree 0 15) lockedBusy).endRun 2 .leaseLost) 0 .write := ⟨⟨_, rfl, rfl⟩, by decide⟩

theorem test_LocksForced_lease : (locked.modLock 15 fun k => { k with timer := some 0, waiters := [.port 1] }).locks[(15 : LockId)].holder =
      some (.chan 2) ∧
    (after (.leaseExpiry 15) (locked.modLock 15 fun k => { k with timer := some 0, waiters := [.port 1] })).locks[(15 : LockId)].holder =
      some (.port 1) ∧
    (after (.leaseExpiry 15) (locked.modLock 15 fun k => { k with timer := some 0 })).chans[(2 : ChanId)].last =
      .leaseLost := by decide

/-- Ring 1 full, with posts of P2 and P3 stalled and P3's expiry due. -/
def stalled : State :=
  busy 2 .write 0x202 7 (.ringStall 1) <| busy 3 .write 0x202 8 (.ringStall 1) <|
    board.modRing 1 fun k =>
      { k with
        count := 2
        stall := [{ post := { who := .port 2, word := 7, live := true }, ticks := some 3 },
                  { post := { who := .port 3, word := 8, live := true }, ticks := some 0 }] }

theorem test_ringReset : stalled.ready 0 ∧ stalled.recs[(1 : RingId)].enable = true ∧
    stalled.recs[(2 : RingId)].enable = false ∧ (after (.ringReset 0 1) stalled).rings[(1 : RingId)].count = 0 ∧
    ended (after (.ringReset 0 1) stalled) 2 .write ∧ ended (after (.ringReset 0 1) stalled) 3 .write ∧
    ((after (.ringReset 0 1) stalled).ports[(2 : PortId)].refusal).map (·.reason) = some .ringReset ∧
    after (.ringReset 0 2) stalled = stalled.written 0 := by decide

/-- Channel C3 feeding ring 1 for P1. -/
def feeding : State :=
  board.modChan 3 fun k =>
    { k with desc := { Desc.zero with count := 2, data := 1, mode := 5 }, state := .run, owner := some 1 }

/-- The same with the post assembly of ring 1, one word written. -/
def feedOwner : State := feeding.modRing 1 fun k => { k with postAsm := some { owner := .chan 3, words := 1 } }

theorem test_RingResetCommand_feed : feedOwner.chans[(3 : ChanId)].feedRing = some 1 ∧
    (after (.ringReset 0 1) feedOwner).chans[(3 : ChanId)].last = .ringReset ∧
    (after (.ringReset 0 1) feedOwner).chans[(3 : ChanId)].state = .idle ∧
    (after (.ringReset 0 1) (feedOwner.modChan 3 fun k => { k with stopPending := some .dropped })).chans[(3 : ChanId)].last =
      .dropped ∧
    ended (after (.ringReset 0 1) feedOwner) 0 .write := by decide

/-- Ring 1 with an access of word 5 in flight at its first storage word. -/
def flying (who : Claimant) (d : Dir) (presented : Bool) (s : State) : State :=
  s.inFlightAt 1 { who := who, word := 5, live := true } d 0x1100 presented

/-- C3's post of its run stalled at ring 1 behind P2's post in flight, another of it and P1's take in the hold list. -/
def resetting : State :=
  (flying (.port 2) .write true feeding).modRing 1 fun k =>
    { k with
      stall := [{ post := { who := .chan 3, word := 5, live := true }, ticks := none }]
      hold := [.post { who := .chan 3, word := 6, live := true }, .take 1] }

theorem test_RingResetCommand_ring : resetting.haltedBy 1 3 = true ∧ resetting.haltedBy 1 2 = false ∧
    (after (.ringReset 0 1) resetting).rings[(1 : RingId)] = resetting.ringAfterReset 1 ∧
    (resetting.ringAfterReset 1).hold = [.post { who := .chan 3, word := 6, live := false }, .take 1] ∧
    ((resetting.ringAfterReset 1).inFlight).map (·.presented) = some true := by decide

theorem test_LeftLock : LeftLock (({ feedOwner with rings := feedOwner.ringsAfterReset 1 }).modChan 3 fun k => k.over .ringReset) 3
    (({ feedOwner with rings := feedOwner.ringsAfterReset 1 }).modChan 3 fun k => k.over .ringReset) := Or.inl ⟨rfl, rfl⟩

/-- P1 torn down while channel C0, whose run it owns, has its stop pending. -/
def tearing : State :=
  busy 0 .write 0x3FDFD 0x0101 (.control 1) <|
    (board.modPort 1 fun pt => { pt with state := .down, dropped := true, teardown := some .drop }).modChan 0 fun k =>
      { k with state := .run, owner := some 1, stopPending := some .dropped }

theorem test_portReset : board.part = .running ∧ locked.ports[(1 : PortId)].state = .up ∧
    (after (.portReset 1) locked).ports[(1 : PortId)].state = .down ∧
    (after (.portReset 1) locked).locks[(0 : LockId)].holder = some (.port 2) ∧ State.reset.part ≠ .running ∧
    mixed.ports[(1 : PortId)].state ≠ .up := by decide

theorem test_Teardowns_quiet : board.quietFor 1 ∧ board.quietFor 0 ∧ locked.quietFor 1 := by
  unfold State.quietFor
  decide

theorem test_Teardowns_owner : reading.ports[(1 : PortId)].state = .up ∧
    ended (after (.portReset 1) reading) 1 .abandoned ∧
    ((after (.portReset 1) reading).inProg).map (·.req.abandoned) = some true ∧
    feedOwner.chans[(3 : ChanId)].owner = some 1 ∧ (after (.portReset 1) feedOwner).chans[(3 : ChanId)].last = .dropped ∧
    (after (.portReset 1) feedOwner).rings[(1 : RingId)].postAsm = none ∧
    (after (.portReset 1) (after .channelPick feedOwner)).chans[(3 : ChanId)].stopPending = some .dropped := by decide

theorem test_dropPort : (after (.dropPort 0 1) locked).ports[(1 : PortId)].state = .up ∧
    (after (.dropPort 0 1) locked).ports[(1 : PortId)].dropped = true ∧ ended (after (.dropPort 0 1) locked) 0 .write ∧
    mixed.ready 0 ∧ mixed.ports[(1 : PortId)].state = .down ∧ after (.dropPort 0 1) mixed = mixed.written 0 := by decide

theorem test_dropPort_self :
    (after (.dropPort 0 0) (board.modPort 0 fun pt => { pt with prstn := false })).ports[(0 : PortId)].state = .down ∧
    ended (after (.dropPort 0 0) (board.modPort 0 fun pt => { pt with prstn := false })) 0 .abandoned := by decide

theorem test_teardownComplete : tearing.chans[(0 : ChanId)].owner = some 1 ∧ tearing.chans[(0 : ChanId)].stopPending.isSome = true ∧
    after (.teardownComplete 1) tearing = tearing ∧
    (∀ c : ChanId, (tearing.modChan 0 fun _ => Chan.reset).chans[c].owner = some 1 →
      (tearing.modChan 0 fun _ => Chan.reset).chans[c].stopPending = none) ∧
    ended (after (.teardownComplete 1) (tearing.modChan 0 fun _ => Chan.reset)) 0 .write ∧
    (after (.teardownComplete 1) (tearing.modChan 0 fun _ => Chan.reset)).ports[(1 : PortId)].state = .up := by decide

/-- P0 torn down by its own DROP_PORT write, which waits. -/
def selfTearing (prstn : Bool) : State :=
  busy 0 .write 0x3FDFD 0x0100 (.control 0) <|
    board.modPort 0 fun pt => { pt with state := .down, dropped := true, teardown := some .drop, prstn := prstn }

theorem test_PortsComeUp_self : (∃ c : Cycle, (selfTearing true).ports[(0 : PortId)].cycle = some c ∧ c.wait = .control 0) ∧
    ended (after (.teardownComplete 0) (selfTearing true)) 0 .write ∧
    (after (.teardownComplete 0) (selfTearing true)).ports[(0 : PortId)].state = .up ∧
    ended (after (.teardownComplete 0) (selfTearing false)) 0 .abandoned ∧
    (after (.teardownComplete 0) (selfTearing false)).ports[(0 : PortId)].state = .down :=
  ⟨⟨_, rfl, rfl⟩, by decide⟩

theorem test_ResetsTaken_waitingDrop : tearing.rstn = true ∧ tearing.part ≠ .coldClear ∧
    ended (after .rstnLow tearing) 0 .write ∧ ended (after .rstnLow (selfTearing true)) 0 .write ∧
    ended (after .rstnLow (selfTearing false)) 0 .abandoned ∧ ended (after .rstnLow mixed) 3 .abandoned := by decide

/-- P1 with a post assembly at ring 1, no take open there, and the posts of P2 and P3 stalled. -/
def blocking : State := stalled.modRing 1 fun k => { k with count := 1, postAsm := some { owner := .port 1, words := 1 } }

theorem test_Teardowns_rings : blocking.unsettles 1 blocking.rings[(1 : RingId)] = true ∧
    blocking.unsettles 3 blocking.rings[(1 : RingId)] = false ∧
    ((after (.portReset 1) blocking).rings[(1 : RingId)].inFlight).map (·.post.who) = some (.port 2) ∧
    ((after (.portReset 1) blocking).rings[(1 : RingId)].stall.map (·.post.who)) = [.port 3] ∧
    (after (.portReset 3) blocking).rings[(1 : RingId)] = blocking.ringWithout 3 1 blocking.rings[(1 : RingId)] := by decide

theorem test_portUp : mixed.part = .running ∧ mixed.ports[(1 : PortId)].teardown = none ∧
    (after (.portUp 1) mixed).ports[(1 : PortId)].state = .up ∧
    (after (.portUp 1) tearing).ports[(1 : PortId)].state = .down ∧ tearing.ports[(1 : PortId)].teardown.isSome = true := by decide

/-! ## Table area -/

theorem test_headerWrite : board.ready 0 ∧ (after (.headerWrite 3 0xFFFF) board).header[(3 : Fin 4)] = 0xFFFF ∧
    (after (.headerWrite 3 0xFFFF) board).reqs[(0 : Fin 5)] = some (portRequest 0 (.write 0xFFFF) 0x3FE03 none) := by decide

theorem test_leaseWrite : (after (.leaseWrite 15 9) board).leases[(15 : LockId)] = 9 ∧
    (after (.leaseWrite 15 9) board).reqs[(0 : Fin 5)] = some (portRequest 0 (.write 9) 0x3FEDF none) := by decide

theorem test_windowDataWrite : (after (.windowDataWrite 31 2 9) board).windows[(31 : WinId)].staged[(2 : Fin 3)] = some 9 ∧
    (after (.windowDataWrite 31 2 9) board).reqs[(0 : Fin 5)] = some (portRequest 0 (.write 9) 0x3FE8E none) := by decide

theorem test_ringDataWrite : (after (.ringDataWrite 7 6 9) board).recs[(7 : RingId)].staged[(6 : Fin 7)] = some 9 ∧
    (after (.ringDataWrite 7 6 9) board).reqs[(0 : Fin 5)] = some (portRequest 0 (.write 9) 0x3FECE none) := by decide

/-- W31 staged for the last words of the span. -/
def staging : State := board.modWin 31 fun e => { e with staged := #v[some 0xFDE0, some 0x10, some 0x0FF3] }

theorem test_windowCommit : staging.ready 0 ∧ staging.windows[(31 : WinId)].damaged = false ∧
    staging.winReject 31 #v[0xFDE0, 0x10, 0x0FF3] (winCtlOf 1) = none ∧
    (after (.windowCommit 31 1) staging).windows[(31 : WinId)].valid = true ∧
    (after (.windowCommit 0 0) staging).windows[(0 : WinId)].valid = false ∧
    (after (.windowCommit 0 6) staging).windows[(0 : WinId)].valid = true := by decide

theorem test_WindowCommit_damaged : (staging.modWin 31 fun e => { e with damaged := true }).windows[(31 : WinId)].damaged = true ∧
    (after (.windowCommit 31 1) (staging.modWin 31 fun e => { e with damaged := true })).windows[(31 : WinId)] = WinEntry.reset ∧
    ((bound 0 0 .table 0 none (staging.modWin 31 fun e => { e with damaged := true })).applyTable (.winCtl 31)
      1).ctls[(0 : PortId)].slots[(0 : SlotId)].notice = some { detail := 0xA08F, repeated := false } := by decide

theorem test_CandidateChecks_window : board.winReject 31 #v[0x7000, 1, 0] (winCtlOf 0x0006) = some .badKind ∧
    board.winReject 31 #v[0x7000, 1, 0] (winCtlOf 0x8002) = some .badFlags ∧
    board.winReject 31 #v[0x7000, 3, 0] (winCtlOf 0x0033) = some .badShape ∧
    board.winReject 31 #v[0xFDE0, 0x11, 3] (winCtlOf 0x0001) = some .outOfSpan ∧
    board.winReject 31 #v[0x0FFF, 2, 0] (winCtlOf 0x0001) = some .overlap ∧
    board.winReject 31 #v[0x7000, 2, 0] (winCtlOf 0x0001) = none ∧
    board.winReject 31 #v[0x7000, 2, 0] (winCtlOf 0x0013) = some .alreadyMapped := by decide

theorem test_CandidateChecks_ring : board.ringReject 3 #v[0x7000, 0x50, 2, 1, 1, 0, 1] = some .badShape ∧
    board.ringReject 3 #v[0x7000, 0x10, 4097, 1, 1, 0, 1] = some .badShape ∧
    board.ringReject 3 #v[0xFDEF, 0x13, 2, 1, 1, 0, 1] = some .outOfSpan ∧
    board.ringReject 3 #v[0x0FFF, 0x10, 2, 1, 1, 0, 1] = some .overlap ∧
    board.ringReject 3 #v[0x7000, 0x40, 4096, 4096, 1, 1, 1] = none := by decide

/-- Ring 3 staged. -/
def ringStaging (cap : Word) : State :=
  board.modRec 3 fun e => { e with staged := #v[some 0x7000, some 0x10, some cap, some 1, some 1, some 0, some 1] }

theorem test_ringCommit : (ringStaging 2).ready 0 ∧ (ringStaging 2).recs[(3 : RingId)].damaged = false ∧
    (ringStaging 2).ringReject 3 #v[0x7000, 0x10, 2, 1, 1, 0, 1] = none ∧
    (after (.ringCommit 3 1) (ringStaging 2)).recs[(3 : RingId)].enable = true ∧
    (after (.ringCommit 3 1) (ringStaging 0)).recs[(3 : RingId)] = RingRec.reset ∧
    (after (.ringCommit 1 0) stalled).rings[(1 : RingId)].count = 0 := by decide

theorem test_RingCommit_feed : feedOwner.recs[(1 : RingId)].enable = true ∧
    (∀ e ∈ feedOwner.rings[(1 : RingId)].stall, e.post.who ≠ .port 0) ∧ feedOwner.rings[(1 : RingId)].awaiting = none ∧
    (after (.ringCommit 1 0) feedOwner).chans[(3 : ChanId)].last = .ringReset ∧
    ((ringStaging 2).modRec 3 fun e => { e with damaged := true }).recs[(3 : RingId)].damaged = true ∧
    (after (.ringCommit 3 1) ((ringStaging 2).modRec 3 fun e => { e with damaged := true })).recs[(3 : RingId)] = RingRec.reset ∧
    (ringStaging 2).rings[(3 : RingId)] = Ring.reset := by decide

theorem test_bindingOf : bindingOf 0x2704 = .error .badIndex ∧ bindingOf 0x0D00 = .error .badSource ∧
    bindingOf 0x3005 = .ok none ∧ bindingOf 0x3703 = .ok (some { source := .chanDone 3, level := 3 }) :=
  ⟨rfl, rfl, rfl, rfl⟩

theorem test_bindingOf_sources : bindingOf 0x211F = .ok (some { source := .watch 31, level := 2 }) ∧
    bindingOf 0x0207 = .ok (some { source := .ringData 7, level := 0 }) ∧
    bindingOf 0x0307 = .ok (some { source := .ringSpace 7, level := 0 }) ∧
    bindingOf 0x0407 = .ok (some { source := .ringFault 7, level := 0 }) ∧
    bindingOf 0x1500 = .ok (some { source := .lockGrant, level := 1 }) ∧
    bindingOf 0x1600 = .ok (some { source := .lockLost, level := 1 }) ∧
    bindingOf 0x1803 = .ok (some { source := .chanMark 3, level := 1 }) ∧
    bindingOf 0x1903 = .ok (some { source := .signal 3, level := 1 }) ∧
    bindingOf 0x0A00 = .ok (some { source := .refusal, level := 0 }) ∧
    bindingOf 0x0B00 = .ok (some { source := .parity, level := 0 }) ∧
    bindingOf 0x0C00 = .ok (some { source := .table, level := 0 }) :=
  ⟨rfl, rfl, rfl, rfl, rfl, rfl, rfl, rfl, rfl, rfl, rfl⟩

theorem test_bindingWrite : notices.ready 0 ∧
    (after (.bindingWrite 1 3 0x2400) notices).ctls[(1 : PortId)].slots[(3 : SlotId)] =
      notices.ctls[(1 : PortId)].slots[(3 : SlotId)] ∧
    ((after (.bindingWrite 1 3 0x1400) notices).ctls[(1 : PortId)].slots[(3 : SlotId)]).notice = none ∧
    (after (.bindingWrite 1 3 0x0902) notices).ctls[(1 : PortId)].slots[(3 : SlotId)] = Slot.empty ∧
    (after (.bindingWrite 1 3 0x0000) notices).ctls[(1 : PortId)].slots[(3 : SlotId)] = Slot.empty := by decide

theorem test_TableWordWrites_alone : ∀ (j : SlotId) (c : Binding), j ≠ 3 →
    notices.ctls[(1 : PortId)].slots[j].binding = some c → c.source ≠ .ringFault 0 := by
  have key : ∀ j : SlotId, j ≠ 3 →
      (notices.ctls[(1 : PortId)].slots[j].binding).map (·.source) ≠ some (.ringFault 0) := by decide
  exact fun j c h e x => key j h (by rw [e]; simp [x])

/-! ## Rings -/

/-- Ring 1 with a post assembly of P1, one word written, and one whole entry with a take assembly of P2. -/
def assembling : State :=
  board.modRing 1 fun k =>
    { k with
      count := 1
      tail := 1
      postAsm := some { owner := .port 1, words := 1 }
      takeAsm := some { owner := 2, words := 1 } }

theorem test_ringPost : board.ready 1 ∧ board.atRing 1 .write 0x200 2 0 0 ∧ board.rings[(0 : RingId)].inFlight = none ∧
    (after (.ringPost 1 0x200 7) board).reqs[(1 : Fin 5)] =
      some { portRequest 1 (.write 7) 0x1000 none with issuer := .ring 0 } ∧
    (after (.ringPost 2 0x200 8) (after (.ringPost 1 0x200 7) board)).rings[(0 : RingId)].hold =
      [.post { who := .port 2, word := 8, live := true }] := by decide

theorem test_PostOutcomes_later : assembling.atRing 1 .write 0x202 3 1 0 ∧
    (after (.ringPost 1 0x202 9) assembling).reqs[(1 : Fin 5)] =
      some { portRequest 1 (.write 9) 0x1103 none with issuer := .ring 1 } ∧
    (after (.ringPost 3 0x202 9) assembling).rings[(1 : RingId)].stall =
      [{ post := { who := .port 3, word := 9, live := true }, ticks := some 3 }] := by decide

/-- Ring 0 with `n` entries and perhaps an assembly of P2. -/
def filled (n : Nat) (m : Option PostAsm) : State := board.modRing 0 fun k => { k with count := n, postAsm := m }

theorem test_PostOutcomes_refused : board.atRing 1 .write 0x204 4 2 0 ∧
    after (.ringPost 1 0x204 7) board = board.refusedOn 1 .write 0x204 .ringDisabled ∧
    (filled 2 none).recs[(0 : RingId)].policy = 0 ∧ (filled 2 none).recs[(0 : RingId)].capacity = 2 ∧
    after (.ringPost 1 0x200 7) (filled 2 none) = (filled 2 none).refusedOn 1 .write 0x200 .ringFull ∧
    after (.ringPost 1 0x200 7) (filled 1 (some { owner := .port 2, words := 0 })) =
      (filled 1 (some { owner := .port 2, words := 0 })).refusedOn 1 .write 0x200 .ringAssembly := by decide

theorem test_ringTake : assembling.atRing 2 .read 0x203 3 1 1 ∧
    (after (.ringTake 2 0x203) assembling).reqs[(2 : Fin 5)] =
      some { portRequest 2 .read 0x1101 none with issuer := .ring 1 } ∧
    after (.ringTake 3 0x203) assembling = assembling.refusedOn 3 .read 0x203 .ringAssembly := by decide

theorem test_TakeOutcomes : board.atRing 1 .read 0x201 2 0 1 ∧
    after (.ringTake 1 0x201) board = board.refusedOn 1 .read 0x201 .ringEmpty ∧
    after (.ringTake 1 0x205) board = board.refusedOn 1 .read 0x205 .ringDisabled ∧
    (after (.ringTake 1 0x201) (filled 1 none)).rings[(0 : RingId)].takeAsm = some { owner := 1, words := 0 } ∧
    (after (.ringTake 2 0x201) (after (.ringTake 1 0x201) (filled 1 none))).rings[(0 : RingId)].hold = [.take 2] := by decide

theorem test_freeCountRead : board.atRing 1 .read 0x200 2 0 0 ∧
    after (.freeCountRead 1 0x200) (filled 1 (some { owner := .port 2, words := 0 })) =
      (filled 1 (some { owner := .port 2, words := 0 })).answered 1 0 ∧
    after (.freeCountRead 1 0x204) board = board.refusedOn 1 .read 0x204 .ringDisabled := by decide

/-- The last post word of P1 at ring 0 in progress. -/
def posting : State :=
  inAccess (.write 7) 0x1000 1 (.ring 0) none none <| busy 1 .write 0x200 7 (.ringAccess 0) <|
    (filled 0 (some { owner := .port 1, words := 0 })).modRing 0 fun k =>
      { k with
        inFlight := some { post := { who := .port 1, word := 7, live := true }, dir := .write, addr := 0x1000,
                           attached := true, presented := true, leaving := false } }

/-- The last take word of P1 at ring 0, which is full, in progress. -/
def taking : State :=
  inAccess .read 0x1001 1 (.ring 0) none none <| busy 1 .read 0x201 0 (.ringAccess 0) <|
    (holding [(0x1001, 9)] (filled 2 none)).modRing 0 fun k =>
      { k with
        head := 1
        tail := 1
        takeAsm := some { owner := 1, words := 0 }
        inFlight := some { post := { who := .port 1, word := 0, live := true }, dir := .read, addr := 0x1001,
                           attached := true, presented := true, leaving := false } }

theorem test_RingAccessCompletes : (after (.memoryAccessComplete 0) posting).rings[(0 : RingId)] =
      { Ring.reset with tail := 1, count := 1 } ∧
    ended (after (.memoryAccessComplete 0) posting) 1 .write ∧ (taking.cellAt 0x1001).bad = false ∧
    (after (.memoryAccessComplete 0) taking).rings[(0 : RingId)] = { Ring.reset with tail := 1, count := 1 } ∧
    ended (after (.memoryAccessComplete 0) taking) 1 (.read 9) := by decide

/-- The full ring with P2's post stalled and P3's take held. -/
def takingBusy : State :=
  busy 2 .write 0x200 5 (.ringStall 0) <| busy 3 .read 0x201 0 (.ringHold 0) <| taking.modRing 0 fun k =>
    { k with stall := [{ post := { who := .port 2, word := 5, live := true }, ticks := some 1 }], hold := [.take 3] }

theorem test_RingAccessCompletes_waiting : (∃ x : Access, posting.inProg = some x ∧
      WriteJudged posting x 7 { posting with inProg := none, mem := [(0x1000, goodCell 7)] }) ∧
    ended (after (.memoryAccessComplete 0) takingBusy) 1 (.read 9) ∧
    ((after (.memoryAccessComplete 0) takingBusy).rings[(0 : RingId)].inFlight).map (·.post.who) = some (.port 2) ∧
    (after (.memoryAccessComplete 0) takingBusy).rings[(0 : RingId)].hold = [.take 3] ∧
    (after (.memoryAccessComplete 0) (orphaned posting)).ports[(1 : PortId)].cycle.isSome = true ∧
    (after (.memoryAccessComplete 0) (posting.modRing 0 (·.cleared))).rings[(0 : RingId)] = Ring.reset :=
  ⟨⟨_, rfl, _, rfl, Or.inl ⟨rfl, rfl, rfl⟩⟩, by decide⟩

/-- P2's take held at ring 0, which is empty; P1's opened post awaits issue at ring 1. -/
def waiting : State :=
  busy 1 .write 0x202 7 (.ringAwait 1) <| busy 2 .read 0x201 0 (.ringHold 0) <|
    (board.modRing 0 fun k => { k with hold := [.take 2] }).modRing 1 fun k =>
      { k with
        postAsm := some { owner := .port 1, words := 0 }
        awaiting := some { who := .port 1, word := 7, live := true } }

theorem test_holdListTakeUp : waiting.rings[(0 : RingId)].inFlight = none ∧ waiting.rings[(0 : RingId)].awaiting = none ∧
    waiting.recs[(0 : RingId)].enable = true ∧ ended (after (.holdListTakeUp 0) waiting) 2 (.read 0xFFFF) ∧
    (after (.holdListTakeUp 1) waiting).reqs[(1 : Fin 5)] =
      some { portRequest 1 (.write 7) 0x1100 none with issuer := .ring 1 } ∧
    posting.rings[(0 : RingId)].inFlight.isSome = true ∧ after (.holdListTakeUp 0) posting = posting := by decide

/-- Takes of P2 and P3 and a post of P1 in the hold list of ring 0, which is empty. -/
def holdList : State :=
  busy 1 .write 0x200 7 (.ringHold 0) <| busy 2 .read 0x201 0 (.ringHold 0) <| busy 3 .read 0x201 0 (.ringHold 0) <|
    board.modRing 0 fun k => { k with hold := [.take 2, .post { who := .port 1, word := 7, live := true }, .take 3] }

theorem test_WaitingPosts_holdList : (∃ c : Cycle, holdList.ports[(2 : PortId)].cycle = some c ∧
      ItemTakenUp (holdList.modRing 0 fun k => { k with hold := k.hold.tail }) 0 (.take 2)
        ((holdList.modRing 0 fun k => { k with hold := k.hold.tail }).refusedHeld 2 c .ringEmpty)) ∧
    ended (after (.holdListTakeUp 0) holdList) 2 (.read 0xFFFF) ∧
    (after (.holdListTakeUp 0) holdList).rings[(0 : RingId)].hold = [.take 3] ∧
    ((after (.holdListTakeUp 0) holdList).rings[(0 : RingId)].inFlight).map (·.post.who) = some (.port 1) ∧
    (after (.holdListTakeUp 2) waiting) = waiting :=
  ⟨⟨_, rfl, _, rfl, Or.inr (Or.inl ⟨by decide, by decide, rfl⟩)⟩, by decide⟩

/-- The stalled ring with a place free, and the same with channel C0's post at the head. -/
def opening (who : Claimant) : State :=
  (stalled.modRing 1 fun k =>
    { k with count := 1, stall := { post := { who := who, word := 5, live := true }, ticks := none } :: k.stall }).modChan 0
      fun k => { k with state := .stall }

theorem test_stalledPostOpen : after (.stalledPostOpen 1) stalled = stalled ∧ after (.stalledPostOpen 0) stalled = stalled ∧
    ((opening (.port 1)).rings[(1 : RingId)].postAsm = none ∧ (opening (.port 1)).rings[(1 : RingId)].inFlight = none) ∧
    (after (.stalledPostOpen 1) (opening (.port 1))).reqs[(1 : Fin 5)] =
      some { portRequest 1 (.write 5) 0x1100 none with issuer := .ring 1 } ∧
    (after (.stalledPostOpen 1) (opening (.chan 0))).chans[(0 : ChanId)].state = .run ∧
    (after (.stalledPostOpen 1) (opening (.chan 0))).rings[(1 : RingId)].inFlight.isSome = true := by decide

theorem test_WaitingPosts_awaiting : (flying (.port 2) .read true (opening (.port 1))).rings[(1 : RingId)].inFlight.isSome = true ∧
    (after (.stalledPostOpen 1) (flying (.port 2) .read true (opening (.port 1)))).rings[(1 : RingId)].awaiting =
      some { who := .port 1, word := 5, live := true } := by decide

theorem test_stallLimitExpiry : (∀ e ∈ stalled.rings[(1 : RingId)].stall, e.post.who = .port 2 → e.ticks ≠ some 0) ∧
    after (.stallLimitExpiry 1 2) stalled = stalled ∧ ended (after (.stallLimitExpiry 1 3) stalled) 3 .write ∧
    ((after (.stallLimitExpiry 1 3) stalled).rings[(1 : RingId)].stall.map (·.post.who)) = [.port 2] ∧
    ((after (.stallLimitExpiry 1 3) stalled).ports[(3 : PortId)].refusal).map (·.reason) = some .ringFull := by decide

/-! ## Locks -/

theorem test_lockTry : locked.atLock 3 .read 0x304 5 2 4 ∧ locked.atLock 3 .read 0x31E 5 15 30 ∧
    ended (after (.lockTry 3 0x304) locked) 3 (.read 0x0301) ∧ ended (after (.lockTry 3 0x300) locked) 3 (.read 0x0104) ∧
    ended (after (.lockTry 1 0x300) locked) 1 (.read 0x0102) ∧ ended (after (.lockTry 2 0x300) locked) 2 (.read 0x0103) := by decide

theorem test_lockWait : locked.atLock 3 .read 0x301 5 0 1 ∧ ended (after (.lockWait 3 0x301) locked) 3 (.read 0x0103) ∧
    (after (.lockWait 3 0x301) locked).locks[(0 : LockId)].waiters = [.port 2, .port 3] := by decide

/-- Lock 0 held by P1 with a full queue. -/
def crowded (a : Claimant) : State :=
  board.modLock 0 fun _ =>
    { holder := some (.port 1), waiters := [a, .port 0, .port 3, .chan 0, .chan 1, .chan 2, .chan 3], timer := none }

theorem test_FullQueueIsBusy : (crowded (.port 0)).atLock 2 .read 0x301 5 0 1 ∧
    (crowded (.port 0)).locks[(0 : LockId)].waiters.length = 7 ∧
    after (.lockWait 2 0x301) (crowded (.port 0)) = (crowded (.port 0)).answered 2 0x0104 ∧
    after (.lockWait 2 0x301) (crowded (.port 2)) = (crowded (.port 2)).answered 2 0x0103 ∧
    after (.lockWait 1 0x301) (crowded (.port 2)) = (crowded (.port 2)).answered 1 0x0102 := by decide

/-- Lock 3 held by P1 with channel C0 waiting. -/
def chanWaits : State :=
  (board.modLock 3 fun _ => { holder := some (.port 1), waiters := [.chan 0], timer := none }).modChan 0 fun k =>
    { k with state := .lockWait, owner := some 2 }

theorem test_lockWrite : locked.atLock 1 .write 0x300 5 0 0 ∧
    (after (.lockWrite 1 0x300 0) locked).locks[(0 : LockId)].holder = some (.port 2) ∧
    (after (.lockWrite 1 0x303 0) locked).locks[(1 : LockId)].holder = none ∧
    (after (.lockWrite 2 0x300 0) locked).locks[(0 : LockId)].waiters = [] ∧
    after (.lockWrite 3 0x300 0) locked = locked.refusedOn 3 .write 0x300 .lockNotHolder := by decide

theorem test_LockWrites_channel : chanWaits.atLock 1 .write 0x306 5 3 6 ∧ chanWaits.chans[(0 : ChanId)].state = .lockWait ∧
    (after (.lockWrite 1 0x306 0) chanWaits).locks[(3 : LockId)].holder = some (.chan 0) ∧
    (after (.lockWrite 1 0x306 0) chanWaits).chans[(0 : ChanId)].state = .run := by decide

/-- Lock 0 free with P2 still queued, and lock 1's lease run out; lock 4's has run out with P3 queued. -/
def leasing : State :=
  ((locked.modLock 0 fun k => { k with holder := none }).modLock 4 fun _ =>
    { holder := some (.port 1), waiters := [.port 3], timer := some 0 })

theorem test_leaseExpiry : leasing.locks[(1 : LockId)].timer = some 0 ∧
    leasing.locks[(1 : LockId)].holder = some (.port 1) ∧ (after (.leaseExpiry 1) leasing).locks[(1 : LockId)].holder = none ∧
    (after (.leaseExpiry 4) leasing).locks[(4 : LockId)].holder = some (.port 3) ∧
    after (.leaseExpiry 15) leasing = leasing := by decide

theorem test_lockHandover : leasing.locks[(0 : LockId)].holder = none ∧
    (after (.lockHandover 0) leasing).locks[(0 : LockId)].holder = some (.port 2) ∧
    after (.lockHandover 4) leasing = leasing := by decide

/-! ## Channels -/

/-- Channel C3 IDLE with these fields, C0 to C2 IDLE with fields of 0. -/
def programmed (d : Desc) : State := board.modChan 3 fun k => { k with desc := d }

/-- COPY of 2 words from 0H to 20H. -/
def copyDesc : Desc := { Desc.zero with dst := 0x20, count := 2, mode := 1 }

/-- Channel C3 running for P1. -/
def runningChan (d : Desc) : State :=
  board.modChan 3 fun k => { k with desc := d, state := .run, owner := some 1 }

theorem test_channelFieldWrite : board.atChan 1 .write 0x41A 6 3 2 ∧
    (after (.channelFieldWrite 1 0x41A 0xFFFF) board).chans[(3 : ChanId)].desc =
      { Desc.zero with src := 0x30000, dst := 0x30000, link := 0x30000 } ∧
    after (.channelFieldWrite 1 0x41A 7) (runningChan copyDesc) =
      (runningChan copyDesc).refusedOn 1 .write 0x41A .channelBusy ∧
    after (.channelFieldWrite 1 0x41F 3) board = board.refusedOn 1 .write 0x41F .badValue := by decide

theorem test_ChannelWords_read : board.atChan 1 .read 0x41F 6 3 7 ∧
    ended (after (.memoryRead 1 0x41F) (runningChan copyDesc)) 1 (.read 0x4900) ∧
    ended (after (.memoryRead 1 0x41B) (runningChan copyDesc)) 1 (.read 2) := by decide

theorem test_channelStart : (programmed copyDesc).atChan 1 .write 0x41F 6 3 7 ∧ (programmed copyDesc).descOk 1 none copyDesc = true ∧
    (after (.channelStart 1 0x41F) (programmed copyDesc)).chans[(3 : ChanId)].state = .run ∧
    after (.channelStart 1 0x41F) board = board.refusedOn 1 .write 0x41F .channelRequest ∧
    after (.channelStart 1 0x41F) (runningChan copyDesc) =
      (runningChan copyDesc).refusedOn 1 .write 0x41F .channelBusy := by decide

theorem test_ChannelStart_lock : (programmed { copyDesc with mode := 0x0511 }).chans[(3 : ChanId)].desc.lock = some 5 ∧
    (after (.channelStart 1 0x41F) (programmed { copyDesc with mode := 0x0511 })).locks[(5 : LockId)].holder = some (.chan 3) ∧
    (after (.channelStart 1 0x41F) ((programmed { copyDesc with mode := 0x0511 }).modLock 5 fun k =>
      { k with holder := some (.port 2) })).chans[(3 : ChanId)].state = .lockWait := by decide

theorem test_StartValidation : board.descOk 1 none copyDesc = true ∧
    board.descOk 1 none { copyDesc with mode := 6 } = false ∧ board.descOk 1 none { copyDesc with mode := 0x6001 } = false ∧
    board.descOk 1 none { copyDesc with dst := 0x1000 } = false ∧ board.descOk 1 none { copyDesc with dst := 0x5FF } = false ∧
    board.descOk 1 none { copyDesc with src := 0x3FDEE } = true ∧ board.descOk 1 none { copyDesc with src := 0x3FDEF } = false ∧
    board.descOk 1 none { copyDesc with mode := 5, data := 1 } = true ∧
    board.descOk 1 none { copyDesc with mode := 5, data := 1, count := 3 } = false ∧
    board.descOk 1 none { copyDesc with mode := 5, data := 2 } = false := by decide

/-- Ring 1 mapped by no window, or by W3 while header enable is 0. -/
def unmapped : State := board.modWin 3 fun e => { e with valid := false }

theorem test_StartValidation_terms : board.mapsRing 3 1 ∧ (∀ w : WinId, ¬unmapped.mapsRing w 1) ∧
    board.usable 1 0x3FDEE 2 .read := by
  unfold State.mapsRing State.usable
  decide

theorem test_StartValidation_feed : unmapped.descOk 0 none { copyDesc with mode := 5, data := 1 } = true ∧
    unmapped.descOk 1 none { copyDesc with mode := 5, data := 1 } = false ∧
    (crowded (.port 0)).descOk 1 none { copyDesc with mode := 0x11 } = false ∧
    (crowded (.port 0)).descOk 1 (some 0) { copyDesc with mode := 0x11 } = true ∧
    board.descOk 1 none { copyDesc with mode := 9, link := 0x3FDE9 } = true ∧
    board.descOk 1 none { copyDesc with mode := 9, link := 0x3FDEA } = false ∧
    board.descOk 1 none { copyDesc with mode := 4, dst := 0x600 } = false ∧
    board.descOk 1 none { copyDesc with mode := 0x24, dst := 0x600 } = true := by decide

theorem test_channelAbort : (runningChan copyDesc).atChan 1 .write 0x41F 6 3 7 ∧ (runningChan copyDesc).chanPresented 3 = false ∧
    (after (.channelAbort 1 0x41F) (runningChan copyDesc)).chans[(3 : ChanId)].last = .aborted ∧
    after (.channelAbort 2 0x41F) (runningChan copyDesc) = (runningChan copyDesc).refusedOn 2 .write 0x41F .badValue ∧
    (after (.channelAbort 0 0x41F) (after .channelPick (runningChan copyDesc))).chans[(3 : ChanId)].stopPending = some .aborted ∧
    after (.channelAbort 0 0x41F) board = board.written 0 := by decide

/-- P2 with the LOCK-GRANT source bound to its slot 3. -/
def grantee : State := bound 2 3 .lockGrant 1 none locked

theorem test_Teardowns_locks : grantee.heir 1 0 = some (.port 2) ∧ grantee.ports[(2 : PortId)].state = .up ∧
    grantee.ctls[(2 : PortId)].slots[(3 : SlotId)].binding = some { source := .lockGrant, level := 1 } ∧
    (∀ k : LockId, k < 0 → grantee.heir 1 k ≠ some (.port 2)) ∧
    (after (.portReset 1) grantee).ctls[(2 : PortId)].slots[(3 : SlotId)].notice = some { detail := 0, repeated := false } ∧
    (after (.portReset 1) grantee).locks[(1 : LockId)].holder = none ∧
    chanWaits.heir 1 3 = some (.chan 0) ∧ chanWaits.chans[(0 : ChanId)].state = .lockWait ∧
    (after (.portReset 1) chanWaits).chans[(0 : ChanId)].state = .run ∧
    (after (.portReset 1) chanWaits).locks[(3 : LockId)] = chanWaits.lockHeldBy 3 (.chan 0) [] := by decide

/-- C3's access in progress. -/
def moving (d : Desc) (held : Option Word) (k : AccKind) (a : Addr) (y : ChanStep) : State :=
  inAccess k a 7 (.chan 3 y) none none <| holding [(0, 7), (0x20, 9)] <|
    (runningChan d).modChan 3 fun c => { c with holding := held }

/-- The same with a stop pending. -/
def stopping : State := (moving copyDesc none .read 0 .srcRead).modChan 3 fun c => { c with stopPending := some .dropped }

theorem test_stopPendingComplete : stopping.chans[(3 : ChanId)].stopPending = some .dropped ∧ (stopping.cellAt 0).bad = false ∧
    stopping.chans[(3 : ChanId)].desc.lock = none ∧ stopping.chans[(3 : ChanId)].feedRing = none ∧
    (after (.stopPendingComplete 3 0) stopping).chans[(3 : ChanId)].state = .idle ∧
    (after (.stopPendingComplete 3 0) stopping).chans[(3 : ChanId)].last = .dropped ∧
    after (.stopPendingComplete 2 0) stopping = stopping := by decide

theorem test_AbortsAndStops_queues : chanWaits.atChan 2 .write 0x407 6 0 7 ∧
    (after (.channelAbort 2 0x407) chanWaits).locks[(3 : LockId)].waiters = [.chan 0] ∧
    (after (.channelAbort 2 0x407) (chanWaits.modChan 0 fun k => { k with desc := { k.desc with mode := 0x311 } })).locks[(3 : LockId)].waiters = [] ∧
    (after (.channelAbort 1 0x41F) feedOwner).rings[(1 : RingId)].postAsm = none ∧
    (after (.stopPendingComplete 3 0) (inAccess (.write 7) 0x20 7 (.chan 3 .dstWrite) none none stopping)).chans[(3 : ChanId)].desc.count = 1 ∧
    (after (.stopPendingComplete 3 0) (inAccess (.write 7) 0x20 7 (.chan 3 .dstWrite) none none stopping)).chans[(3 : ChanId)].last = .dropped ∧
    (after (.stopPendingComplete 3 0) { stopping with inProg := none }).chans[(3 : ChanId)].state = .idle := by decide

/-- C3's FEED read in progress, and its post write at ring 1 in progress. -/
def feedRead : State := moving { copyDesc with mode := 5, data := 1 } none .read 0 .srcRead

/-- C3's post of word 7 at ring 1 in progress: the first word of its entry, or, attached or not, the last. -/
def feedWrite (n : Nat) (attached live : Bool) : State :=
  inAccess (.write 7) 0x1100 7 (.ring 1) none none <| feeding.modRing 1 fun k =>
    { k with
      postAsm := some { owner := .chan 3, words := n }
      inFlight := some { post := { who := .chan 3, word := 7, live := live }, dir := .write, addr := 0x1100,
                         attached := attached, presented := true, leaving := false } }

/-- C3 waits in the queue of lock 3, or in ring 1's stall queue, while a read that a ring reset left is in progress. -/
def leftover (st : ChanState) (mode : Word) : State :=
  inAccess .read 0 7 (.chan 3 .srcRead) none none <|
    ((feeding.modChan 3 fun k => { k with state := st, desc := { k.desc with mode := mode } }).modLock 3 fun _ =>
      { holder := some (.port 1), waiters := [.chan 3], timer := none }).modRing 1 fun k =>
        { k with stall := [{ post := { who := .chan 3, word := 5, live := true }, ticks := none }] }

theorem test_EndOfRun_waiting : (leftover .lockWait 0x315).chanPresented 3 = true ∧
    ((leftover .lockWait 0x315).stopChan 3 .aborted).locks[(3 : LockId)].waiters = [] ∧
    ((leftover .lockWait 0x315).stopChan 3 .aborted).chans[(3 : ChanId)].stopPending = some .aborted ∧
    (leftover .stall 5).chans[(3 : ChanId)].feedRing = some 1 ∧
    ((leftover .stall 5).stopChan 3 .aborted).rings[(1 : RingId)].stall = [] ∧
    ((leftover .run 5).stopChan 3 .aborted).rings[(1 : RingId)].stall = [] := by decide

theorem test_AbortsAndStops_pending : feedRead.chanPresented 3 = true ∧
    feedRead.rings[(1 : RingId)] = (feedRead.rings[(1 : RingId)]).withoutPosts 3 ∧
    (after (.channelAbort 1 0x41F) feedRead).chans[(3 : ChanId)].stopPending = some .aborted := by decide

/-- The end of a run of C3, ring by ring: nothing at ring 0, its assembly discarded at ring 1, nothing at the others. -/
def leftAt (n : Nat) : State :=
  let t := (feedOwner.modChan 3 fun k => k.over .done).modRing 1 (·.without 3)
  if n < 2 then t else after (.stalledPostOpen 1) (t.modRing 1 fun k => { k with postAsm := none, awaiting := none })

theorem test_LeftRings : LeftRings (feedOwner.modChan 3 fun k => k.over .done) 3 (leftAt 8) := by
  have q : ∀ r : RingId, r ≠ 1 → (leftAt 0).rings[r].postAsm = none ∧ (leftAt 2).rings[r].postAsm = none := by decide
  have none_at : ∀ n : Nat, n = 0 ∨ 2 ≤ n → ∀ r : RingId, r.val = n →
      (leftAt n).rings[r].postAsm = none ∧ leftAt (n + 1) = leftAt n := by
    intro n h r e
    have ne : r ≠ 1 := by rintro rfl; have : n = 1 := e.symm; omega
    rcases h with rfl | h
    · exact ⟨(q r ne).1, rfl⟩
    · have big : ∀ m, 2 ≤ m → leftAt m = leftAt 2 := fun m hm => by
        unfold leftAt
        simp only [if_neg (Nat.not_lt.mpr hm)]
        rfl
      rw [big n h, big (n + 1) (by omega)]
      exact ⟨(q r ne).2, rfl⟩
  refine ⟨leftAt, rfl, fun r => Or.inr ?_, rfl⟩
  by_cases e : r = 1
  · subst e
    exact ⟨fun _ _ _ _ h => (nomatch (show (none : Option InFlight) = some _ from h)),
      Or.inr ⟨⟨{ owner := .chan 3, words := 1 }, rfl, rfl⟩, rfl⟩⟩
  · have ⟨h, k⟩ := none_at r.val (by have : r.val ≠ 1 := fun x => e (Fin.ext x); omega) r rfl
    exact ⟨fun _ _ x => (by rw [h] at x; exact nomatch x), Or.inl ⟨fun _ x => (by rw [h] at x; exact nomatch x), k⟩⟩

/-- C3, which copies for P1, owns an assembly at ring 1, which a kept post has opened; P2's post is stalled there. -/
def strayOwner : State :=
  (runningChan copyDesc).modRing 1 fun k =>
    { k with
      postAsm := some { owner := .chan 3, words := 1 }
      stall := [{ post := { who := .port 2, word := 5, live := true }, ticks := some 3 }] }

theorem test_EndOfRun_stray : strayOwner.chans[(3 : ChanId)].feedRing = none ∧
    ((strayOwner.endRun 3 .aborted).rings[(1 : RingId)].postAsm).map (·.owner) = some (.port 2) ∧
    (strayOwner.endRun 3 .aborted).rings[(1 : RingId)].stall = [] := by decide

/-- C3 feeding ring 4 for P1, with a post of it held there behind its write in flight and the post assembly of ring 1. -/
def feedElsewhere : State :=
  (feedOwner.modChan 3 fun k => { k with desc := { k.desc with data := 4 } }).modRing 4 fun k =>
    { k with
      inFlight := some { post := { who := .chan 3, word := 5, live := true }, dir := .write, addr := 0x1200,
                         attached := true, presented := false, leaving := false }
      hold := [.post { who := .chan 3, word := 6, live := true }] }

/-- C3 copying for P1, with a post of an earlier run stalled at ring 1. -/
def copyStalled : State :=
  (runningChan copyDesc).modRing 1 fun k =>
    { k with stall := [{ post := { who := .chan 3, word := 5, live := false }, ticks := none }] }

theorem test_RingResetCommand_elsewhere : feedElsewhere.chans[(3 : ChanId)].feedRing = some 4 ∧
    feedElsewhere.haltedBy 1 3 = true ∧ copyStalled.haltedBy 1 3 = true ∧ strayOwner.haltedBy 1 3 = false ∧
    (after (.ringReset 0 1) feedElsewhere).chans[(3 : ChanId)].last = .ringReset ∧
    (after (.ringReset 0 1) feedElsewhere).chans[(3 : ChanId)].state = .idle ∧
    (after (.ringReset 0 1) feedElsewhere).rings[(4 : RingId)] = feedElsewhere.ringBeside 1 4 ∧
    (feedElsewhere.ringBeside 1 4).hold = [.post { who := .chan 3, word := 6, live := false }] ∧
    (after (.ringReset 0 1) copyStalled).chans[(3 : ChanId)].last = .ringReset ∧
    (after (.ringReset 0 1) copyStalled).chans[(3 : ChanId)].state = .idle ∧
    (after (.ringReset 0 1) strayOwner).chans[(3 : ChanId)].state = .run := by decide

/-- C3 copying for P1, with a post of an earlier run in the hold list of ring 1, now disabled. -/
def copyHeld : State :=
  ((runningChan copyDesc).modRec 1 fun e => { e with enable := false }).modRing 1 fun k =>
    { k with hold := [.post { who := .chan 3, word := 5, live := false }] }

theorem test_WaitingPosts_kept : (after (.holdListTakeUp 1) copyHeld).chans[(3 : ChanId)].state = .idle ∧
    (after (.holdListTakeUp 1) copyHeld).chans[(3 : ChanId)].last = .ringReset := by decide

theorem test_LeftRings_flight : (feedWrite 0 true false).rings[(1 : RingId)].inFlight.map (·.post.who) = some (.chan 3) ∧
    (((feedWrite 0 true false).endRun 3 .parity).rings[(1 : RingId)].inFlight).map (·.leaving) = some true ∧
    ((feedWrite 0 true false).endRun 3 .parity).rings[(1 : RingId)].postAsm = some { owner := .chan 3, words := 0 } := by
  decide

theorem test_channelPick : (runningChan copyDesc).engineBusy = false ∧
    (∀ m : ChanId, m.val < (3 : ChanId).val → (runningChan copyDesc).needsAccess (0 + m) = false) ∧
    (runningChan copyDesc).unpresentedPost 3 = none ∧ (runningChan copyDesc).chans[(3 : ChanId)].nextStep = some .srcRead ∧
    (after .channelPick (runningChan copyDesc)).lastChan = 3 ∧ after .channelPick board = board ∧
    (after .channelPick (runningChan copyDesc)).engineBusy = true := by decide

/-- Channel C3 running for P1 with these fields, holding a word, a fetch buffer and words done. -/
def midway (d : Desc) (st : ChanState) (n : Nat) (held : Option Word) (ws : List Word) : State :=
  (runningChan d).modChan 3 fun k => { k with state := st, wordsDone := n, holding := held, fetchBuf := ws }

theorem test_ChannelPick_accesses :
    (after .channelPick (midway { copyDesc with dst := 0x500 } .run 0 (some 7) [])).reqs[(4 : Fin 5)] =
      some { kind := .pair 7, addr := 0x500, code := 7, issuer := .chan 3 .dstWrite, abandoned := false,
             watch := some { win := 7, offset := 0, target := 1, onWrite := true, onRead := false, changedOnly := true } } ∧
    (after .channelPick (midway { copyDesc with mode := 2 } .run 0 (some 7) [])).reqs[(4 : Fin 5)] =
      some (chanReadReq 3 .dstRead 0x20) ∧
    (after .channelPick (midway { copyDesc with link := 0x30 } .fetch 0 none [1, 2])).reqs[(4 : Fin 5)] =
      some (chanReadReq 3 .fetchRead 0x32) ∧
    (after .channelPick (midway { copyDesc with mode := 4, count := 0, data := 9 } .run 2 none [])).reqs[(4 : Fin 5)] =
      some { chanReadReq 3 .sumWrite 0x20 with kind := .write 9 } ∧
    (after .channelPick (midway { copyDesc with mode := 3, data := 8 } .run 0 none [])).reqs[(4 : Fin 5)] =
      some { chanReadReq 3 .dstWrite 0x20 with kind := .write 8 } := by decide

theorem test_ChannelPick_feed : (after .channelPick (flying (.chan 3) .write false feeding)).reqs[(4 : Fin 5)] =
      some { kind := .write 5, addr := 0x1100, code := 7, issuer := .ring 1, watch := none, abandoned := false } ∧
    (runningChan copyDesc).watchLookup 0x500 = some { win := 7, offset := 0, target := 1, onWrite := true, onRead := false,
                                                      changedOnly := true } ∧
    (runningChan copyDesc).watchLookup 0x10 = none ∧ (runningChan copyDesc).watchLookup 0x9000 = none := by decide

theorem test_RunsWordByWord_copy :
    (after (.memoryAccessComplete 0) (moving copyDesc none .read 0 .srcRead)).chans[(3 : ChanId)].holding = some 7 ∧
    (after (.memoryAccessComplete 0) (broken 0 7 (moving copyDesc none .read 0 .srcRead))).chans[(3 : ChanId)].last = .parity ∧
    (after (.memoryAccessComplete 0) (moving copyDesc (some 7) (.write 7) 0x20 .dstWrite)).chans[(3 : ChanId)].desc =
      { copyDesc with src := 1, dst := 0x21, count := 1 } ∧
    (after (.memoryAccessComplete 0) (moving { copyDesc with count := 1 } (some 7) (.write 7) 0x20 .dstWrite)).chans[(3 : ChanId)].last =
      .done := by decide

theorem test_RunsWordByWord_verify : (moving { copyDesc with mode := 2 } (some 7) .read 0x20 .dstRead).chans[(3 : ChanId)].holding =
      some 7 ∧
    (after (.memoryAccessComplete 0) (moving { copyDesc with mode := 2 } (some 7) .read 0x20 .dstRead)).chans[(3 : ChanId)].last =
      .mismatch ∧
    (after (.memoryAccessComplete 0) (moving { copyDesc with mode := 2 } (some 9) .read 0x20 .dstRead)).chans[(3 : ChanId)].desc.count =
      1 := by decide

theorem test_RunsWordByWord_ends :
    (after (.memoryAccessComplete 0) (moving { copyDesc with count := 1, mode := 9 } (some 7) (.write 7) 0x20 .dstWrite)).chans[(3 : ChanId)].state =
      .fetch ∧
    (after (.memoryAccessComplete 0) (broken 0x20 9 (moving { copyDesc with mode := 2 } (some 9) .read 0x20 .dstRead))).chans[(3 : ChanId)].last =
      .parity ∧
    (after (.memoryAccessComplete 0) (broken 0x20 9 (moving copyDesc none .read 0x20 .fetchRead))).chans[(3 : ChanId)].last = .parity ∧
    ({ moving copyDesc none .read 0 .srcRead with inProg := none }).chanPresented 3 = false ∧
    (moving copyDesc none .read 0 .srcRead).chans[(3 : ChanId)].desc.mark = some 0 := by decide

theorem test_RunsWordByWord_ownRead : (flying (.chan 3) .write true feedRead).rings[(1 : RingId)].inFlight.isSome = true ∧
    (after (.memoryAccessComplete 0) (flying (.chan 3) .write true (broken 0 7 feedRead))).chans[(3 : ChanId)].last = .parity ∧
    (after (.memoryAccessComplete 0) (flying (.chan 3) .write true (broken 0 7 feedRead))).chans[(3 : ChanId)].state = .idle := by
  decide

theorem test_WordDone : ((bound 1 0 (.chanMark 3) 0 none (midway { copyDesc with count := 9, mode := 0x1001 } .run 15 none [])).wordDone 3
      7).ctls[(1 : PortId)].slots[(0 : SlotId)].notice = some { detail := 8, repeated := false } ∧
    ((bound 1 0 (.chanMark 3) 0 none (midway { copyDesc with count := 9, mode := 0x1001 } .run 14 none [])).wordDone 3
      7).ctls[(1 : PortId)].slots[(0 : SlotId)].notice = none ∧
    ((midway { copyDesc with count := 1, mode := 4 } .run 0 none []).wordDone 3 1).chans[(3 : ChanId)].state = .run ∧
    ((midway { copyDesc with count := 1, mode := 4 } .run 0 none []).wordDone 3 1).chans[(3 : ChanId)].desc.data = 0x1021 ∧
    ((midway { copyDesc with count := 1, mode := 0x24 } .run 0 none []).wordDone 3 1).chans[(3 : ChanId)].last = .done := by decide

theorem test_SumAndFeedWords_sum : (after (.memoryAccessComplete 0) (moving { copyDesc with mode := 4 } none .read 0 .srcRead)).chans[(3 : ChanId)].desc.count =
      1 ∧
    (after (.memoryAccessComplete 0) (moving { copyDesc with mode := 4, count := 0 } none (.write 5) 0x20 .sumWrite)).chans[(3 : ChanId)].last =
      .done ∧
    (after (.memoryAccessComplete 0) (moving { copyDesc with mode := 12, count := 0 } none (.write 5) 0x20 .sumWrite)).chans[(3 : ChanId)].state =
      .fetch := by decide

theorem test_SumAndFeedWords_feed : feedRead.chans[(3 : ChanId)].feedRing = some 1 ∧
    ((after (.memoryAccessComplete 0) feedRead).rings[(1 : RingId)].inFlight).map (·.addr) = some 0x1100 ∧
    (after (.memoryAccessComplete 0) (feedRead.modRing 1 fun k => { k with count := 2 })).chans[(3 : ChanId)].state = .stall ∧
    (after (.memoryAccessComplete 0) (feedRead.modChan 3 fun k => { k with desc := { k.desc with data := 2 } })).chans[(3 : ChanId)].last =
      .ringReset := by decide

theorem test_SumAndFeedWords_posts : (after (.memoryAccessComplete 0) (feedWrite 0 true true)).rings[(1 : RingId)].postAsm =
      some { owner := .chan 3, words := 1 } ∧
    (after (.memoryAccessComplete 0) (feedWrite 1 true true)).rings[(1 : RingId)].count = 1 ∧
    (after (.memoryAccessComplete 0) (feedWrite 1 true true)).chans[(3 : ChanId)].wordsDone = 1 ∧
    (after (.memoryAccessComplete 0) (feedWrite 1 false false)).rings[(1 : RingId)].count = 0 ∧
    (after (.memoryAccessComplete 0) (feedWrite 1 false false)).chans[(3 : ChanId)].wordsDone = 0 := by decide

/-- The first word of C3's entry in progress, after the end of whose run C3 leaves the ring. -/
def feedLeaving : State := (feedWrite 0 true false).endRun 3 .parity

theorem test_SumAndFeedWords_leaving : AssemblyDropped (feedLeaving.modRing 1 fun k => { k with inFlight := none }) 3 1
      (after (.stalledPostOpen 1) ((feedLeaving.modRing 1 fun k => { k with inFlight := none }).modRing 1 fun k =>
        { k with postAsm := none, awaiting := none })) ∧
    (after (.memoryAccessComplete 0) feedLeaving).rings[(1 : RingId)] = Ring.reset ∧
    (after (.memoryAccessComplete 0) feedLeaving).chans[(3 : ChanId)].wordsDone = 0 :=
  ⟨Or.inr ⟨⟨_, rfl, rfl⟩, rfl⟩, by decide⟩

/-- C3 fetching, the seventh word `w` of its descriptor in progress, with lock 5 held under its present fields. -/
def fetching (w : Word) : State :=
  inAccess .read 0x36 7 (.chan 3 .fetchRead) none none <| holding [(0x36, w)] <|
    (midway { copyDesc with mode := 0x0519 } .fetch 2 none [0x30, 0x40, 0, 1, 0, 0]).modLock 5 fun _ =>
      { holder := some (.chan 3), waiters := [.port 2], timer := none }

theorem test_FetchAndInstall : (fetching 0x0611).chans[(3 : ChanId)].fetchBuf.length = 6 ∧
    (fetching 0x0611).descOk 1 none (descOfWords [0x30, 0x40, 0, 1, 0, 0, 0x0611]) = true ∧
    (after (.memoryAccessComplete 0) (fetching 0x0611)).locks[(5 : LockId)].holder = some (.port 2) ∧
    (after (.memoryAccessComplete 0) (fetching 0x0611)).locks[(6 : LockId)].holder = some (.chan 3) ∧
    (after (.memoryAccessComplete 0) (fetching 0x0511)).locks[(5 : LockId)].holder = some (.chan 3) ∧
    (after (.memoryAccessComplete 0) (fetching 0x0001)).locks[(5 : LockId)].holder = some (.port 2) ∧
    (after (.memoryAccessComplete 0) (fetching 0x0006)).chans[(3 : ChanId)].last = .badDescriptor ∧
    (after (.memoryAccessComplete 0) ((fetching 0x0611).modLock 6 fun k => { k with holder := some (.port 0) })).chans[(3 : ChanId)].state =
      .lockWait ∧
    (after (.memoryAccessComplete 0) (fetching 0x0611)).chans[(3 : ChanId)].descCount = 1 := by decide

theorem test_FetchAndInstall_early :
    ((fetching 9).modChan 3 fun k => { k with fetchBuf := [0x30] }).chans[(3 : ChanId)].fetchBuf.length ≠ 6 ∧
    (fetching 9).cellAt 0x36 = goodCell 9 ∧ (fetching 9).chans[(3 : ChanId)].stopPending = none ∧
    (after (.memoryAccessComplete 0) ((fetching 9).modChan 3 fun k => { k with fetchBuf := [0x30] })).chans[(3 : ChanId)].fetchBuf =
      [0x30, 9] := by decide

theorem test_crc : crcWord 0 1 = 0x1021 ∧ crcWord 0 2 = 0x2042 ∧
    crcWord (crcWord (crcWord (crcWord 0xFFFF 0x3132) 0x3334) 0x3536) 0x3738 = 0xA12B := by decide

/-! ## Laws -/

theorem test_MemoryLawKept : taking.memoryLaw ∧ step taking = .next taking.clockPeriod := by
  refine ⟨?_, rfl⟩
  unfold State.memoryLaw
  decide

theorem test_PortLawKept : (sweeping 0).startLaw ∧ (sweeping 0).portLaw ∧ tearing.portLaw := by
  refine ⟨⟨fun a h => ?_, fun q r h => ?_, fun h => nomatch h⟩, ?_, ?_⟩
  · have e := Option.some.inj h
    subst e
    rfl
  · have key : ∀ q : Fin 5, (sweeping 0).reqs[q] = none := by decide
    rw [key q] at h
    exact nomatch h
  · unfold State.portLaw
    decide
  · unfold State.portLaw
    decide

theorem test_LockLawKept : (crowded (.port 2)).lockLaw ∧ chanWaits.lockLaw := by
  unfold State.lockLaw Lock.law
  decide

theorem test_RingLawKept : taking.ringLaw ∧ posting.ringLaw := by
  unfold State.ringLaw Ring.law
  decide

theorem test_RingLawKept_stall : stalled.stallLaw ∧ (opening (.chan 0)).rings[(1 : RingId)].stall.length = 3 := by
  refine ⟨?_, by decide⟩
  unfold State.stallLaw Ring.stallLaw
  decide

theorem test_WindowLawKept_bindings : notices.bindingLaw := by
  intro p i j b c hb hc e
  have key : ∀ i j : SlotId, notices.ctls[(1 : PortId)].slots[i].binding.isSome = true →
      (notices.ctls[(1 : PortId)].slots[i].binding).map (·.source) =
        (notices.ctls[(1 : PortId)].slots[j].binding).map (·.source) → i = j := by decide
  have other : ∀ p : PortId, p ≠ 1 → ∀ i : SlotId, notices.ctls[p].slots[i].binding = none := by decide
  by_cases h : p = 1
  · subst h
    exact key i j (by rw [hb]; rfl) (by rw [hb, hc]; simp [e])
  · rw [other p h i] at hb
    exact nomatch hb

theorem test_WindowLawKept_ranges : board.rangeLaw := by
  unfold State.rangeLaw
  decide

theorem test_WindowLawKept_maps : board.mapLaw := by
  intro v w k n hv hw kv kw
  have key : ∀ v w : WinId, v ≠ w → board.windows[v].valid = true → board.windows[w].valid = true →
      ∀ k ∈ [WinKind.plain, .watch, .ring, .lock, .channel], board.windows[v].ctl.winKind = some k →
        board.windows[w].ctl.winKind = some k →
          (mapped k board.windows[v].ctl).meets (mapped k board.windows[w].ctl) = false := by decide
  exact key v w n hv hw k (by cases k <;> simp) kv kw

theorem test_NoticeLawKept : notices.noticeLaw ∧ serving.inServiceLaw ∧
    ((bound 0 0 .table 0 none sweepWait).deliver 0 .table 7).noticeLaw := by
  unfold State.noticeLaw State.inServiceLaw
  decide

end Sys2Proof.Tests
end

/-! PROOFS. The way of a presented cycle into the access path: what a row that is a cycle presents (log 8), where an
address is classified, and the refusals, reads and memory requests that end there (R1 to R21). -/

namespace Sys2Proof.Machine

/-! ## The state in which a ready port's cycle reaches the access path -/

/-- Port `p` has taken this cycle, and it is in the hands of the access path (R1). -/
abbrev State.taking (s : State) (p : PortId) (d : Dir) (a : Addr) (v : Word) : State :=
  s.modPort p fun pt => pt.accept d a v .arriving

/-- A row that is a cycle presents it (log 8). -/
theorem exec_of_cycleOf {i : Instr} {p : PortId} {d : Dir} {a : Addr} {v : Word} (h : cycleOf i = some (p, d, a, v))
    (s : State) : exec i s = .next (s.present p d a v) := by
  cases i <;> first | (cases h; rfl) | cases h

/-- A row that is a cycle reaches the access path of a ready port (R1). -/
theorem exec_ready {i : Instr} {p : PortId} {d : Dir} {a : Addr} {v : Word} {s : State} (r : s.ready p)
    (h : cycleOf i = some (p, d, a, v)) : exec i s = .next ((s.taking p d a v).arrive p d a v) := by
  rw [exec_of_cycleOf h, State.present_ready r]

/-- With a cycle in progress none is presented (log 6). -/
theorem State.present_busy {s : State} {p : PortId} (h : s.ports[p].cycle.isSome = true) (d : Dir) (a : Addr) (v : Word) :
    s.present p d a v = s := by
  unfold State.present
  rw [if_pos h]

/-! ## Reading a port's record after a change of it -/

theorem State.modPort_port (s : State) (p q : PortId) (f : Port → Port) :
    (s.modPort p f).ports[q] = if p = q then f s.ports[q] else s.ports[q] := upd_get _ _ _ _

@[simp] theorem State.modPort_port_same (s : State) (p : PortId) (f : Port → Port) :
    (s.modPort p f).ports[p] = f s.ports[p] := by rw [State.modPort_port, if_pos rfl]

theorem State.modPort_port_other (s : State) {p q : PortId} (f : Port → Port) (h : p ≠ q) :
    (s.modPort p f).ports[q] = s.ports[q] := by rw [State.modPort_port, if_neg h]

/-- Two changes of one port's record are one. -/
theorem State.modPort_modPort (s : State) (p : PortId) (f g : Port → Port) :
    (s.modPort p f).modPort p g = s.modPort p fun x => g (f x) := by
  simp only [State.modPort, upd_upd]

/-- Changes that agree on the port's record are one. -/
theorem State.modPort_congr (s : State) (p : PortId) {f g : Port → Port} (h : f s.ports[p] = g s.ports[p]) :
    s.modPort p f = s.modPort p g := by
  unfold State.modPort
  rw [upd_congr _ _ h]

theorem State.taking_port_state (s : State) (p q : PortId) (d : Dir) (a : Addr) (v : Word) :
    (s.taking p d a v).ports[q].state = s.ports[q].state := State.modPort_state _ _ _ _ fun _ => rfl

/-! ## O11: a cycle by the port's state, and the strobe -/

/-- Settles O11: each case of the port's state is one equation of `State.present`. -/
theorem presentedCycles : Obligations.PresentedCycles := by
  refine ⟨fun i p d a v s h => ⟨fun hc => ?_, fun hc hd => ?_, fun hc ho => ?_⟩, fun p s => ⟨fun c hc => ?_, fun hc => ?_⟩⟩
  · rw [exec_of_cycleOf h, State.present_busy hc]
  · rw [exec_of_cycleOf h, State.present_down hd]
  · rw [exec_of_cycleOf h, State.present_off ho hc]
    rfl
  · show Host.Outcome.next (s.modPort p _) = _
    congr 1
    refine State.modPort_congr _ _ ?_
    simp only [Port.strobeNegated, hc]
  · show Host.Outcome.next (s.modPort p _) = _
    congr 1
    refine State.modPort_congr _ _ ?_
    simp only [Port.strobeNegated, hc]

/-! ## O12: classification -/

theorem portWordOf_some {a : Addr} (k : Fin 16) (h : a.toNat = 0x3FDF0 + k.val) : portWordOf a = some k := by
  have hk := k.isLt
  have hr : Config.portWindowBase ≤ a.toNat ∧ a.toNat < Config.tableBase := by
    simp only [Config.portWindowBase, Config.tableBase]
    omega
  have hs : a.toNat - Config.portWindowBase = k.val := by
    simp only [Config.portWindowBase]
    omega
  unfold portWordOf
  rw [dif_pos hr]
  exact congrArg some (Fin.ext hs)

theorem portWordOf_none {a : Addr} (h : a.toNat < 0x3FDF0 ∨ 0x3FE00 ≤ a.toNat) : portWordOf a = none := by
  unfold portWordOf
  refine dif_neg fun hr => ?_
  simp only [Config.portWindowBase, Config.tableBase] at hr
  omega

theorem tableOffsetOf_none {a : Addr} (h : a.toNat < 0x3FDF0) : tableOffsetOf a = none := by
  unfold tableOffsetOf
  refine if_neg ?_
  simp only [Config.tableBase]
  omega

theorem State.classify_portWord (s : State) {a : Addr} (k : Fin 16) (h : a.toNat = 0x3FDF0 + k.val) :
    s.classify a = .portWord k := by
  unfold State.classify
  rw [portWordOf_some k h]

theorem State.classify_table (s : State) {a : Addr} (h : 0x3FE00 ≤ a.toNat) :
    s.classify a = .table (a.toNat - 0x3FE00) := by
  have ht : tableOffsetOf a = some (a.toNat - 0x3FE00) := if_pos h
  unfold State.classify
  rw [portWordOf_none (.inr h), ht]

/-- In the span the storages of the enabled rings come first (R5). -/
theorem State.classify_storage (s : State) {a : Addr} (h : a.toNat < 0x3FDF0)
    (hs : (s.storageAt a.toNat).isSome = true) : s.classify a = .storage := by
  unfold State.classify
  rw [portWordOf_none (.inl h), tableOffsetOf_none h]
  exact if_pos hs

/-- Outside the storages comes the window that claims the address (R5, R6). -/
theorem State.classify_window (s : State) {a : Addr} (h : a.toNat < 0x3FDF0) (hs : s.storageAt a.toNat = none) {w : WinId}
    (hw : s.claimedBy a = some w) : s.classify a = .window w := by
  unfold State.classify
  rw [portWordOf_none (.inl h), tableOffsetOf_none h, hs, hw]
  rfl

/-- What nothing else contains is memory (R5). -/
theorem State.classify_memory (s : State) {a : Addr} (h : a.toNat < 0x3FDF0) (hs : s.storageAt a.toNat = none)
    (hw : s.claimedBy a = none) : s.classify a = .memory := by
  unfold State.classify
  rw [portWordOf_none (.inl h), tableOffsetOf_none h, hs, hw]
  rfl

theorem mem_allRings (r : RingId) : r ∈ allRings := by revert r; decide

theorem mem_allWins (w : WinId) : w ∈ allWins := by revert w; decide

theorem Range.has_iff (g : Range) (a : Nat) : g.has a = true ↔ g.base ≤ a ∧ a < g.base + g.len := by
  simp [Range.has]

/-- Some enabled ring's storage holds the address. -/
theorem State.storageAt_isSome {s : State} {a : Nat} {r : RingId} (he : s.recs[r].enable = true)
    (h : (s.recs[r].storage).has a = true) : (s.storageAt a).isSome = true := by
  unfold State.storageAt
  rw [List.find?_isSome]
  exact ⟨r, mem_allRings r, by rw [he, h]; rfl⟩

/-- No enabled ring's storage holds the address. -/
theorem State.storageAt_none {s : State} {a : Nat}
    (h : ∀ r : RingId, s.recs[r].enable = true → (s.recs[r].storage).has a = false) : s.storageAt a = none := by
  unfold State.storageAt
  rw [List.find?_eq_none]
  intro r _ hr
  rw [Bool.and_eq_true] at hr
  rw [h r hr.1] at hr
  exact Bool.false_ne_true hr.2

/-- The only VALID window that holds the address claims it. -/
theorem State.windowAt_some {s : State} {a : Nat} {w : WinId} (hv : s.windows[w].valid = true)
    (hw : (winRange s.windows[w].data).has a = true)
    (hu : ∀ v : WinId, v ≠ w → s.windows[v].valid = true → (winRange s.windows[v].data).has a = false) :
    s.windowAt a = some w := by
  cases e : s.windowAt a with
  | none =>
    have := List.find?_eq_none.1 e w (mem_allWins w)
    rw [hv, hw] at this
    exact absurd rfl this
  | some v =>
    have hp := List.find?_some e
    rw [Bool.and_eq_true] at hp
    by_cases hvw : v = w
    · rw [hvw]
    · rw [hu v hvw hp.1] at hp
      exact absurd hp.2 Bool.false_ne_true

theorem State.windowAt_none {s : State} {a : Nat}
    (h : ∀ w : WinId, s.windows[w].valid = true → (winRange s.windows[w].data).has a = false) : s.windowAt a = none := by
  unfold State.windowAt
  rw [List.find?_eq_none]
  intro w _ hw
  rw [Bool.and_eq_true] at hw
  rw [h w hw.1] at hw
  exact Bool.false_ne_true hw.2

/-- A range that begins at or below the address ends at or below it: the range does not hold the address. -/
theorem Range.has_false {g : Range} {a : Nat} (h : g.base ≤ a → g.base + g.len ≤ a) : g.has a = false := by
  rw [Bool.eq_false_iff]
  intro hh
  obtain ⟨h1, h2⟩ := (g.has_iff a).1 hh
  exact absurd h2 (Nat.not_lt.2 (h h1))

/-- Settles O12: the five places in their order, each by the lemma about its test. -/
theorem classification : Obligations.Classification := by
  intro s a
  refine ⟨fun k h => s.classify_portWord k h, fun o h => ?_, fun h => ⟨fun r he h1 h2 => ?_, fun hs => ⟨?_, ?_⟩⟩⟩
  · rw [s.classify_table (h.symm ▸ Nat.le_add_right _ _), h, Nat.add_sub_cancel_left]
  · exact s.classify_storage h (State.storageAt_isSome he ((Range.has_iff _ _).2 ⟨h1, h2⟩))
  · have hn : s.storageAt a.toNat = none := State.storageAt_none fun r he => Range.has_false (hs r he)
    intro w hh hv h1 h2 hu
    have hw : s.claimedBy a = some w := by
      unfold State.claimedBy
      rw [if_pos (show s.headerEnable = true from hh)]
      exact State.windowAt_some hv ((Range.has_iff _ _).2 ⟨h1, h2⟩) fun v hvw hvv => Range.has_false (hu v hvw hvv)
    exact s.classify_window h hn hw
  · have hn : s.storageAt a.toNat = none := State.storageAt_none fun r he => Range.has_false (hs r he)
    intro hm
    have hw : s.claimedBy a = none := by
      unfold State.claimedBy
      by_cases hh : s.headerEnable = true
      · rw [if_pos hh]
        rcases hm with hm | hm
        · exact absurd hh (by rw [show s.headerEnable = false from hm]; exact Bool.false_ne_true)
        · exact State.windowAt_none fun w hv => Range.has_false (hm w hv)
      · rw [if_neg hh]
    exact s.classify_memory h hn hw

end Sys2Proof.Machine

/-! PROOFS. The port window: its refusals (O13) and the words that its reads show (O14). -/

namespace Sys2Proof.Machine

/-! ## The address of a port-window word -/

theorem portWordAddr_toNat (k : Fin 16) : (BitVec.ofNat 18 (0x3FDF0 + k.val)).toNat = 0x3FDF0 + k.val := by
  have := k.isLt
  rw [BitVec.toNat_ofNat]
  exact Nat.mod_eq_of_lt (by omega)

/-- A ready port's cycle at port-window word `k` is one of the port window (R8). -/
theorem exec_portWord {i : Instr} {p : PortId} {d : Dir} {a : Addr} {v : Word} {s : State} (r : s.ready p)
    (h : cycleOf i = some (p, d, a, v)) (k : Fin 16) (ha : a.toNat = 0x3FDF0 + k.val) :
    exec i s = .next ((s.taking p d a v).portWindow p k d v) := by
  rw [exec_ready r h]
  unfold State.arrive
  rw [State.classify_portWord _ k ha]

/-! ## The order of the checks (R8) -/

theorem State.portWindow_notReadable (s : State) (p : PortId) {k : Fin 16} (v : Word) (h : portReadable k = false) :
    s.portWindow p k .read v = s.refuse p .windowWord := by
  unfold State.portWindow
  rw [h]
  rfl

theorem State.portWindow_notWritable (s : State) (p : PortId) {k : Fin 16} (v : Word) (h : portWritable k = false) :
    s.portWindow p k .write v = s.refuse p .windowWord := by
  unfold State.portWindow
  rw [h]
  rfl

theorem State.portWindow_supervisor_read (s : State) {p : PortId} {k : Fin 16} (v : Word) (hr : portReadable k = true)
    (hs : supervisorWord k = true) (hp : p ≠ 0) : s.portWindow p k .read v = s.refuse p .supervisorOnly := by
  unfold State.portWindow
  rw [hr, hs, decide_eq_true hp]
  rfl

theorem State.portWindow_supervisor_write (s : State) {p : PortId} {k : Fin 16} (v : Word) (hr : portWritable k = true)
    (hs : supervisorWord k = true) (hp : p ≠ 0) : s.portWindow p k .write v = s.refuse p .supervisorOnly := by
  unfold State.portWindow
  rw [hr, hs, decide_eq_true hp]
  rfl

/-- A read that the port window permits (R8). -/
theorem State.portWindow_read (s : State) {p : PortId} {k : Fin 16} (v : Word) (hr : portReadable k = true)
    (hs : supervisorWord k = false ∨ p = 0) : s.portWindow p k .read v = s.readPortWord p k := by
  have hn : (supervisorWord k && decide (p ≠ 0)) = false := by
    rcases hs with h | h <;> simp [h]
  unfold State.portWindow
  rw [hr, hn]
  rfl

/-- A write that the port window permits (R8). -/
theorem State.portWindow_write (s : State) {p : PortId} {k : Fin 16} (v : Word) (hr : portWritable k = true)
    (hs : supervisorWord k = false ∨ p = 0) : s.portWindow p k .write v = s.writePortWord p k v := by
  have hn : (supervisorWord k && decide (p ≠ 0)) = false := by
    rcases hs with h | h <;> simp [h]
  unfold State.portWindow
  rw [hr, hn]
  rfl

/-! ## O13: the refusals -/

/-- A write to a word without a write, and a write to P0's word by another port, are refused. -/
theorem exec_write_refused {i : Instr} {p : PortId} {a : Addr} {v : Word} {s : State} (r : s.ready p)
    (h : cycleOf i = some (p, .write, a, v)) (k : Fin 16) (ha : a.toNat = 0x3FDF0 + k.val) {e : Reason}
    (hk : portWritable k = false ∧ e = .windowWord ∨
      portWritable k = true ∧ supervisorWord k = true ∧ p ≠ 0 ∧ e = .supervisorOnly) :
    exec i s = .next (s.refusedOn p .write a e) := by
  rw [exec_portWord r h k ha]
  rcases hk with ⟨hw, rfl⟩ | ⟨hw, hs, hp, rfl⟩
  · rw [State.portWindow_notWritable _ _ _ hw, State.refuse_accept]
  · rw [State.portWindow_supervisor_write _ _ hw hs hp, State.refuse_accept]

/-- A read of a word without a read, and a read of P0's word by another port, are refused. -/
theorem exec_read_refused {i : Instr} {p : PortId} {a : Addr} {v : Word} {s : State} (r : s.ready p)
    (h : cycleOf i = some (p, .read, a, v)) (k : Fin 16) (ha : a.toNat = 0x3FDF0 + k.val) {e : Reason}
    (hk : portReadable k = false ∧ e = .windowWord ∨
      portReadable k = true ∧ supervisorWord k = true ∧ p ≠ 0 ∧ e = .supervisorOnly) :
    exec i s = .next (s.refusedOn p .read a e) := by
  rw [exec_portWord r h k ha]
  rcases hk with ⟨hw, rfl⟩ | ⟨hw, hs, hp, rfl⟩
  · rw [State.portWindow_notReadable _ _ _ hw, State.refuse_accept]
  · rw [State.portWindow_supervisor_read _ _ hw hs hp, State.refuse_accept]

/-- A word that Table 2-2 does not list names no command. -/
theorem controlOf_none {v : Word} (h1 : ¬(v.toNat / 256 = 1 ∧ v.toNat % 256 < 4))
    (h2 : ¬(v.toNat / 256 = 2 ∧ v.toNat % 256 < 8)) (h3 : ¬(v.toNat / 256 = 3 ∧ v.toNat % 256 < 16))
    (h4 : v ≠ 0x400#16) : controlOf v = none := by
  unfold controlOf
  dsimp only
  split
  · next e => exact dif_neg fun hn => h1 ⟨e, hn⟩
  · next e => exact dif_neg fun hn => h2 ⟨e, hn⟩
  · next e => exact dif_neg fun hn => h3 ⟨e, hn⟩
  · next e =>
    refine if_neg fun hn => h4 (BitVec.eq_of_toNat_eq ?_)
    show v.toNat = 1024
    omega
  · rfl

/-- Settles O13: the direction is checked first, then the supervisor's right, then the CONTROL word itself. -/
theorem portWindowRefusals : Obligations.PortWindowRefusals := by
  intro s p v r
  have notWritable : ∀ k : Fin 16, k.val ∈ [0, 1, 3, 5, 10, 11, 12, 14, 15] → portWritable k = false := by decide
  have notReadable : ∀ k : Fin 16, k.val ∈ [2, 9, 13] → portReadable k = false := by decide
  have supervisorRead : ∀ k : Fin 16, k.val ∈ [14, 15] → portReadable k = true ∧ supervisorWord k = true := by decide
  refine ⟨fun k hk => ?_, fun k hk => ?_, fun hp k hk => ?_, fun hp => ?_, fun hp => ?_, fun hp n q l => ⟨?_, ?_, ?_, ?_⟩,
    fun hp h1 h2 h3 h4 => ?_⟩
  · exact exec_write_refused r rfl k (portWordAddr_toNat k) (.inl ⟨notWritable k hk, rfl⟩)
  · exact exec_read_refused r rfl k (portWordAddr_toNat k) (.inl ⟨notReadable k hk, rfl⟩)
  · obtain ⟨hr, hs⟩ := supervisorRead k hk
    exact exec_read_refused r rfl k (portWordAddr_toNat k) (.inr ⟨hr, hs, hp, rfl⟩)
  · exact exec_write_refused r rfl 13 rfl (.inr ⟨rfl, rfl, hp, rfl⟩)
  · exact exec_read_refused r rfl 15 rfl (.inr ⟨rfl, rfl, hp, rfl⟩)
  · exact exec_write_refused r rfl 13 rfl (.inr ⟨rfl, rfl, hp, rfl⟩)
  · exact exec_write_refused r rfl 13 rfl (.inr ⟨rfl, rfl, hp, rfl⟩)
  · exact exec_write_refused r rfl 13 rfl (.inr ⟨rfl, rfl, hp, rfl⟩)
  · exact exec_write_refused r rfl 13 rfl (.inr ⟨rfl, rfl, hp, rfl⟩)
  · rw [exec_portWord r rfl 13 rfl, State.portWindow_write _ _ rfl (.inr hp)]
    show Host.Outcome.next (State.writeControl p v _) = _
    unfold State.writeControl
    rw [controlOf_none h1 h2 h3 h4]
    exact congrArg _ (State.refuse_accept _ _ _ _ _ _ _)

/-! ## O14: the reads -/

/-- A permitted read of a word that is answered at once with `w`. -/
theorem exec_read_shows {i : Instr} {p : PortId} {a : Addr} {v w : Word} {s : State} (r : s.ready p)
    (h : cycleOf i = some (p, .read, a, v)) (k : Fin 16) (ha : a.toNat = 0x3FDF0 + k.val) (hr : portReadable k = true)
    (hs : supervisorWord k = false ∨ p = 0)
    (hw : (s.taking p .read a v).readPortWord p k = (s.taking p .read a v).completeRead p w) :
    exec i s = .next (s.answered p w) := by
  rw [exec_portWord r h k ha, State.portWindow_read _ _ hr hs, hw, State.completeRead_accept]

/-- The word that `wordOfSlots` forms, by its bits as one number. -/
theorem wordOfSlots_eq_ofBits (f : SlotId → Bool) : wordOfSlots f = BitVec.ofNat 16 (Nat.ofBits f) := by
  have hb : ∀ b : Bool, (if b then 1 else 0) = b.toNat := by decide
  have hp : ∀ (b : Bool) (n : Nat), (if b then n else 0) = n * b.toNat := by
    intro b n
    cases b <;> simp
  unfold wordOfSlots
  congr 1
  simp only [allSlots, List.foldr, Nat.ofBits, Fin.foldr_succ_last, Fin.foldr_zero, hp]
  simp [Fin.last, Fin.castSucc]
  omega

/-- Bit `i` of the word stands for slot `i` (section 11.1). -/
theorem wordOfSlots_getLsbD (f : SlotId → Bool) (i : SlotId) : (wordOfSlots f).getLsbD i.val = f i := by
  rw [wordOfSlots_eq_ofBits, BitVec.getLsbD_ofNat, decide_eq_true i.isLt, Bool.true_and, Nat.testBit_ofBits_lt _ _ i.isLt]

theorem addrLo_eq (a : Addr) : addrLo a = a.setWidth 16 := by
  apply BitVec.eq_of_toNat_eq
  simp [addrLo]

/-- A slot's pending flag does not depend on a cycle being taken. -/
theorem State.slotPending_taking (s : State) (p q : PortId) (d : Dir) (a : Addr) (v : Word) (i : SlotId) :
    (s.taking p d a v).slotPending q i = s.slotPending q i := by
  unfold State.slotPending
  rw [State.taking_port_state]
  rfl

/-- A read that clears something of its port's record, answered at once. -/
theorem State.completeRead_clearing (s : State) (p : PortId) (a : Addr) (v w : Word) (f : Port → Port)
    (h : ∀ pt, f (pt.accept .read a v .arriving) = (f pt).accept .read a v .arriving) :
    (((s.taking p .read a v).modPort p f).completeRead p w) = (s.modPort p f).answered p w := by
  have e : (s.taking p .read a v).modPort p f = (s.modPort p f).taking p .read a v := by
    rw [State.modPort_modPort, funext h]
    exact (State.modPort_modPort s p f fun pt => pt.accept .read a v .arriving).symm
  rw [e, State.completeRead_accept]

/-- Settles O14: each word is one branch of `State.readPortWord`. -/
theorem portWindowReads : Obligations.PortWindowReads := by
  refine ⟨fun s p r => ⟨?_, ?_, ?_, ?_, ?_, ?_, ?_, fun hp => ?_⟩, fun s p r => ⟨?_, ?_, fun hp => ?_⟩⟩
  · exact exec_read_shows r rfl 3 rfl rfl (.inl rfl) rfl
  · refine ⟨_, exec_read_shows r rfl 4 rfl rfl (.inl rfl) rfl, fun i => ?_⟩
    rw [wordOfSlots_getLsbD, State.slotPending_taking]
  · exact ⟨_, exec_read_shows r rfl 5 rfl rfl (.inl rfl) rfl, fun i => wordOfSlots_getLsbD _ i⟩
  · exact exec_read_shows r rfl 6 rfl rfl (.inl rfl) rfl
  · exact exec_read_shows r rfl 7 rfl rfl (.inl rfl) rfl
  · exact exec_read_shows r rfl 8 rfl rfl (.inl rfl) rfl
  · refine exec_read_shows r rfl 10 rfl rfl (.inl rfl) ?_
    show State.completeRead p (refusalA (State.taking _ _ _ _ _).ports[p].refusal) _ = _
    rw [State.modPort_port_same]
    congr 1
    show refusalA s.ports[p].refusal = _
    cases s.ports[p].refusal with
    | none => rfl
    | some x => exact addrLo_eq _
  · refine exec_read_shows r rfl 14 rfl rfl (.inr hp) ?_
    show State.completeRead p (faultA s.fault) _ = _
    congr 1
    cases s.fault with
    | none => rfl
    | some x => exact addrLo_eq _
  · rw [exec_portWord r rfl 11 rfl, State.portWindow_read _ _ rfl (.inl rfl)]
    show Host.Outcome.next (State.readRefusalB p _) = _
    unfold State.readRefusalB
    rw [State.completeRead_clearing _ _ _ _ _ _ fun _ => rfl, State.modPort_port_same]
    rfl
  · rw [exec_portWord r rfl 12 rfl, State.portWindow_read _ _ rfl (.inl rfl)]
    show Host.Outcome.next (State.readIdent p _) = _
    unfold State.readIdent
    rw [State.completeRead_clearing _ _ _ _ _ _ fun _ => rfl, State.modPort_port_same]
    rfl
  · rw [exec_portWord r rfl 15 rfl, State.portWindow_read _ _ rfl (.inr hp)]
    exact congrArg _ (State.completeRead_accept { s with fault := none } p _ _ _ _ _)

end Sys2Proof.Machine

/-! PROOFS. Cycles that the access path refuses outside the port window (O15) and cycles that pass to memory (O16). -/

namespace Sys2Proof.Machine

/-- A window cycle of a ready port reaches its window (R12). -/
theorem exec_window {i : Instr} {p : PortId} {d : Dir} {a : Addr} {v : Word} {s : State} (r : s.ready p)
    (h : cycleOf i = some (p, d, a, v)) {w : WinId} (hw : s.classify a = .window w) :
    exec i s = .next ((s.taking p d a v).windowCycle p w d a v) := by
  rw [exec_ready r h]
  unfold State.arrive
  rw [show (s.taking p d a v).classify a = .window w from hw]

/-- A table-area cycle of a ready port reaches the table unit (R10). -/
theorem exec_table {i : Instr} {p : PortId} {d : Dir} {a : Addr} {v : Word} {s : State} (r : s.ready p)
    (h : cycleOf i = some (p, d, a, v)) (ha : 0x3FE00 ≤ a.toNat) :
    exec i s = .next ((s.taking p d a v).tableCycle p (a.toNat - 0x3FE00) d a v) := by
  rw [exec_ready r h]
  unfold State.arrive
  rw [State.classify_table _ ha]

/-! ## Windows (R12 to R15) -/

theorem State.windowCycle_takeWord {s : State} {p : PortId} {w : WinId} {d : Dir} {a : Addr} (v : Word)
    (h : s.takeWordWrite w d a = true) : s.windowCycle p w d a v = s.refuse p .windowWord := by
  unfold State.windowCycle
  rw [if_pos h]

theorem State.windowCycle_noRight {s : State} {p : PortId} {w : WinId} {d : Dir} {a : Addr} (v : Word)
    (h : s.takeWordWrite w d a = false) (hr : hasRight s.windows[w].data p d = false) :
    s.windowCycle p w d a v = s.refuse p (noRight d) := by
  unfold State.windowCycle
  rw [h, hr]
  rfl

theorem State.windowCycle_rightful {s : State} {p : PortId} {w : WinId} {d : Dir} {a : Addr} (v : Word)
    (h : s.takeWordWrite w d a = false) (hr : hasRight s.windows[w].data p d = true) :
    s.windowCycle p w d a v = s.rightfulCycle p w d a v := by
  unfold State.windowCycle
  rw [h, hr]
  rfl

/-- Only a write at a RING window's second word is one of the take word (R14). -/
theorem State.takeWordWrite_false {s : State} {w : WinId} {d : Dir} {a : Addr}
    (h : d = .write → s.windows[w].ctl.winKind = some .ring → a.toNat = winBase s.windows[w].data) :
    s.takeWordWrite w d a = false := by
  rw [Bool.eq_false_iff]
  intro ht
  unfold State.takeWordWrite at ht
  simp only [Bool.and_eq_true, decide_eq_true_eq] at ht
  obtain ⟨⟨hk, hd⟩, hb⟩ := ht
  rw [h hd hk, Nat.sub_self] at hb
  exact hb rfl

/-! ## O15 -/

/-- Settles O15: each refusal is the first check of `State.arrive` that fails. -/
theorem refusedByAccessPath : Obligations.RefusedByAccessPath := by
  intro i s p d a v r hi
  refine ⟨fun hs => ?_, fun ha hp hd => ?_, fun w hw => ⟨fun hk hb hd => ?_, fun hd hr => ?_, fun hd hr hk => ?_⟩⟩
  · rw [exec_ready r hi]
    unfold State.arrive
    rw [show (s.taking p d a v).classify a = .storage from hs]
    exact congrArg _ (State.refuse_accept _ _ _ _ _ _ _)
  · subst hd
    rw [exec_table r hi ha]
    unfold State.tableCycle
    rw [if_neg hp]
    exact congrArg _ (State.refuse_accept _ _ _ _ _ _ _)
  · subst hd
    have ht : (s.taking p .write a v).takeWordWrite w .write a = true := by
      unfold State.takeWordWrite
      rw [show (s.taking p .write a v).windows = s.windows from rfl, hk, hb, Nat.add_sub_cancel_left]
      rfl
    rw [exec_window r hi hw, State.windowCycle_takeWord _ ht, State.refuse_accept]
  · subst hd
    have ht : (s.taking p .read a v).takeWordWrite w .read a = false := State.takeWordWrite_false fun e => nomatch e
    rw [exec_window r hi hw, State.windowCycle_noRight _ ht hr, State.refuse_accept]
    rfl
  · subst hd
    have ht : (s.taking p .write a v).takeWordWrite w .write a = false := State.takeWordWrite_false fun _ => hk
    rw [exec_window r hi hw, State.windowCycle_noRight _ ht hr, State.refuse_accept]
    rfl

/-! ## O16 -/

/-- A cycle outside every range that is more than memory passes on as it is (R16). -/
theorem exec_memory {i : Instr} {p : PortId} {d : Dir} {a : Addr} {v : Word} {s : State} (r : s.ready p)
    (h : cycleOf i = some (p, d, a, v)) (hm : s.classify a = .memory) :
    exec i s = .next (s.requested p d a v .memory (portRequest p (singleKind d v) a none)) := by
  rw [exec_ready r h]
  unfold State.arrive
  rw [show (s.taking p d a v).classify a = .memory from hm]
  exact congrArg _ (State.toMemory_accept _ _ _ _ _ _ _ _)

/-- A read of the table area passes on (R10). -/
theorem exec_table_read {i : Instr} {p : PortId} {a : Addr} {v : Word} {s : State} (r : s.ready p)
    (h : cycleOf i = some (p, .read, a, v)) (ha : 0x3FE00 ≤ a.toNat) :
    exec i s = .next (s.requested p .read a v .memory (portRequest p .read a none)) := by
  rw [exec_table r h ha]
  exact congrArg _ (State.toMemory_accept _ _ _ _ _ _ _ _)

/-- A table word that is memory alone (R152). -/
theorem tableWordOf_plain {n : Nat} (h : 4 ≤ n ∧ n < 16 ∨ 0x120 ≤ n) : tableWordOf n = .plain := by
  unfold tableWordOf
  rw [dif_neg (by omega)]
  rcases h with h | h
  · rw [if_pos (by omega)]
  · rw [if_neg (by omega), if_neg (by omega), if_neg (by omega), if_neg (by omega), if_neg (by omega)]

/-- A window that passes the cycle on: PLAIN (R13). -/
theorem State.rightfulCycle_plain {s : State} {p : PortId} {w : WinId} (d : Dir) (a : Addr) (v : Word)
    (h : s.windows[w].ctl.winKind = some .plain) : s.rightfulCycle p w d a v = s.toMemory p (singleKind d v) a none := by
  unfold State.rightfulCycle
  rw [h]

/-- A window that passes the cycle on with its watch values: WATCH (R13, R23). -/
theorem State.rightfulCycle_watch {s : State} {p : PortId} {w : WinId} (d : Dir) (a : Addr) (v : Word)
    (h : s.windows[w].ctl.winKind = some .watch) : s.rightfulCycle p w d a v = s.watchCycle p w d a v := by
  unfold State.rightfulCycle
  rw [h]

/-- A rightful cycle through a window that is not a RING window. -/
theorem exec_window_rightful {i : Instr} {p : PortId} {d : Dir} {a : Addr} {v : Word} {s : State} (r : s.ready p)
    (h : cycleOf i = some (p, d, a, v)) {w : WinId} (hw : s.classify a = .window w)
    (hk : s.windows[w].ctl.winKind ≠ some .ring) (hr : hasRight s.windows[w].data p d = true) :
    exec i s = .next ((s.taking p d a v).rightfulCycle p w d a v) := by
  have ht : (s.taking p d a v).takeWordWrite w d a = false := State.takeWordWrite_false fun _ e => absurd e hk
  rw [exec_window r h hw, State.windowCycle_rightful _ ht hr]

/-- A rightful cycle through a PLAIN window becomes a request (R13, R16). -/
theorem exec_plain {i : Instr} {p : PortId} {d : Dir} {a : Addr} {v : Word} {s : State} (r : s.ready p)
    (h : cycleOf i = some (p, d, a, v)) {w : WinId} (hw : s.classify a = .window w)
    (hk : s.windows[w].ctl.winKind = some .plain) (hr : hasRight s.windows[w].data p d = true) :
    exec i s = .next (s.requested p d a v .memory (portRequest p (singleKind d v) a none)) := by
  have hk' : (s.taking p d a v).windows[w].ctl.winKind = some .plain := hk
  rw [exec_window_rightful r h hw (by rw [hk]; decide) hr, State.rightfulCycle_plain _ _ _ hk', State.toMemory_accept]

/-- A rightful cycle through a WATCH window takes the window's values with it (R13, R23). -/
theorem exec_watch {i : Instr} {p : PortId} {d : Dir} {a : Addr} {v : Word} {s : State} (r : s.ready p)
    (h : cycleOf i = some (p, d, a, v)) {w : WinId} (hw : s.classify a = .window w)
    (hk : s.windows[w].ctl.winKind = some .watch) (hr : hasRight s.windows[w].data p d = true) :
    exec i s = .next ((s.taking p d a v).watchCycle p w d a v) := by
  have hk' : (s.taking p d a v).windows[w].ctl.winKind = some .watch := hk
  rw [exec_window_rightful r h hw (by rw [hk]; decide) hr, State.rightfulCycle_watch _ _ _ hk']

/-- Settles O16: a request at the cycle's own address, by what the address is classified to. -/
theorem passesToMemory : Obligations.PassesToMemory := by
  intro s p a v r
  refine ⟨fun hm => ⟨exec_memory r rfl hm, exec_memory r rfl hm⟩, fun ha => exec_table_read r rfl ha,
    fun hp ha => ?_, fun w hw hk => ⟨fun hr => exec_plain r rfl hw hk hr, fun hr => exec_plain r rfl hw hk hr⟩,
    fun w g hw hk hg => ?_⟩
  · have ht : tableWordOf (a.toNat - 0x3FE00) = .plain := tableWordOf_plain (by omega)
    rw [exec_table r rfl (by omega)]
    unfold State.tableCycle
    rw [if_pos hp, ht]
    exact congrArg _ (State.toMemory_accept _ _ _ _ _ _ _ _)
  · subst hg
    refine ⟨fun hr => ?_, fun hr => ?_⟩
    · rw [exec_watch (d := .read) r rfl hw hk hr]
      exact congrArg _ (State.toMemory_accept _ _ _ _ _ _ _ _)
    · rw [exec_watch (d := .write) r rfl hw hk hr]
      exact congrArg _ (State.toMemory_accept _ _ _ _ _ _ _ _)

end Sys2Proof.Machine

/-! PROOFS. The power-on values (O4), what the two resets leave (O6), and the layouts and pins (O17). -/

namespace Sys2Proof.Machine

/-! ## O4: one record of each block after power-on -/

theorem replicate_get {α : Type} {n : Nat} (x : α) (i : Fin n) : (Vector.replicate n x)[i] = x :=
  Vector.getElem_replicate i.isLt

theorem State.reset_port (p : PortId) : State.reset.ports[p] = Port.reset := replicate_get _ _
theorem State.reset_ctl (p : PortId) : State.reset.ctls[p] = Controller.reset := replicate_get _ _
theorem State.reset_header (n : Fin 4) : State.reset.header[n] = 0 := replicate_get _ _
theorem State.reset_window (w : WinId) : State.reset.windows[w] = WinEntry.reset := replicate_get _ _
theorem State.reset_rec (r : RingId) : State.reset.recs[r] = RingRec.reset := replicate_get _ _
theorem State.reset_lease (l : LockId) : State.reset.leases[l] = 0 := replicate_get _ _
theorem State.reset_ring (r : RingId) : State.reset.rings[r] = Ring.reset := replicate_get _ _
theorem State.reset_lock (l : LockId) : State.reset.locks[l] = Lock.reset := replicate_get _ _
theorem State.reset_chan (c : ChanId) : State.reset.chans[c] = Chan.reset := replicate_get _ _
theorem State.reset_req (q : Fin 5) : State.reset.reqs[q] = none := replicate_get _ _

theorem Controller.reset_slot (i : SlotId) : Controller.reset.slots[i] = Slot.empty := replicate_get _ _

/-- Settles O4: block by block, each record read out of the table of its kind. -/
theorem resetValues : Obligations.ResetValues := by
  refine ⟨rfl, rfl, rfl, rfl, rfl, rfl, rfl, fun p => ?_, State.reset_header, fun w => ?_, fun r => ?_, fun l => ?_,
    fun c => ?_, State.reset_req⟩
  · have hflag : ∀ n : Nat, bit (0 : Word) n = false := fun n => BitVec.getLsbD_zero
    have hauto : State.reset.autoEnd p = false := by
      unfold State.autoEnd
      rw [State.reset_header, hflag]
    have hrot : State.reset.rotating p = false := by
      unfold State.rotating
      rw [State.reset_header, hflag]
    have hoff : State.reset.pntfn p = false := by
      unfold State.pntfn
      rw [State.reset_port]
      rfl
    rw [State.reset_port, State.reset_ctl]
    refine ⟨rfl, rfl, rfl, rfl, rfl, rfl, rfl, rfl, rfl, hauto, hrot, hoff, fun i => ?_⟩
    rw [Controller.reset_slot]
    exact ⟨rfl, rfl⟩
  · rw [State.reset_window]
    exact ⟨rfl, rfl, fun k => ⟨replicate_get _ _, replicate_get _ _⟩⟩
  · have hdata : State.reset.dataCond r = false := by
      unfold State.dataCond
      rw [State.reset_rec]
      rfl
    rw [State.reset_rec, State.reset_ring]
    exact ⟨rfl, fun k => ⟨replicate_get _ _, replicate_get _ _⟩, rfl, rfl, rfl, rfl, rfl, rfl, rfl, rfl, rfl, hdata⟩
  · rw [State.reset_lease, State.reset_lock]
    exact ⟨rfl, rfl, rfl, rfl⟩
  · rw [State.reset_chan]
    exact ⟨rfl, rfl, rfl, rfl, rfl, rfl, rfl, rfl, rfl⟩

/-! ## O6: the resets -/

/-- A change of every port's record in turn, read port by port. -/
theorem foldl_upd_allPorts (v : Vector Port 4) (f : Port → Port) :
    allPorts.foldl (fun v p => upd v p f) v = Vector.ofFn fun p : PortId => f v[p] := by
  apply Vector.ext
  intro i hi
  have hp : ∀ p : Fin 4, (allPorts.foldl (fun v p => upd v p f) v)[p] = f v[p] := by
    intro p
    simp only [allPorts, List.foldl, upd_get]
    fin_cases p <;> rfl
  rw [Vector.getElem_ofFn]
  exact hp ⟨i, hi⟩

/-- The blocks after a part reset are those of power-on; what is not a block's is left (R22, R150, R166). -/
theorem State.resetBlocks_eq (s : State) : s.resetBlocks =
    { State.reset with
      part := s.part, ponn := s.ponn, rstn := s.rstn, kind := s.kind
      ports := Vector.ofFn fun p : PortId => (s.ports[p]).partReset
      inProg := s.inProg, fault := s.fault, mem := s.mem, powerOns := s.powerOns, freeUse := s.freeUse
      pending := s.pending } := by
  unfold State.resetBlocks
  rw [foldl_upd_allPorts]
  rfl

theorem Port.partReset_eq (pt : Port) : pt.partReset =
    { Port.reset with prstn := pt.prstn, last := if pt.cycle.isSome then some .abandoned else pt.last } := rfl

/-- PONN_LOW while the part works (R169). -/
theorem exec_ponnLow (s : State) (h : s.ponn = true) : exec .ponnLow s = .next { State.reset with
    rstn := s.rstn
    ports := Vector.ofFn fun p : PortId => { Port.reset with
      prstn := s.ports[p].prstn
      last := if s.ports[p].cycle.isSome then some .abandoned else s.ports[p].last }
    powerOns := s.powerOns + 1
    freeUse := s.freeUse
    pending := s.pending } := by
  show Host.Outcome.next s.powerDown = _
  unfold State.powerDown
  rw [if_pos h, State.resetBlocks_eq]
  rfl

/-- How a port's last cycle ended after a warm reset: P0's DROP_PORT write that waits has completed, but where P0 drops itself
with its PRSTN low; another cycle is abandoned (R173, R174, R9, log 30). -/
def State.lastAfterWarm (s : State) (p : PortId) : Option CycleEnd :=
  match s.ports[p].cycle with
  | none => s.ports[p].last
  | some c => (match c.wait with
    | .control n => if p = 0 ∧ (n ≠ 0 ∨ s.ports[p].prstn = true) then some .write else some .abandoned
    | _ => some .abandoned)

theorem State.lastAfterWarm_none {s : State} {p : PortId} (h : s.ports[p].cycle = none) :
    s.lastAfterWarm p = s.ports[p].last := by
  unfold State.lastAfterWarm
  rw [h]

theorem State.lastAfterWarm_write {s : State} {c : Cycle} {n : PortId} (h : s.ports[(0 : PortId)].cycle = some c)
    (hw : c.wait = .control n) (hn : n ≠ 0 ∨ s.ports[(0 : PortId)].prstn = true) :
    s.lastAfterWarm 0 = some .write := by
  unfold State.lastAfterWarm
  rw [h]
  dsimp only
  rw [hw]
  exact if_pos ⟨rfl, hn⟩

theorem State.lastAfterWarm_abandoned {s : State} {p : PortId} {c : Cycle} (h : s.ports[p].cycle = some c)
    (hn : ∀ n : PortId, c.wait = .control n → ¬(p = 0 ∧ (n ≠ 0 ∨ s.ports[p].prstn = true))) :
    s.lastAfterWarm p = some .abandoned := by
  simp only [State.lastAfterWarm, h]
  split
  · next n hw => exact if_neg (hn n hw)
  · rfl

/-- The two cases of the DROP_PORT write at a warm reset (R174, R9, log 30). -/
theorem State.endTakenDrop_cases (s : State) :
    (s.endTakenDrop = s.completeWrite 0 ∧ ∃ (c : Cycle) (n : PortId), s.ports[(0 : PortId)].cycle = some c ∧
      c.wait = .control n ∧ (n ≠ 0 ∨ s.ports[(0 : PortId)].prstn = true)) ∨
    (s.endTakenDrop = s ∧ ∀ (c : Cycle) (n : PortId), s.ports[(0 : PortId)].cycle = some c → c.wait = .control n →
      ¬(n ≠ 0 ∨ s.ports[(0 : PortId)].prstn = true)) := by
  unfold State.endTakenDrop
  split
  · next c hc =>
    split
    · next n hw =>
      split
      · next hn =>
        refine .inr ⟨rfl, fun d m hd hm => ?_⟩
        cases hc.symm.trans hd
        cases hw.symm.trans hm
        rintro (h | h)
        · exact h hn.1
        · exact Bool.false_ne_true (hn.2.symm.trans h)
      · next hn =>
        refine .inl ⟨rfl, c, n, hc, hw, ?_⟩
        rw [not_and_or, Bool.not_eq_false] at hn
        exact hn
    · next hw =>
      refine .inr ⟨rfl, fun d m hd hm => ?_⟩
      cases hc.symm.trans hd
      exact absurd hm (hw m)
  · next hc => exact .inr ⟨rfl, fun d m hd => nomatch hc.symm.trans hd⟩

/-- A port whose cycle the reset finds in progress, or that has none. -/
theorem State.partReset_of_kept {s : State} {p : PortId} (h : ∀ (c : Cycle) (n : PortId), s.ports[p].cycle = some c →
    c.wait = .control n → ¬(p = 0 ∧ (n ≠ 0 ∨ s.ports[p].prstn = true))) :
    (s.ports[p]).partReset = { Port.reset with prstn := s.ports[p].prstn, last := s.lastAfterWarm p } := by
  rw [Port.partReset_eq]
  cases hc : s.ports[p].cycle with
  | none =>
    rw [State.lastAfterWarm_none hc]
    rfl
  | some c =>
    rw [State.lastAfterWarm_abandoned hc fun n => h c n hc]
    rfl

/-- What the completion of the DROP_PORT write and the abandonment of the cycles leave in a port's record. -/
theorem State.endTakenDrop_partReset (s : State) (p : PortId) : (s.endTakenDrop.ports[p]).partReset =
    { Port.reset with prstn := s.ports[p].prstn, last := s.lastAfterWarm p } := by
  rcases s.endTakenDrop_cases with ⟨e, c, n, hc, hw, hn⟩ | ⟨e, hn⟩
  · rw [e]
    by_cases hp : p = 0
    · subst hp
      have hpt : (s.completeWrite 0).ports[(0 : PortId)] =
          { s.ports[(0 : PortId)] with cycle := none, last := some .write, pd := none } := by
        show (State.modPort s 0 _).ports[(0 : PortId)] = _
        rw [State.modPort_port_same, hc]
      rw [hpt, State.lastAfterWarm_write hc hw hn]
      rfl
    · have hpt : (s.completeWrite 0).ports[p] = s.ports[p] := State.modPort_port_other _ _ fun h => hp h.symm
      rw [hpt]
      exact State.partReset_of_kept fun c n _ _ h => hp h.1
  · rw [e]
    refine State.partReset_of_kept fun c n hc hw h => ?_
    obtain ⟨rfl, hp⟩ := h
    exact hn c n hc hw hp

theorem State.endTakenDrop_eq (s : State) : s.endTakenDrop = { s with ports := s.endTakenDrop.ports } := by
  rcases s.endTakenDrop_cases with ⟨e, _⟩ | ⟨e, _⟩ <;> rw [e]
  rfl

/-- The warm reset as one state (R173). -/
theorem State.warmReset_eq (s : State) : s.warmReset = { State.reset with
    part := .sweep
    kind := .warm
    ponn := s.ponn
    rstn := s.rstn
    ports := Vector.ofFn fun p : PortId => { Port.reset with prstn := s.ports[p].prstn, last := s.lastAfterWarm p }
    inProg := s.inProg.map (·.stale)
    fault := if s.inProg.isSome then s.fault else none
    mem := s.mem
    powerOns := s.powerOns
    freeUse := s.freeUse
    pending := s.pending } := by
  have hp : (fun p : PortId => (s.endTakenDrop.ports[p]).partReset) = fun p : PortId =>
      { Port.reset with prstn := s.ports[p].prstn, last := s.lastAfterWarm p } := funext s.endTakenDrop_partReset
  unfold State.warmReset
  rw [State.resetBlocks_eq, hp, s.endTakenDrop_eq]

/-- Settles O6: PONN_LOW and RSTN_LOW, the warm reset by `State.warmReset_eq`. -/
theorem resetsTaken : Obligations.ResetsTaken := by
  refine ⟨fun s => ⟨fun h => ?_, exec_ponnLow s⟩, fun s => ⟨fun h => ?_, fun h hp => ?_, fun h hp => ?_⟩⟩
  · show Host.Outcome.next s.powerDown = _
    unfold State.powerDown
    rw [h]
    rfl
  · show Host.Outcome.next s.rstnFalls = _
    unfold State.rstnFalls
    rw [h]
    rfl
  · show Host.Outcome.next s.rstnFalls = _
    unfold State.rstnFalls
    rw [if_pos h, if_pos hp]
  · show Host.Outcome.next s.rstnFalls = _
    unfold State.rstnFalls
    rw [if_pos h, if_neg hp, State.warmReset_eq]
    rfl

end Sys2Proof.Machine

/-! PROOFS. The layouts and codes of file 10 and the pins of the memory port (O17). -/

namespace Sys2Proof.Machine

/-! ## Fields of a word -/

theorem field_eq (w : Word) (lo n : Nat) : field w lo n = w.toNat / 2 ^ lo % 2 ^ n := rfl

/-- The window words (Table 11-9). -/
theorem winWords_eq (d : Vector Word 3) :
    (winTarget d).val = (d[(2 : Fin 3)]).toNat / 4096 % 4 ∧
      winBase d = (d[(2 : Fin 3)]).toNat % 4 * 65536 + (d[(0 : Fin 3)]).toNat := by
  constructor
  · show field d[(2 : Fin 3)] 12 2 % 4 = _
    rw [field_eq]
    omega
  · show field d[(2 : Fin 3)] 0 2 * 65536 + _ = _
    rw [field_eq]
    omega

/-- A field that is kept in as many bits as it has. -/
theorem field_ofNat_toNat (w : Word) (lo n : Nat) : (BitVec.ofNat n (field w lo n)).toNat = w.toNat / 2 ^ lo % 2 ^ n := by
  rw [BitVec.toNat_ofNat, field_eq, Nat.mod_mod]

/-- The control fields of a control word (Table 11-9). -/
theorem winCtlOf_fields (v : Word) : (winCtlOf v).kind.toNat = v.toNat % 8 ∧ (winCtlOf v).link.toNat = v.toNat / 16 % 16 ∧
    (winCtlOf v).count.toNat = v.toNat / 256 % 32 := by
  refine ⟨?_, field_ofNat_toNat v 4 4, field_ofNat_toNat v 8 5⟩
  have h : (winCtlOf v).kind.toNat = v.toNat / 2 ^ 0 % 2 ^ 3 := field_ofNat_toNat v 0 3
  rw [h]
  omega

/-- The kind codes of a window (Table 11-9). -/
theorem WinCtl.winKind_eq (c : WinCtl) : c.winKind = if c.kind = 1 then some .plain else if c.kind = 2 then some .watch
    else if c.kind = 3 then some .ring else if c.kind = 4 then some .lock else if c.kind = 5 then some .channel
    else .none := by
  have h : ∀ k : BitVec 3, ({ WinCtl.none with kind := k } : WinCtl).winKind = if k = 1 then some .plain
      else if k = 2 then some .watch else if k = 3 then some .ring else if k = 4 then some .lock
      else if k = 5 then some .channel else .none := by decide
  exact h c.kind

/-- The fields of a ring record (Table 11-9). -/
theorem RingRec.fields_eq (k : RingRec) : k.base = (k.data[(1 : Fin 7)]).toNat % 4 * 65536 + (k.data[(0 : Fin 7)]).toNat ∧
    k.entrySize = (k.data[(1 : Fin 7)]).toNat / 16 % 8 ∧ k.policy = (k.data[(5 : Fin 7)]).toNat % 4 ∧
    k.consumer.val = (k.data[(6 : Fin 7)]).toNat % 4 ∧ k.producer.val = (k.data[(6 : Fin 7)]).toNat / 16 % 4 := by
  refine ⟨?_, rfl, ?_, ?_, ?_⟩
  · show field k.data[(1 : Fin 7)] 0 2 * 65536 + _ = _
    rw [field_eq]
    omega
  · show field k.data[(5 : Fin 7)] 0 2 = _
    rw [field_eq]
    omega
  · show field k.data[(6 : Fin 7)] 0 2 % 4 = _
    rw [field_eq]
    omega
  · show field k.data[(6 : Fin 7)] 4 2 % 4 = _
    rw [field_eq]
    omega

/-! ## Binding words -/

/-- The index that a source carries; 0 where its kind has none (R36). -/
def Source.index : Source → Nat
  | .watch w => w.val
  | .ringData r => r.val
  | .ringSpace r => r.val
  | .ringFault r => r.val
  | .chanDone c => c.val
  | .chanMark c => c.val
  | .signal p => p.val
  | _ => 0

/-- A source names its own kind code and index (R163). -/
theorem sourceOf_some {kind idx : Nat} {src : Source} (h : sourceOf kind idx = .ok (some src)) :
    src.code = kind ∧ src.index = idx := by
  unfold sourceOf at h
  repeat' split at h
  all_goals cases h
  all_goals first | exact ⟨rfl, rfl⟩ | exact ⟨rfl, Eq.symm ‹_›⟩

/-- A binding is named by its source and its level (R163 checks 1 and 2). -/
theorem bindingOf_some {v : Word} {b : Binding} : bindingOf v = .ok (some b) ↔
    sourceOf (field v 8 4) (field v 0 5) = .ok (some b.source) ∧ b.level = levelOf v := by
  unfold bindingOf
  constructor
  · intro h
    split at h
    · cases h
    · next src e =>
      cases h
      exact ⟨e, rfl⟩
    · cases h
  · rintro ⟨h, hl⟩
    rw [h]
    dsimp only
    rw [← hl]

theorem levelOf_val (v : Word) : (levelOf v).val = v.toNat / 4096 % 4 := by
  show field v 12 2 % 4 = _
  rw [field_eq]
  omega

theorem bindingOf_fields {v : Word} {b : Binding} (h : bindingOf v = .ok (some b)) :
    b.level.val = v.toNat / 4096 % 4 ∧ b.source.code = v.toNat / 256 % 16 ∧ b.source.index = v.toNat % 32 := by
  obtain ⟨hs, hl⟩ := bindingOf_some.1 h
  obtain ⟨hc, hi⟩ := sourceOf_some hs
  refine ⟨hl ▸ levelOf_val v, hc, hi.trans ?_⟩
  rw [field_eq]
  omega

/-! ## MODE -/

/-- The MODE codes of the operation (Table 11-7). -/
theorem Desc.op_eq (d : Desc) : d.op =
    [none, some .copy, some .verify, some .fill, some .sum, some .feed, none, none].getD (d.mode.toNat % 8) none := by
  have hm : field d.mode 0 3 = d.mode.toNat % 8 := by rw [field_eq]; omega
  unfold Desc.op
  rw [hm]
  have hlt : d.mode.toNat % 8 < 8 := Nat.mod_lt _ (by decide)
  generalize d.mode.toNat % 8 = m at hlt
  interval_cases m <;> rfl

/-- The MODE codes of the mark interval (Table 11-7). -/
theorem Desc.mark_eq (d : Desc) : d.mark =
    [some 0, some 16, some 32, some 64, some 128, some 256, none, none].getD (d.mode.toNat / 4096 % 8) none := by
  unfold Desc.mark
  rw [show field d.mode 12 3 = d.mode.toNat / 4096 % 8 from rfl]
  have hlt : d.mode.toNat / 4096 % 8 < 8 := Nat.mod_lt _ (by decide)
  generalize d.mode.toNat / 4096 % 8 = m at hlt
  interval_cases m <;> rfl

/-- A word is 0 exactly where its number is. -/
theorem word_toNat_eq_zero (w : Word) : w.toNat = 0 ↔ w = 0 :=
  ⟨fun h => BitVec.eq_of_toNat_eq h, fun h => h ▸ rfl⟩

/-- The ring that DATA names (section 11.2). -/
theorem Desc.ring_eq_some (d : Desc) (r : RingId) : d.ring = some r ↔ d.data.toNat = r.val := by
  unfold Desc.ring
  split
  · next h =>
    rw [Option.some.injEq, Fin.ext_iff]
  · next h => exact ⟨fun e => (nomatch e), fun e => absurd (e.symm ▸ r.isLt) h⟩

/-! ## Pins -/

/-- The pins while an access is in progress, by whether it writes (R137, R142). -/
theorem State.pins_of_access {s : State} {x : Access} (h : s.inProg = some x) : s.ma = some x.req.addr ∧
    s.moen = x.writing.isNone ∧ s.mwen = x.writing.isSome ∧ s.md = x.writing ∧ s.mdp = x.writing.map parityFor := by
  unfold State.ma State.moen State.mwen State.mdp State.md
  rw [h]
  exact ⟨rfl, rfl, rfl, rfl, rfl⟩

theorem Access.writing_of_write {x : Access} {v : Word}
    (h : x.req.kind = .write v ∨ x.req.kind = .pair v ∧ x.old.isSome = true) : x.writing = some v := by
  unfold Access.writing
  rcases h with h | ⟨h, ho⟩
  · rw [h]
  · rw [h]
    exact if_pos ho

theorem Access.writing_of_read {x : Access} (h : x.req.kind = .read ∨ ∃ v, x.req.kind = .pair v ∧ x.old = none) :
    x.writing = none := by
  unfold Access.writing
  rcases h with h | ⟨v, h, ho⟩
  · rw [h]
  · rw [h, ho]
    rfl

/-- An access that reads drives nothing on MD and MDP. -/
theorem State.pins_reading {s : State} {x : Access} (h : s.inProg = some x) (hw : x.writing = none) :
    s.moen = true ∧ s.mwen = false ∧ s.md = none ∧ s.mdp = none := by
  obtain ⟨-, h1, h2, h3, h4⟩ := State.pins_of_access h
  rw [h1, h2, h3, h4, hw]
  exact ⟨rfl, rfl, rfl, rfl⟩

/-- An access that writes drives its word and the parity bit. -/
theorem State.pins_writing {s : State} {x : Access} {v : Word} (h : s.inProg = some x) (hw : x.writing = some v) :
    s.moen = false ∧ s.mwen = true ∧ s.md = some v ∧ s.mdp = some (parityFor v) := by
  obtain ⟨-, h1, h2, h3, h4⟩ := State.pins_of_access h
  rw [h1, h2, h3, h4, hw]
  exact ⟨rfl, rfl, rfl, rfl⟩

/-- Settles O17: table by table, each layout by the lemma about its fields. -/
theorem layoutsAndPins : Obligations.LayoutsAndPins := by
  refine ⟨fun s p => ⟨rfl, rfl, rfl, rfl, rfl⟩, fun d p => ⟨rfl, rfl, (winWords_eq d).1, (winWords_eq d).2, rfl⟩,
    fun v => ?_, WinCtl.winKind_eq, fun k => ?_, fun v b h => ?_, fun d => ?_, fun a b c d e f g => rfl, fun k => rfl,
    ⟨rfl, rfl, rfl, rfl, fun w r c p => rfl, fun p c => ⟨rfl, rfl⟩⟩, fun s => ⟨fun p => rfl, State.pins_idle, ?_⟩⟩
  · obtain ⟨hk, hl, hc⟩ := winCtlOf_fields v
    exact ⟨hk, hl, hc, rfl, rfl, rfl⟩
  · obtain ⟨hb, he, hp, hc, hq⟩ := k.fields_eq
    exact ⟨hb, he, rfl, rfl, rfl, hp, hc, hq, fun i j => rfl⟩
  · obtain ⟨hl, hc, hi⟩ := bindingOf_fields h
    refine ⟨hl, hc, Eq.trans ?_ hi⟩
    cases b.source <;> rfl
  · refine ⟨d.op_eq, rfl, rfl, rfl, d.mark_eq, ?_, d.ring_eq_some⟩
    simp only [Desc.length, word_toNat_eq_zero]
  · intro x hx
    refine ⟨(State.pins_of_access hx).1, fun hk => ?_, fun v hk => ?_, fun v hk ho => ?_⟩
    · exact State.pins_reading hx (Access.writing_of_read (.inl hk))
    · exact State.pins_writing hx (Access.writing_of_write hk)
    · exact State.pins_reading hx (Access.writing_of_read (.inr ⟨v, hk, ho⟩))

end Sys2Proof.Machine

/-! PROOFS. Completed accesses: what the watch unit and the parity check make of one before its result passes on, a port's
access (O19), and the accesses whose result nobody takes (O10). -/

namespace Sys2Proof.Machine

/-! ## Deliveries change controllers alone -/

theorem State.deliver_eq (s : State) (p : PortId) (src : Source) (d : Word) :
    s.deliver p src d = { s with ctls := (s.deliver p src d).ctls } := by
  unfold State.deliver
  split
  · split <;> rfl
  · rfl

@[simp] theorem State.deliver_ports (s : State) (p : PortId) (src : Source) (d : Word) :
    (s.deliver p src d).ports = s.ports := by rw [State.deliver_eq]

@[simp] theorem State.reportParity_ports (s : State) (a : Addr) (c : Nat) : (s.reportParity a c).ports = s.ports :=
  State.deliver_ports _ _ _ _

@[simp] theorem State.reportParity_rings (s : State) (a : Addr) (c : Nat) : (s.reportParity a c).rings = s.rings :=
  State.deliver_rings _ _ _ _

/-! ## Ends of cycles (R2) -/

/-- What a port drives on PD after a cycle with this end (R2). -/
def CycleEnd.pd (e : CycleEnd) (strobe : Bool) : Option Word :=
  match e with
  | .read w => if strobe then some w else none
  | .write => none
  | .abandoned => none

/-- A cycle in progress comes to its end. -/
theorem State.completeCycle_of_cycle {s : State} {p : PortId} {c : Cycle} (h : s.ports[p].cycle = some c) (e : CycleEnd) :
    s.completeCycle p e = s.modPort p fun pt => { pt with cycle := none, last := some e, pd := e.pd c.strobe } := by
  unfold State.completeCycle
  refine State.modPort_congr _ _ ?_
  rw [h]
  cases e <;> rfl

theorem State.completeRead_of_cycle {s : State} {p : PortId} {c : Cycle} (h : s.ports[p].cycle = some c) (w : Word) :
    s.completeRead p w = s.modPort p fun pt => { pt with
      cycle := none, last := some (.read w), pd := if c.strobe then some w else none } :=
  State.completeCycle_of_cycle h _

theorem State.completeWrite_of_cycle {s : State} {p : PortId} {c : Cycle} (h : s.ports[p].cycle = some c) :
    s.completeWrite p = s.modPort p fun pt => { pt with cycle := none, last := some .write, pd := none } :=
  State.completeCycle_of_cycle h _

/-! ## The completion of a granted access, up to its result (R137, R143, R25 to R27) -/

theorem State.completeAccess_of_port {s : State} {x : Access} {p : PortId} (h : s.inProg = some x)
    (hi : x.req.issuer = .port p) (u : Upset) : s.completeAccess u = s.grantedDone x u := by
  unfold State.completeAccess
  rw [h]
  dsimp only
  rw [hi]

theorem State.completeAccess_of_ring {s : State} {x : Access} {r : RingId} (h : s.inProg = some x)
    (hi : x.req.issuer = .ring r) (u : Upset) : s.completeAccess u = s.grantedDone x u := by
  unfold State.completeAccess
  rw [h]
  dsimp only
  rw [hi]

theorem State.completeAccess_of_chan {s : State} {x : Access} {c : ChanId} {y : ChanStep} (h : s.inProg = some x)
    (hi : x.req.issuer = .chan c y) (u : Upset) : s.completeAccess u = s.grantedDone x u := by
  unfold State.completeAccess
  rw [h]
  dsimp only
  rw [hi]

theorem State.completeAccess_of_stale {s : State} {x : Access} (h : s.inProg = some x)
    (hi : x.req.issuer = .stale) (u : Upset) : s.completeAccess u = s.staleDone x u := by
  unfold State.completeAccess
  rw [h]
  dsimp only
  rw [hi]

/-- A read whose bits are not upset leaves the memory; a write stores its word with good parity. -/
theorem State.memEffect_read (s : State) {q : Request} (h : q.kind = .read) : s.memEffect q 0 = s := by
  unfold State.memEffect
  rw [h]
  exact s.memUpset_zero _

theorem State.memEffect_write (s : State) {q : Request} {v : Word} (h : q.kind = .write v ∨ q.kind = .pair v) (u : Upset) :
    s.memEffect q u = { s with mem := Mem.set s.mem q.addr.toNat (goodCell v) } := by
  unfold State.memEffect
  rcases h with h | h <;> rw [h] <;> rfl

/-- After the judgement of a read its word passes to the issuer (R137, R143). -/
theorem State.grantedDone_of_readJudged {s t : State} {x : Access} (h : ReadJudged s x t) :
    s.grantedDone x 0 = t.passResult x.req (s.cellAt x.req.addr).word (s.cellAt x.req.addr).bad := by
  obtain ⟨u, rfl, hk, ht⟩ := h
  have hb : ({ s with inProg := none } : State).readBack x = ((s.cellAt x.req.addr).word, (s.cellAt x.req.addr).bad) := by
    unfold State.readBack
    rw [hk]
    rfl
  unfold State.grantedDone
  dsimp only
  rw [State.memEffect_read _ hk, hb]
  congr 1
  unfold State.judge State.reportIf
  rcases ht with ⟨hw, rfl⟩ | ⟨g, hw, rfl⟩
  · rw [hw]
  · rw [hw, hk]
    rfl

/-- After the judgement of a write its word passes to the issuer (R137). -/
theorem State.grantedDone_of_writeJudged {s t : State} {x : Access} {v : Word} (h : WriteJudged s x v t) (u : Upset) :
    ∃ bad : Bool, s.grantedDone x u = t.passResult x.req v bad := by
  obtain ⟨w, rfl, ⟨hk, hw, rfl⟩ | ⟨g, hk, hw, rfl⟩ | ⟨g, o, bad, hk, hw, ho, rfl⟩⟩ := h
  · refine ⟨false, ?_⟩
    unfold State.grantedDone
    dsimp only
    rw [State.memEffect_write _ (.inl hk)]
    unfold State.readBack
    rw [hk, hw]
    rfl
  · refine ⟨false, ?_⟩
    unfold State.grantedDone
    dsimp only
    rw [State.memEffect_write _ (.inl hk)]
    unfold State.readBack
    rw [hk, hw]
    rfl
  · refine ⟨bad, ?_⟩
    unfold State.grantedDone
    dsimp only
    rw [State.memEffect_write _ (.inr hk)]
    unfold State.readBack
    rw [hk, hw, ho]
    dsimp only
    congr 1
    cases bad with
    | true => rfl
    | false =>
      show (if (false || decide (o ≠ v)) = true then _ else _) = _
      by_cases e : o = v
      · simp [e, State.reportIf]
      · simp [e, State.reportIf]

/-- What has been judged changes neither ports nor rings. -/
theorem ReadJudged.frame {s t : State} {x : Access} (h : ReadJudged s x t) : t.ports = s.ports ∧ t.rings = s.rings := by
  obtain ⟨u, rfl, -, ht⟩ := h
  have hu : (if (s.cellAt x.req.addr).bad then ({ s with inProg := none } : State).reportParity x.req.addr x.req.code
      else { s with inProg := none }).ports = s.ports ∧
      (if (s.cellAt x.req.addr).bad then ({ s with inProg := none } : State).reportParity x.req.addr x.req.code
      else { s with inProg := none }).rings = s.rings := by
    split
    · exact ⟨State.reportParity_ports _ _ _, State.reportParity_rings _ _ _⟩
    · exact ⟨rfl, rfl⟩
  rcases ht with ⟨-, rfl⟩ | ⟨g, -, rfl⟩
  · exact hu
  · split
    · rw [State.deliver_ports, State.deliver_rings]
      exact hu
    · exact hu

theorem WriteJudged.frame {s t : State} {x : Access} {v : Word} (h : WriteJudged s x v t) :
    t.ports = s.ports ∧ t.rings = s.rings := by
  obtain ⟨w, rfl, ⟨-, -, rfl⟩ | ⟨g, -, -, rfl⟩ | ⟨g, o, bad, -, -, -, rfl⟩⟩ := h
  · exact ⟨rfl, rfl⟩
  · split
    · exact ⟨State.deliver_ports _ _ _ _, State.deliver_rings _ _ _ _⟩
    · exact ⟨rfl, rfl⟩
  · repeat' split
    · rw [State.deliver_ports, State.deliver_rings, State.reportParity_ports, State.reportParity_rings]
      exact ⟨rfl, rfl⟩
    · exact ⟨State.deliver_ports _ _ _ _, State.deliver_rings _ _ _ _⟩
    · exact ⟨rfl, rfl⟩

theorem WriteJudged.kind {s t : State} {x : Access} {v : Word} (h : WriteJudged s x v t) :
    x.req.kind = .write v ∨ x.req.kind = .pair v := by
  obtain ⟨w, -, ⟨hk, -, -⟩ | ⟨g, hk, -, -⟩ | ⟨g, o, bad, hk, -, -, -⟩⟩ := h
  · exact .inl hk
  · exact .inl hk
  · exact .inr hk

theorem ReadJudged.kind {s t : State} {x : Access} (h : ReadJudged s x t) : x.req.kind = .read := by
  obtain ⟨u, -, hk, -⟩ := h
  exact hk

/-- How the port's cycle ends with its access (R16, R79). -/
theorem State.portDone_read (s : State) (p : PortId) (w : Word) : s.portDone p .read w = s.completeCycle p (.read w) := rfl

theorem State.portDone_write (s : State) (p : PortId) {k : AccKind} {v : Word} (h : k = .write v ∨ k = .pair v) (w : Word) :
    s.portDone p k w = s.completeCycle p .write := by
  rcases h with rfl | rfl <;> rfl

/-! ## Parity as a count of ones (R142, R143) -/

theorem foldl_xor_range (f : Nat → Bool) (n : Nat) :
    (List.range n).foldl (fun b i => xor b (f i)) false = decide ((List.range n).countP f % 2 = 1) := by
  induction n with
  | zero => rfl
  | succ n ih =>
    rw [List.range_succ, List.foldl_append, List.countP_append, ih]
    simp only [List.foldl, List.countP_cons, List.countP_nil]
    generalize (List.range n).countP f = k
    cases f n
    · simp
    · simp only [Bool.xor_true, if_true, ← decide_not, decide_eq_decide]
      omega

theorem oddOnes_eq (w : Word) : oddOnes w = decide ((List.range 16).countP (fun i => w.getLsbD i) % 2 = 1) :=
  foldl_xor_range _ _

/-- The stored bit makes the number of ones odd (R142). -/
theorem parityFor_odd (v : Word) :
    ((List.range 16).countP (fun i => v.getLsbD i) + (if parityFor v then 1 else 0)) % 2 = 1 := by
  unfold parityFor
  rw [oddOnes_eq]
  split
  · next h =>
    rw [Bool.not_eq_true', decide_eq_false_iff_not] at h
    omega
  · next h =>
    rw [Bool.not_eq_true', decide_eq_false_iff_not, not_not] at h
    omega

/-- A cell fails the check exactly where its number of ones is even (R143). -/
theorem MemCell.bad_iff (c : MemCell) : c.bad = true ↔
    ((List.range 16).countP (fun i => c.word.getLsbD i) + (if c.par then 1 else 0)) % 2 = 0 := by
  unfold MemCell.bad
  rw [oddOnes_eq]
  cases c.par
  · simp
  · simp
    omega

/-! ## O19 -/

/-- A port's completed access that nobody has abandoned completes the port's cycle. -/
theorem State.passResult_port {s : State} {q : Request} {p : PortId} (hi : q.issuer = .port p) (ha : q.abandoned = false)
    (w : Word) (bad : Bool) : s.passResult q w bad = s.portDone p q.kind w := by
  unfold State.passResult
  rw [hi]
  dsimp only
  rw [ha]
  rfl

/-- MEMORY_ACCESS_COMPLETE of a port's read whose judgement leaves `t`. -/
theorem exec_portRead {s t : State} {x : Access} {p : PortId} {c : Cycle} (h : s.inProg = some x)
    (hi : x.req.issuer = .port p) (ha : x.req.abandoned = false) (hc : s.ports[p].cycle = some c) (hj : ReadJudged s x t) :
    exec (.memoryAccessComplete 0) s = .next (t.modPort p fun pt => { pt with
      cycle := none
      last := some (.read (s.cellAt x.req.addr).word)
      pd := if c.strobe then some (s.cellAt x.req.addr).word else none }) := by
  have hp : t.ports[p].cycle = some c := by rw [hj.frame.1]; exact hc
  show Host.Outcome.next (s.completeAccess 0) = _
  rw [State.completeAccess_of_port h hi, State.grantedDone_of_readJudged hj, State.passResult_port hi ha, hj.kind]
  exact congrArg _ (State.completeRead_of_cycle hp _)

/-- MEMORY_ACCESS_COMPLETE of a port's write whose judgement leaves `t`. -/
theorem exec_portWrite {s t : State} {x : Access} {p : PortId} {c : Cycle} {v : Word} (h : s.inProg = some x)
    (hi : x.req.issuer = .port p) (ha : x.req.abandoned = false) (hc : s.ports[p].cycle = some c) (hj : WriteJudged s x v t)
    (u : Upset) : exec (.memoryAccessComplete u) s =
      .next (t.modPort p fun pt => { pt with cycle := none, last := some .write, pd := none }) := by
  have hp : t.ports[p].cycle = some c := by rw [hj.frame.1]; exact hc
  obtain ⟨bad, hg⟩ := State.grantedDone_of_writeJudged hj u
  show Host.Outcome.next (s.completeAccess u) = _
  rw [State.completeAccess_of_port h hi, hg, State.passResult_port hi ha, State.portDone_write _ _ hj.kind]
  exact congrArg _ (State.completeWrite_of_cycle hp)

/-- Settles O19: the judgement of an unwatched access is its parity report alone. -/
theorem portAccessCompletes : Obligations.PortAccessCompletes := by
  refine ⟨fun s x p c h hi hk hw ha hc => ⟨fun hb => ?_, fun hb => ?_⟩, fun s x p c v u h hi hk hw ha hc => ?_,
    parityFor_odd, MemCell.bad_iff⟩
  · refine exec_portRead h hi ha hc ⟨_, rfl, hk, .inl ⟨hw, ?_⟩⟩
    rw [hb]
    rfl
  · refine exec_portRead h hi ha hc ⟨_, rfl, hk, .inl ⟨hw, ?_⟩⟩
    rw [hb]
    rfl
  · exact exec_portWrite h hi ha hc ⟨_, rfl, .inl ⟨hk, hw, rfl⟩⟩ u

/-! ## O10 -/

/-- The completion of an access granted before a warm reset, once its effect on memory is known (R149, log 15). -/
theorem State.staleDone_eq {s t : State} {x : Access} {u : Upset}
    (h : { ({ s with inProg := none } : State).memEffect x.req u with fault := none } = t) :
    s.staleDone x u = t.beginSweep := by
  unfold State.staleDone
  rw [h]

theorem State.beginSweep_waits {s : State} (h : s.part ≠ .sweep ∨ s.rstn = false) : s.beginSweep = s := by
  unfold State.beginSweep
  refine if_neg fun k => ?_
  obtain ⟨hp, hr, -⟩ := k
  rcases h with h | h
  · exact h hp
  · exact Bool.false_ne_true (h.symm.trans hr)

theorem State.beginSweep_begins {s : State} (hp : s.part = .sweep) (hr : s.rstn = true) (hi : s.inProg = none) :
    s.beginSweep = s.startSweep 0 := by
  unfold State.beginSweep
  exact if_pos ⟨hp, hr, hi⟩

/-- SWEEP_READ_COMPLETE of a stale access: an event only if it was a sweep read (log 6). -/
theorem exec_sweepReadComplete_stale {s : State} {x : Access} (h : s.inProg = some x) (hi : x.req.issuer = .stale)
    (u : Upset) : exec (.sweepReadComplete u) s =
      if x.req.code = 8 then exec (.memoryAccessComplete u) s else .next s := by
  have hs : s.completeSweep u = if x.req.code = 8 then s.staleDone x u else s := by
    unfold State.completeSweep
    rw [h]
    dsimp only
    rw [hi]
  show Host.Outcome.next (s.completeSweep u) =
    if x.req.code = 8 then Host.Outcome.next (s.completeAccess u) else Host.Outcome.next s
  rw [hs, State.completeAccess_of_stale h hi]
  split <;> rfl

/-- The result of an abandoned cycle's access goes nowhere (R3, R149). -/
theorem State.passResult_port_abandoned {s : State} {q : Request} {p : PortId} (hi : q.issuer = .port p)
    (ha : q.abandoned = true) (w : Word) (bad : Bool) : s.passResult q w bad = s := by
  unfold State.passResult
  rw [hi]
  dsimp only
  rw [ha]
  rfl

/-- The result of a channel's abandoned access only settles a stop (R131). -/
theorem State.passResult_chan_abandoned {s : State} {q : Request} {c : ChanId} {y : ChanStep} (hi : q.issuer = .chan c y)
    (ha : q.abandoned = true) (w : Word) (bad : Bool) : s.passResult q w bad = s.settleStop c := by
  unfold State.passResult
  rw [hi]
  dsimp only
  rw [ha]
  rfl

theorem State.passResult_ring {s : State} {q : Request} {r : RingId} (hi : q.issuer = .ring r) (w : Word) (bad : Bool) :
    s.passResult q w bad = s.ringDone r q w := by
  unfold State.passResult
  rw [hi]

/-- A port's ring access without an assembly has no effect on entries (R90, R92). -/
theorem State.ringDone_detached {s : State} {r : RingId} {f : InFlight} {p : PortId} (h : s.rings[r].inFlight = some f)
    (ha : f.attached = false) (hp : f.post.who = .port p) (q : Request) (w : Word) :
    s.ringDone r q w = ((if q.abandoned then s.modRing r fun k => { k with inFlight := none }
      else (s.modRing r fun k => { k with inFlight := none }).portDone p q.kind w).resumeRing r) := by
  have he : ∀ t : State, t.ringEffect r f = t := fun t => by
    unfold State.ringEffect
    rw [ha]
    rfl
  have hl : ∀ t : State, t.finishLeaving r f = t := fun t => by
    unfold State.finishLeaving
    rw [hp]
  unfold State.ringDone
  rw [h]
  dsimp only
  rw [he, hl]
  unfold State.ringReport
  rw [hp]

/-- A judged access of a port at a ring without an assembly: the rest of the completion. -/
theorem State.ringDone_of_judged {s t : State} {x : Access} {r : RingId} {f : InFlight} {p : PortId} {e : CycleEnd} {w : Word}
    (hf : s.rings[r].inFlight = some f) (ha : f.attached = false) (hp : f.post.who = .port p)
    (hj : t.ports = s.ports ∧ t.rings = s.rings) (hd : ∀ u : State, u.portDone p x.req.kind w = u.completeCycle p e) :
    (x.req.abandoned = true → t.ringDone r x.req w = (t.modRing r fun k => { k with inFlight := none }).resumeRing r) ∧
    (x.req.abandoned = false → t.ringDone r x.req w =
      ((t.modRing r fun k => { k with inFlight := none }).completeCycle p e).resumeRing r) := by
  have hf' : t.rings[r].inFlight = some f := by rw [hj.2]; exact hf
  constructor
  · intro hab
    rw [State.ringDone_detached hf' ha hp, if_pos hab]
  · intro hab
    rw [State.ringDone_detached hf' ha hp, hab, if_neg Bool.false_ne_true, hd]

/-- Settles O10: by who issued the access, after the judgement that every granted access has. -/
theorem abandonedAccesses : Obligations.AbandonedAccesses := by
  refine ⟨fun s t x u h hi ht => ?_, fun s t x p h hi ha => ⟨fun hj => ?_, fun v u hj => ?_⟩,
    fun s t x r f p e h hi hf ha hp hj => ?_, fun s t x c y h hi ha => ⟨fun hj => ?_, fun v hj => ?_⟩⟩
  · have he : { ({ s with inProg := none } : State).memEffect x.req u with fault := none } = t := by
      rcases ht with ⟨hk, rfl, rfl⟩ | ⟨v, hk, rfl⟩
      · rw [State.memEffect_read _ hk]
      · rw [State.memEffect_write _ hk]
    have hd : exec (.memoryAccessComplete u) s = .next t.beginSweep := by
      show Host.Outcome.next (s.completeAccess u) = _
      rw [State.completeAccess_of_stale h hi, State.staleDone_eq he]
    have hf : t.part = s.part ∧ t.rstn = s.rstn ∧ t.inProg = none := by
      rcases ht with ⟨-, -, rfl⟩ | ⟨v, -, rfl⟩ <;> exact ⟨rfl, rfl, rfl⟩
    obtain ⟨hpart, hrstn, hprog⟩ := hf
    refine ⟨fun hp hr => ?_, fun hw => ?_, exec_sweepReadComplete_stale h hi u⟩
    · rw [hd, State.beginSweep_begins (hpart.trans hp) (hrstn.trans hr) hprog]
      rfl
    · rw [hd, State.beginSweep_waits (by rw [hpart, hrstn]; exact hw)]
  · show Host.Outcome.next (s.completeAccess 0) = _
    rw [State.completeAccess_of_port h hi, State.grantedDone_of_readJudged hj, State.passResult_port_abandoned hi ha]
  · obtain ⟨bad, hg⟩ := State.grantedDone_of_writeJudged hj u
    show Host.Outcome.next (s.completeAccess u) = _
    rw [State.completeAccess_of_port h hi, hg, State.passResult_port_abandoned hi ha]
  · have key : ∃ w : Word, s.completeAccess 0 = t.ringDone r x.req w ∧ (t.ports = s.ports ∧ t.rings = s.rings) ∧
        ∀ u : State, u.portDone p x.req.kind w = u.completeCycle p e := by
      rw [State.completeAccess_of_ring h hi]
      rcases hj with ⟨hj, rfl⟩ | ⟨⟨v, hj⟩, rfl⟩
      · refine ⟨_, ?_, hj.frame, fun u => by rw [hj.kind, State.portDone_read]⟩
        rw [State.grantedDone_of_readJudged hj, State.passResult_ring hi]
      · obtain ⟨bad, hg⟩ := State.grantedDone_of_writeJudged hj 0
        exact ⟨v, by rw [hg, State.passResult_ring hi], hj.frame, fun u => State.portDone_write _ _ hj.kind _⟩
    obtain ⟨w, hd, hframe, hend⟩ := key
    obtain ⟨hab, hnot⟩ := State.ringDone_of_judged hf ha hp hframe hend
    refine ⟨fun k => congrArg Host.Outcome.next (hd.trans (hab k)), fun c k hc => ?_⟩
    have hc' : (t.modRing r fun k => { k with inFlight := none }).ports[p].cycle = some c := by
      show t.ports[p].cycle = _
      rw [hframe.1]
      exact hc
    have he : s.completeAccess 0 = State.resumeRing r _ :=
      hd.trans ((hnot k).trans (congrArg _ (State.completeCycle_of_cycle hc' e)))
    show Host.Outcome.next (s.completeAccess 0) = _
    rw [he]
    cases e <;> rfl
  · show Host.Outcome.next (s.completeAccess 0) = _
    rw [State.completeAccess_of_chan h hi, State.grantedDone_of_readJudged hj, State.passResult_chan_abandoned hi ha]
  · obtain ⟨bad, hg⟩ := State.grantedDone_of_writeJudged hj 0
    show Host.Outcome.next (s.completeAccess 0) = _
    rw [State.completeAccess_of_chan h hi, hg, State.passResult_chan_abandoned hi ha]

end Sys2Proof.Machine

/-! PROOFS. The frame of memory (O21): which operations leave every word as it reads, what a completed access does to its own
word, and that a bad word stays bad. -/

namespace Sys2Proof.Machine

/-! ## Reading after writing, in any list of words -/

/-- Every address but the written one reads as before. -/
theorem Mem.get?_set_ne {a x : Nat} (hx : x ≠ a) (c : MemCell) : ∀ m : Memory, Mem.get? (Mem.set m a c) x = Mem.get? m x
  | [] => by simp [Mem.set, Mem.get?, hx]
  | (b, d) :: m => by
    have ih := Mem.get?_set_ne hx c m
    unfold Mem.set
    split
    · next h =>
      by_cases hxa : x < a
      · simp [Mem.get?, hxa, show x < b by omega]
      · simp [Mem.get?, hxa, hx]
    · split
      · next h h' =>
        subst h'
        simp [Mem.get?, hx]
      · next h h' => simp [Mem.get?, ih]

/-- What a state with another memory holds at an address. -/
theorem State.cellAt_set (s : State) (m : Memory) (a b : Addr) (c : MemCell) :
    ({ s with mem := Mem.set m a.toNat c } : State).cellAt b = if b = a then c else ({ s with mem := m } : State).cellAt b := by
  by_cases h : b = a
  · subst h
    rw [if_pos rfl]
    unfold State.cellAt
    rw [Mem.get?_set_same]
  · have hn : b.toNat ≠ a.toNat := fun e => h (BitVec.eq_of_toNat_eq e)
    rw [if_neg h]
    simp only [State.cellAt, Mem.get?_set_ne hn]

theorem State.cellAt_of_written {s : State} {a : Addr} {c : MemCell} (h : Mem.get? s.mem a.toNat = some c) :
    s.cellAt a = c := by
  unfold State.cellAt
  rw [h]

/-! ## Operations that leave the memory alone -/

/-- The memory and the number of power-ons are the same, so that every word reads as before. -/
def SameCells (s t : State) : Prop := t.mem = s.mem ∧ t.powerOns = s.powerOns

theorem SameCells.refl (s : State) : SameCells s s := ⟨rfl, rfl⟩

theorem SameCells.trans {s t u : State} (h : SameCells s t) (k : SameCells t u) : SameCells s u :=
  ⟨k.1.trans h.1, k.2.trans h.2⟩

theorem SameCells.cellAt {s t : State} (h : SameCells s t) (a : Addr) : t.cellAt a = s.cellAt a := by
  obtain ⟨hm, hp⟩ := h
  unfold State.cellAt
  rw [hm, hp]

theorem SameCells.sameMemory {s t : State} (h : SameCells s t) : sameMemory s t := h.cellAt

/-- What is quiet leaves the memory alone. -/
theorem Quiet.sameCells {s t : State} (h : Quiet s t) : SameCells s t := by
  obtain ⟨-, -, -, -, -, -, -, -, -, -, hm, hp, -, -⟩ := h.config
  exact ⟨hm, hp⟩

section
variable {s t : State} (h : SameCells s t)
include h

theorem SameCells.quiet {u : State} (q : Quiet t u) : SameCells s u := h.trans q.sameCells

/-! ## Access path -/

theorem SameCells.refuse (p : PortId) (r : Reason) : SameCells s (t.refuse p r) := h.quiet ((Quiet.refl t).refuse p r)

theorem SameCells.takeNotice (p : PortId) : SameCells s (t.takeNotice p) := by
  unfold State.takeNotice
  repeat' split
  all_goals exact h

theorem SameCells.writeEnd (p : PortId) (v : Word) : SameCells s (t.writeEnd p v) := by
  unfold State.writeEnd State.endUrgent State.endSlot
  repeat' split
  all_goals first | exact h | exact h.refuse _ _

theorem SameCells.writeThreshold (p : PortId) (v : Word) : SameCells s (t.writeThreshold p v) := by
  unfold State.writeThreshold
  split
  · exact h
  · exact h.refuse _ _

theorem SameCells.writeSignal (p : PortId) (v : Word) : SameCells s (t.writeSignal p v) := by
  unfold State.writeSignal
  split
  · exact h.quiet (((Quiet.refl t).deliver _ _ _).completeWrite p)
  · exact h.refuse _ _

theorem SameCells.finishTeardown (p : PortId) : SameCells s (t.finishTeardown p) := by
  unfold State.finishTeardown
  split
  · exact SameCells.quiet (t := t.modPort p (·.afterTeardown)) h ((Quiet.refl _).endDrop p)
  · exact h

theorem SameCells.startTeardown (p : PortId) (c : TeardownCause) : SameCells s (t.startTeardown p c) := by
  unfold State.startTeardown
  dsimp only
  split
  · exact SameCells.quiet (t := (t.modPort p (·.tornDown c)).modCtl p (·.cleared)) h
      ((((Quiet.refl _).tearLocks p).tearRings p).tearChans p)
  · exact SameCells.quiet (t := ((t.modPort p (·.tornDown c)).abandonCycle p).modCtl p (·.cleared)) h
      ((((Quiet.refl _).tearLocks p).tearRings p).tearChans p)

theorem SameCells.tearDown (p : PortId) (c : TeardownCause) : SameCells s (t.tearDown p c) :=
  (h.startTeardown p c).finishTeardown p

theorem SameCells.doControl (c : Control) : SameCells s (t.doControl c) := by
  cases c with
  | dropPort n =>
    show SameCells s (t.doDropPort n)
    unfold State.doDropPort
    split
    · exact SameCells.tearDown (t := t.setWait 0 (.control n)) h n .drop
    · exact h
  | ringReset r => exact h.quiet ((Quiet.refl t).doRingReset r)
  | lockFree l => exact h.quiet ((Quiet.refl t).doLockFree l)
  | clearFault => exact h

theorem SameCells.writeControl (p : PortId) (v : Word) : SameCells s (t.writeControl p v) := by
  unfold State.writeControl
  split
  · exact h.doControl _
  · exact h.refuse _ _

theorem SameCells.readPortWord (p : PortId) (k : Fin 16) : SameCells s (t.readPortWord p k) := by
  unfold State.readPortWord
  split
  all_goals first | exact h | exact h.takeNotice p | exact h.refuse _ _

theorem SameCells.writePortWord (p : PortId) (k : Fin 16) (v : Word) : SameCells s (t.writePortWord p k v) := by
  unfold State.writePortWord
  split
  all_goals first
    | exact h | exact h.writeEnd _ _ | exact h.writeThreshold _ _ | exact h.writeSignal _ _ | exact h.writeControl _ _
    | exact h.refuse _ _

theorem SameCells.portWindow (p : PortId) (k : Fin 16) (d : Dir) (v : Word) : SameCells s (t.portWindow p k d v) := by
  unfold State.portWindow
  repeat' split
  all_goals first | exact h.refuse _ _ | exact h.readPortWord _ _ | exact h.writePortWord _ _ _

/-! ## Table unit -/

theorem SameCells.rejectTable (n : Nat) (r : TableReason) : SameCells s (t.rejectTable n r) :=
  h.quiet ((Quiet.refl t).rejectTable n r)

theorem SameCells.commitWin (w : WinId) (v : Word) : SameCells s (t.commitWin w v) := by
  unfold State.commitWin
  dsimp only
  repeat' split
  all_goals first | exact h | exact SameCells.rejectTable (t := t.modWin w (·.unstage)) h _ _

theorem SameCells.commitRing (r : RingId) (v : Word) : SameCells s (t.commitRing r v) := by
  have hr : SameCells s (t.resetRing r) := h.quiet ((Quiet.refl t).resetRing r)
  unfold State.commitRing
  dsimp only
  repeat' split
  all_goals first | exact hr | exact SameCells.rejectTable (t := t.modRec r (·.unstage)) h _ _

theorem SameCells.writeBinding (p : PortId) (i : SlotId) (v : Word) : SameCells s (t.writeBinding p i v) := by
  unfold State.writeBinding
  split
  · exact h
  · exact SameCells.rejectTable (t := t.setBinding p i none) h _ _

theorem SameCells.applyTable (k : TableWord) (v : Word) : SameCells s (t.applyTable k v) := by
  cases k with
  | winCtl w => exact h.commitWin w v
  | ringCtl r => exact h.commitRing r v
  | binding p i => exact h.writeBinding p i v
  | _ => exact h

theorem SameCells.damageTable (k : TableWord) : SameCells s (t.damageTable k) := by
  cases k <;> exact h

/-! ## Presentation -/

theorem SameCells.tableCycle (p : PortId) (o : Nat) (d : Dir) (a : Addr) (v : Word) : SameCells s (t.tableCycle p o d a v) := by
  unfold State.tableCycle
  repeat' split
  all_goals first | exact h.refuse _ _ | exact h.applyTable _ _ | exact h

theorem SameCells.arrive (p : PortId) (d : Dir) (a : Addr) (v : Word) : SameCells s (t.arrive p d a v) := by
  unfold State.arrive
  split
  · exact h.portWindow _ _ _ _
  · exact h.tableCycle _ _ _ _ _
  · exact h.refuse _ _
  · exact h.quiet ((Quiet.refl t).windowCycle _ _ _ _ _)
  · exact h

theorem SameCells.present (p : PortId) (d : Dir) (a : Addr) (v : Word) : SameCells s (t.present p d a v) := by
  unfold State.present
  repeat' split
  all_goals first | exact h | exact SameCells.arrive (t := t.taking p d a v) h _ _ _ _

/-! ## Start-up -/

theorem SameCells.leaveOff (p : PortId) : SameCells s (t.leaveOff p) := by
  unfold State.leaveOff
  dsimp only
  split <;> exact h

theorem SameCells.arriveHeld (p : PortId) : SameCells s (t.arriveHeld p) := by
  unfold State.arriveHeld
  split
  · exact h
  · split
    · exact SameCells.arrive (t := t.setWait p .arriving) h _ _ _ _
    · exact h

end

theorem SameCells.foldl {α : Type} {f : State → α → State} (hf : ∀ {s t : State} (a : α), SameCells s t → SameCells s (f t a)) :
    ∀ (l : List α) {s t : State}, SameCells s t → SameCells s (l.foldl f t)
  | [], _, _, h => h
  | a :: l, _, _, h => SameCells.foldl hf l (hf a h)

section
variable {s t : State} (h : SameCells s t)
include h

theorem SameCells.arriveAll : SameCells s t.arriveAll := by
  unfold State.arriveAll
  split
  · exact SameCells.foldl (fun p k => k.arriveHeld p) _ h
  · exact SameCells.foldl (fun p k => k.arriveHeld p) _ (t := { t with freeUse := t.freeUse + 1 }) h

theorem SameCells.endStartUp : SameCells s t.endStartUp := by
  refine SameCells.arriveAll (SameCells.foldl (fun p k => k.leaveOff p) _ ?_)
  exact h

theorem SameCells.warmReset : SameCells s t.warmReset := by
  rw [State.warmReset_eq]
  exact h

theorem SameCells.beginSweep : SameCells s t.beginSweep := by
  unfold State.beginSweep
  split <;> exact h

theorem SameCells.takeSwept (o : Nat) (c : MemCell) : SameCells s (t.takeSwept o c) := by
  unfold State.takeSwept
  split
  · exact SameCells.rejectTable (SameCells.damageTable (h.quiet ((Quiet.refl t).reportParity _ _)) _) _ _
  · exact h.applyTable _ _

end

/-! ## What a completed access does to the memory -/

/-- The state as the completion of access `x` leaves the memory: a clear write stores 0 (R170), a sweep read may find bits upset,
and another access has its own effect (R137). -/
def State.accessed (s : State) (x : Access) (u : Upset) : State :=
  match x.req.issuer with
  | .clear _ => s.memWrite x.req.addr 0
  | .sweep _ => s.memUpset x.req.addr u
  | _ => s.memEffect x.req u

theorem SameCells.memUpset {s t : State} (h : SameCells s t) (a : Addr) (u : Upset) :
    SameCells (s.memUpset a u) (t.memUpset a u) := by
  obtain ⟨hm, hp⟩ := h
  unfold State.memUpset
  split
  · exact ⟨hm, hp⟩
  · rw [hm]
    split
    · exact ⟨rfl, hp⟩
    · exact ⟨hm, hp⟩

theorem SameCells.memWrite {s t : State} (h : SameCells s t) (a : Addr) (w : Word) :
    SameCells (s.memWrite a w) (t.memWrite a w) := ⟨by simp [h.1], h.2⟩

theorem SameCells.memEffect {s t : State} (h : SameCells s t) (q : Request) (u : Upset) :
    SameCells (s.memEffect q u) (t.memEffect q u) := by
  unfold State.memEffect
  split
  · exact h.memUpset _ _
  · exact h.memWrite _ _
  · exact h.memWrite _ _

theorem State.clearDone_cells (s : State) (i : Nat) (a : Addr) : SameCells (s.memWrite a 0) (s.clearDone i a) := by
  have h : SameCells (s.memWrite a 0) (({ s with inProg := none } : State).memWrite a 0) := ⟨rfl, rfl⟩
  unfold State.clearDone
  dsimp only
  repeat' split
  · exact h
  · exact h.endStartUp
  · exact h.warmReset

theorem State.sweepDone_cells (s : State) (i : Nat) (a : Addr) (u : Upset) :
    SameCells (s.memUpset a u) (s.sweepDone i a u) := by
  have h : SameCells (s.memUpset a u) (({ s with inProg := none } : State).memUpset a u) :=
    SameCells.memUpset (s := s) (t := { s with inProg := none }) ⟨rfl, rfl⟩ a u
  unfold State.sweepDone
  dsimp only
  split
  · exact h.takeSwept _ _
  · exact SameCells.endStartUp (h.takeSwept _ _)

theorem State.staleDone_cells (s : State) (x : Access) (u : Upset) : SameCells (s.memEffect x.req u) (s.staleDone x u) := by
  have h : SameCells (s.memEffect x.req u) (({ s with inProg := none } : State).memEffect x.req u) :=
    SameCells.memEffect (s := s) (t := { s with inProg := none }) ⟨rfl, rfl⟩ _ _
  exact SameCells.beginSweep (t := { (({ s with inProg := none } : State).memEffect x.req u) with fault := none }) h

theorem State.grantedDone_cells (s : State) (x : Access) (u : Upset) : SameCells (s.memEffect x.req u) (s.grantedDone x u) := by
  have h : SameCells (s.memEffect x.req u) (({ s with inProg := none } : State).memEffect x.req u) :=
    SameCells.memEffect (s := s) (t := { s with inProg := none }) ⟨rfl, rfl⟩ _ _
  exact h.quiet ((((Quiet.refl _).reportIf _ _ _).judge _ _ _).passResult _ _ _)

theorem State.completeAccess_cells {s : State} {x : Access} (h : s.inProg = some x) (u : Upset) :
    SameCells (s.accessed x u) (s.completeAccess u) := by
  unfold State.completeAccess State.accessed
  rw [h]
  dsimp only
  cases x.req.issuer with
  | clear i => exact s.clearDone_cells i _
  | sweep i => exact s.sweepDone_cells i _ u
  | stale => exact s.staleDone_cells x u
  | port p => exact s.grantedDone_cells x u
  | ring r => exact s.grantedDone_cells x u
  | chan c y => exact s.grantedDone_cells x u

/-- The commands that complete an access. -/
def Completes (i : Instr) (u : Upset) (c : ChanId) : Prop :=
  i = .memoryAccessComplete u ∨ i = .sweepReadComplete u ∨ i = .stopPendingComplete c u ∨ i = .coldClearWriteComplete

/-- A completing command leaves the memory alone or has the effect of the access in progress. -/
theorem exec_completes_cells {i : Instr} {u : Upset} {c : ChanId} {s t : State} (hi : Completes i u c)
    (h : exec i s = .next t) : SameCells s t ∨ ∃ x : Access, s.inProg = some x ∧ SameCells (s.accessed x u) t := by
  rcases hi with rfl | rfl | rfl | rfl
  · cases h
    cases hx : s.inProg with
    | none =>
      refine .inl ?_
      unfold State.completeAccess
      rw [hx]
      exact .refl s
    | some x => exact .inr ⟨x, rfl, State.completeAccess_cells hx u⟩
  · cases h
    unfold State.completeSweep
    split
    · next x hx =>
      split
      · next k hk =>
        refine .inr ⟨x, hx, ?_⟩
        unfold State.accessed
        rw [hk]
        exact s.sweepDone_cells k _ u
      · next hk =>
        split
        · refine .inr ⟨x, hx, ?_⟩
          unfold State.accessed
          rw [hk]
          exact s.staleDone_cells x u
        · exact .inl (.refl s)
      · exact .inl (.refl s)
    · exact .inl (.refl s)
  · cases h
    unfold State.completeStop
    split
    · exact .inl (.refl s)
    · split
      · cases hx : s.inProg with
        | none =>
          refine .inl ?_
          unfold State.completeAccess
          rw [hx]
          exact .refl s
        | some x => exact .inr ⟨x, rfl, State.completeAccess_cells hx u⟩
      · exact .inl ((Quiet.refl s).settleStop c).sameCells
  · cases h
    unfold State.completeClear
    split
    · next x hx =>
      split
      · next k hk =>
        refine .inr ⟨x, hx, ?_⟩
        unfold State.accessed
        rw [hk]
        exact s.clearDone_cells k _
      · exact .inl (.refl s)
    · exact .inl (.refl s)

/-! ## The access's own word -/

theorem State.cellAt_memUpset_ne (s : State) {a x : Addr} (u : Upset) (hx : x ≠ a) :
    (s.memUpset a u).cellAt x = s.cellAt x := by
  unfold State.memUpset
  split
  · rfl
  · split
    · next c _ => exact (s.cellAt_set s.mem a x _).trans (if_neg hx)
    · rfl

theorem State.cellAt_memWrite_ne (s : State) {a x : Addr} (w : Word) (hx : x ≠ a) :
    (s.memWrite a w).cellAt x = s.cellAt x := (s.cellAt_set s.mem a x _).trans (if_neg hx)

/-- Flips never mend a word (R144). -/
theorem State.memUpset_bad {s : State} {a x : Addr} (u : Upset) (h : (s.cellAt x).bad = true) :
    ((s.memUpset a u).cellAt x).bad = true := by
  by_cases hx : x = a
  · subst hx
    unfold State.memUpset
    split
    · exact h
    · split
      · next c hc =>
        have hcell : ({ s with mem := Mem.set s.mem x.toNat (c.flipped u) } : State).cellAt x = c.flipped u :=
          (s.cellAt_set s.mem x x _).trans (if_pos rfl)
        rw [hcell]
        rw [State.cellAt_of_written hc] at h
        exact MemCell.flipped_bad u h
      · exact h
  · rw [State.cellAt_memUpset_ne _ _ hx]
    exact h

/-- An access changes no address but its own. -/
theorem State.accessed_other (s : State) {x : Access} (u : Upset) {a : Addr} (h : a ≠ x.req.addr) :
    (s.accessed x u).cellAt a = s.cellAt a := by
  unfold State.accessed State.memEffect
  repeat' split
  all_goals first | exact s.cellAt_memWrite_ne _ h | exact s.cellAt_memUpset_ne _ h

/-- A read is the finding of upset bits, whoever makes it. -/
theorem State.accessed_of_read (s : State) {x : Access} (u : Upset) (hk : x.req.kind = .read)
    (hc : ∀ k : Nat, x.req.issuer ≠ .clear k) : s.accessed x u = s.memUpset x.req.addr u := by
  unfold State.accessed State.memEffect
  rw [hk]
  split
  · next k e => exact absurd e (hc k)
  · rfl
  · rfl

/-- A write or a pair stores its word, where start-up control has not issued it. -/
theorem State.accessed_of_write (s : State) {x : Access} (u : Upset) {v : Word}
    (hk : x.req.kind = .write v ∨ x.req.kind = .pair v) (hc : ∀ k : Nat, x.req.issuer ≠ .clear k)
    (hs : ∀ k : Nat, x.req.issuer ≠ .sweep k) : s.accessed x u = s.memWrite x.req.addr v := by
  unfold State.accessed
  split
  · next k e => exact absurd e (hc k)
  · next k e => exact absurd e (hs k)
  · exact s.memEffect_write hk u

/-! ## Grants -/

/-- A grant changes at most the word of the access that it begins, by the bits upset in a pair's read. -/
theorem State.grant_cells (s : State) (u : Upset) :
    SameCells s (s.grant u) ∨ ∃ x : Access, (s.grant u).inProg = some x ∧ SameCells (s.memUpset x.req.addr u) (s.grant u) := by
  unfold State.grant
  split
  · cases s.nextGrant with
    | none => exact .inl (.refl s)
    | some q =>
      dsimp only
      cases s.reqs[q] with
      | none => exact .inl (.refl s)
      | some r =>
        dsimp only
        unfold State.beginAccess
        dsimp only
        split
        · exact .inr ⟨_, rfl, SameCells.memUpset (s := s) (t := { s.modReq q fun _ => none with lastGrant := q })
            ⟨rfl, rfl⟩ _ _⟩
        · exact .inl ⟨rfl, rfl⟩
  · exact .inl (.refl s)

/-! ## The other commands -/

theorem State.rstnFalls_cells (s : State) : SameCells s s.rstnFalls := by
  unfold State.rstnFalls
  repeat' split
  · exact ⟨rfl, rfl⟩
  · exact SameCells.warmReset (t := { s with rstn := false }) ⟨rfl, rfl⟩
  · exact .refl s

theorem State.rstnRises_cells (s : State) : SameCells s s.rstnRises := by
  unfold State.rstnRises
  split
  · exact .refl s
  · exact SameCells.beginSweep (t := { s with rstn := true }) ⟨rfl, rfl⟩

theorem State.powerUp_cells (s : State) : SameCells s s.powerUp := by
  unfold State.powerUp
  split <;> exact ⟨rfl, rfl⟩

theorem State.prstnFalls_cells (s : State) (p : PortId) : SameCells s (s.prstnFalls p) := by
  unfold State.prstnFalls
  dsimp only
  split
  · exact SameCells.tearDown (t := s.modPort p fun pt => { pt with prstn := false }) ⟨rfl, rfl⟩ p .prstn
  · exact ⟨rfl, rfl⟩

theorem State.boundary_cells (s : State) : SameCells s s.boundary := by
  unfold State.boundary
  split
  · have k : SameCells s s.settleDue.countDown := (Quiet.settleDue (Quiet.refl s)).countDown.sameCells
    generalize s.settleDue.countDown = u at k
    exact k
  · exact .refl s

/-- Every command but PONN_LOW, the completions, and a grant with upset bits leaves every word as it reads. -/
theorem exec_cells {i : Instr} {s t : State} (h : exec i s = .next t) (hg : ∀ u, u ≠ 0 → i ≠ .arbiterGrant u)
    (ha : ∀ u, i ≠ .memoryAccessComplete u) (hs : ∀ u, i ≠ .sweepReadComplete u) (hc : ∀ c u, i ≠ .stopPendingComplete c u)
    (hw : i ≠ .coldClearWriteComplete) (hp : i ≠ .ponnLow) : SameCells s t := by
  cases hcy : cycleOf i with
  | some x =>
    obtain ⟨p, d, a, v⟩ := x
    rw [exec_of_cycleOf hcy] at h
    cases h
    exact SameCells.present (.refl s) p d a v
  | none =>
    cases i with
    | ponnLow => exact absurd rfl hp
    | ponnHigh => cases h; exact s.powerUp_cells
    | coldClearWriteComplete => exact absurd rfl hw
    | rstnLow => cases h; exact s.rstnFalls_cells
    | sweepStart => cases h; exact s.rstnRises_cells
    | sweepReadComplete u => exact absurd rfl (hs u)
    | portReset p => cases h; exact s.prstnFalls_cells p
    | teardownComplete p => cases h; exact SameCells.finishTeardown (.refl s) p
    | portUp p => cases h; exact ⟨rfl, rfl⟩
    | strobeNegated p => cases h; exact ⟨rfl, rfl⟩
    | holdListTakeUp r => cases h; exact ((Quiet.refl s).resumeRing r).sameCells
    | stalledPostOpen r => cases h; exact ((Quiet.refl s).openHead r).sameCells
    | stallLimitExpiry r p => cases h; exact ((Quiet.refl s).stallExpires r p).sameCells
    | lockHandover l =>
      cases h
      split
      · exact ((Quiet.refl s).releaseLock l).sameCells
      · exact .refl s
    | leaseExpiry l => cases h; exact ((Quiet.refl s).leaseExpires l).sameCells
    | tickBoundary => cases h; exact s.boundary_cells
    | stopPendingComplete c u => exact absurd rfl (hc c u)
    | channelPick => cases h; exact (Quiet.refl s).pickChan.sameCells
    | arbiterGrant u =>
      cases h
      by_cases hu : u = 0
      · subst hu
        rcases s.grant_cells 0 with k | ⟨x, -, k⟩
        · exact k
        · rw [State.memUpset_zero] at k
          exact k
      · exact absurd rfl (hg u hu)
    | memoryAccessComplete u => exact absurd rfl (ha u)
    | _ => cases hcy

/-! ## O21 -/

/-- A word that fails its check goes on failing, but for a write to it and power-on (R144). -/
theorem exec_keeps_bad {i : Instr} {s t : State} (h : exec i s = .next t) {a : Addr} (hb : (s.cellAt a).bad = true)
    (hp : i ≠ .ponnLow) (hx : ∀ x : Access, s.inProg = some x → x.req.addr = a →
      x.req.kind = .read ∧ ∀ k : Nat, x.req.issuer ≠ .clear k) : (t.cellAt a).bad = true := by
  have completed : ∀ (u : Upset) (c : ChanId), Completes i u c → (t.cellAt a).bad = true := by
    intro u c hi
    rcases exec_completes_cells hi h with k | ⟨x, hin, k⟩
    · rw [k.cellAt]
      exact hb
    · rw [k.cellAt]
      by_cases e : x.req.addr = a
      · obtain ⟨hk, hc⟩ := hx x hin e
        rw [s.accessed_of_read u hk hc]
        exact State.memUpset_bad u hb
      · rw [s.accessed_other u fun q => e q.symm]
        exact hb
  by_cases hg : ∃ u, i = .arbiterGrant u
  · obtain ⟨u, rfl⟩ := hg
    cases h
    rcases s.grant_cells u with k | ⟨x, -, k⟩
    · rw [k.cellAt]
      exact hb
    · rw [k.cellAt]
      exact State.memUpset_bad u hb
  · by_cases hi : ∃ u c, Completes i u c
    · obtain ⟨u, c, hi⟩ := hi
      exact completed u c hi
    · have k : SameCells s t := exec_cells h (fun u _ e => hg ⟨u, e⟩) (fun u e => hi ⟨u, 0, .inl e⟩)
        (fun u e => hi ⟨u, 0, .inr (.inl e)⟩) (fun c u e => hi ⟨u, c, .inr (.inr (.inl e))⟩)
        (fun e => hi ⟨0, 0, .inr (.inr (.inr e))⟩) hp
      rw [k.cellAt]
      exact hb

/-- The completion of a read depends on the upset bits only through the memory (log 13). -/
theorem State.completeAccess_upset {s : State} {x : Access} (h : s.inProg = some x) (hk : x.req.kind = .read)
    (hc : ∀ k : Nat, x.req.issuer ≠ .clear k) (u : Upset) :
    s.completeAccess u = (s.memUpset x.req.addr u).completeAccess 0 := by
  have hm : ({ s with inProg := none } : State).memUpset x.req.addr u = { s.memUpset x.req.addr u with inProg := none } := by
    by_cases hu : u = 0
    · rw [hu, State.memUpset_zero, State.memUpset_zero]
    · cases hg : Mem.get? s.mem x.req.addr.toNat <;> simp only [State.memUpset, if_neg hu, hg]
  have hi : (s.memUpset x.req.addr u).inProg = some x := by rw [State.memUpset_eq]; exact h
  have he : ({ s with inProg := none } : State).memEffect x.req u =
      ({ s.memUpset x.req.addr u with inProg := none } : State).memEffect x.req 0 := by
    rw [State.memEffect_read _ hk, ← hm]
    unfold State.memEffect
    rw [hk]
  have hst : s.staleDone x u = (s.memUpset x.req.addr u).staleDone x 0 := by
    unfold State.staleDone
    rw [he]
  have hgr : s.grantedDone x u = (s.memUpset x.req.addr u).grantedDone x 0 := by
    unfold State.grantedDone
    rw [he]
  unfold State.completeAccess
  rw [h, hi]
  dsimp only
  cases e : x.req.issuer with
  | clear k => exact absurd e (hc k)
  | sweep k =>
    show s.sweepDone k x.req.addr u = (s.memUpset x.req.addr u).sweepDone k x.req.addr 0
    unfold State.sweepDone
    rw [hm, State.memUpset_zero]
  | stale => exact hst
  | port p => exact hgr
  | ring r => exact hgr
  | chan c y => exact hgr

/-- Settles O21: the frame by `exec_cells` and `exec_completes_cells`, the access's own word by what `State.accessed` stores. -/
theorem memoryFrame : Obligations.MemoryFrame := by
  refine ⟨fun i s t h => ⟨fun hg ha hs hc hw hp => (exec_cells h hg ha hs hc hw hp).sameMemory, ?_, ?_, ?_, ?_⟩,
    fun c u => ⟨fun hb => ?_, MemCell.flipped_bad u⟩, fun s m a b c => s.cellAt_set m a b c, ?_, ?_⟩
  · intro u c x hx hi a ha
    rcases exec_completes_cells hi h with k | ⟨y, hy, k⟩
    · exact k.cellAt a
    · cases hx.symm.trans hy
      rw [k.cellAt, s.accessed_other u ha]
  · intro u c hi
    rcases exec_completes_cells hi h with k | ⟨y, hy, k⟩
    · exact ⟨fun _ => k.sameMemory, fun _ _ _ _ _ => k.sameMemory⟩
    · refine ⟨fun hn => absurd (hn.symm.trans hy) (fun e => nomatch e), fun x hx hk hc hu => ?_⟩
      cases hx.symm.trans hy
      rw [s.accessed_of_read u hk hc, hu, State.memUpset_zero] at k
      exact k.sameMemory
  · intro u x hi hx a ha
    subst hi
    cases h
    rcases s.grant_cells u with k | ⟨y, hy, k⟩
    · exact k.cellAt a
    · cases hx.symm.trans hy
      rw [k.cellAt, s.cellAt_memUpset_ne u ha]
  · exact fun a hb hp hx => exec_keeps_bad h hb hp hx
  · unfold MemCell.flipped
    rw [hb]
    rfl
  · intro s t x u hx h v hk hc hs
    cases h
    have hcell : (s.completeAccess u).cellAt x.req.addr = goodCell v := by
      rw [(State.completeAccess_cells hx u).cellAt, s.accessed_of_write u hk hc hs, State.cellAt_memWrite_same]
    rw [hcell]
    exact ⟨rfl, goodCell_not_bad v⟩
  · intro s x u hx hk hc
    have he := State.completeAccess_upset hx hk hc u
    refine ⟨fun c hm hu => ?_, fun hm => ?_⟩
    · have hup : s.memUpset x.req.addr u = { s with mem := Mem.set s.mem x.req.addr.toNat (c.flipped u) } := by
        unfold State.memUpset
        rw [if_neg hu, hm]
      exact congrArg Host.Outcome.next (hup ▸ he)
    · have hup : s.memUpset x.req.addr u = s := by
        unfold State.memUpset
        split
        · rfl
        · rw [hm]
      rw [hup] at he
      exact congrArg Host.Outcome.next he

end Sys2Proof.Machine

/-! PROOFS. The words of the table area but the commits (O34): what each does to the shadow, what a binding word names, and P0's
write of one as a memory write. -/

namespace Sys2Proof.Machine

/-! ## Bindings -/

/-- Some other slot of the port is bound to the source (R163 check 3). -/
theorem State.boundElsewhere_iff (s : State) (p : PortId) (i : SlotId) (src : Source) :
    s.boundElsewhere p i src = true ↔
      ∃ (j : SlotId) (c : Binding), j ≠ i ∧ s.ctls[p].slots[j].binding = some c ∧ c.source = src := by
  have hall : ∀ j : SlotId, j ∈ allSlots := by decide
  unfold State.boundElsewhere
  simp only [List.any_eq_true, Bool.and_eq_true, decide_eq_true_eq, Option.map_eq_some_iff]
  constructor
  · rintro ⟨j, -, hj, c, hc, hs⟩
    exact ⟨j, c, hj, hc, hs⟩
  · rintro ⟨j, c, hj, hc, hs⟩
    exact ⟨j, hall j, hj, c, hc, hs⟩

/-- An accepted binding word (R163, R59). -/
theorem State.writeBinding_ok {s : State} {p : PortId} {i : SlotId} {v : Word} {b : Option Binding}
    (h : s.checkBinding p i v = .ok b) : s.writeBinding p i v = s.setBinding p i b := by
  unfold State.writeBinding
  rw [h]

/-- A rejected binding word (R163, R60, R165). -/
theorem State.writeBinding_error {s : State} {p : PortId} {i : SlotId} {v : Word} {e : TableReason}
    (h : s.checkBinding p i v = .error e) :
    s.writeBinding p i v = (s.setBinding p i none).rejectTable (bindingIndex p i) e := by
  unfold State.writeBinding
  rw [h]

theorem State.checkBinding_unbound {s : State} {p : PortId} {i : SlotId} {v : Word} (h : bindingOf v = .ok none) :
    s.checkBinding p i v = .ok none := by
  unfold State.checkBinding
  rw [h]

theorem State.checkBinding_free {s : State} {p : PortId} {i : SlotId} {v : Word} {b : Binding}
    (h : bindingOf v = .ok (some b)) (hf : s.boundElsewhere p i b.source = false) :
    s.checkBinding p i v = .ok (some b) := by
  unfold State.checkBinding
  rw [h]
  dsimp only
  rw [hf]
  rfl

theorem State.checkBinding_duplicate {s : State} {p : PortId} {i : SlotId} {v : Word} {b : Binding}
    (h : bindingOf v = .ok (some b)) (hf : s.boundElsewhere p i b.source = true) :
    s.checkBinding p i v = .error .duplicate := by
  unfold State.checkBinding
  rw [h]
  dsimp only
  rw [hf]
  rfl

theorem State.checkBinding_error {s : State} {p : PortId} {i : SlotId} {v : Word} {e : TableReason}
    (h : bindingOf v = .error e) : s.checkBinding p i v = .error e := by
  unfold State.checkBinding
  rw [h]

/-- The TABLE detail of a binding word (Table 11-2). -/
theorem tableDetail_binding (q : PortId) (i : SlotId) (x : TableReason) :
    tableDetail (bindingIndex q i) x = BitVec.ofNat 16 (0xE0 + 16 * q.val + i.val + 4096 * x.code) := by
  have hq := q.isLt
  have hi := i.isLt
  have hm : bindingIndex q i % 512 = 0xE0 + 16 * q.val + i.val := by
    unfold bindingIndex
    omega
  unfold tableDetail
  rw [hm]

/-! ## What a binding word names (Table 11-11) -/

theorem bindingOf_fields_eq (v : Word) : field v 8 4 = v.toNat / 256 % 16 ∧ field v 0 5 = v.toNat % 32 := by
  refine ⟨rfl, ?_⟩
  rw [field_eq]
  omega

/-- A source's kind and index name it (R36, R163). -/
theorem sourceOf_code_index (src : Source) : sourceOf src.code src.index = .ok (some src) := by
  have large : ∀ {n : Nat} (x : Fin n), x.val < n := fun x => x.isLt
  cases src <;> first | rfl | exact dif_pos (large _)

/-- A binding word names the binding whose kind, index and level it carries. -/
theorem bindingOf_eq_some {v : Word} {src : Source} {l : Level} (hc : v.toNat / 256 % 16 = src.code)
    (hi : v.toNat % 32 = src.index) (hl : l.val = v.toNat / 4096 % 4) :
    bindingOf v = .ok (some { source := src, level := l }) := by
  obtain ⟨hk, hx⟩ := bindingOf_fields_eq v
  refine bindingOf_some.2 ⟨?_, Fin.ext (hl.trans (levelOf_val v).symm)⟩
  rw [hk, hx, hc, hi]
  exact sourceOf_code_index src

/-- Kind 0 is unbound. -/
theorem bindingOf_unbound {v : Word} (h : v.toNat / 256 % 16 = 0) : bindingOf v = .ok none := by
  have hs : sourceOf (field v 8 4) (field v 0 5) = .ok none := by
    rw [(bindingOf_fields_eq v).1, h]
    rfl
  unfold bindingOf
  rw [hs]

/-- A rejection of the source is one of the word. -/
theorem bindingOf_error_iff {v : Word} {e : TableReason} :
    bindingOf v = .error e ↔ sourceOf (v.toNat / 256 % 16) (v.toNat % 32) = .error e := by
  obtain ⟨hk, hx⟩ := bindingOf_fields_eq v
  unfold bindingOf
  rw [hk, hx]
  cases sourceOf (v.toNat / 256 % 16) (v.toNat % 32) with
  | error x => exact ⟨fun h => (by cases h; rfl), fun h => (by cases h; rfl)⟩
  | ok o => cases o <;> exact ⟨fun h => (nomatch h), fun h => (nomatch h)⟩

/-- The kinds above 12 name nothing. -/
theorem sourceOf_badSource {kind idx : Nat} (h : 12 < kind) : sourceOf kind idx = .error .badSource := by
  unfold sourceOf
  split <;> first | rfl | omega

/-- The index ranges of the kinds (R163 check 2). -/
theorem sourceOf_badIndex {kind idx : Nat} (h : idx < 32) : sourceOf kind idx = .error .badIndex ↔
    kind ∈ [2, 3, 4] ∧ 8 ≤ idx ∨ kind ∈ [7, 8, 9] ∧ 4 ≤ idx ∨ kind ∈ [5, 6, 10, 11, 12] ∧ 1 ≤ idx := by
  unfold sourceOf
  split
  all_goals try split
  all_goals simp_all <;> omega

/-! ## P0's write of a table word -/

/-- A binding word does not look at ports' cycles. -/
theorem State.writeBinding_taking (s : State) (p : PortId) (d : Dir) (a : Addr) (v : Word) (q : PortId) (i : SlotId)
    (w : Word) : (s.taking p d a v).writeBinding q i w = (s.writeBinding q i w).taking p d a v := by
  have hc : (s.taking p d a v).checkBinding q i w = s.checkBinding q i w := rfl
  cases h : s.checkBinding q i w with
  | ok b =>
    rw [State.writeBinding_ok (hc.trans h), State.writeBinding_ok h]
    rfl
  | error e =>
    rw [State.writeBinding_error (hc.trans h), State.writeBinding_error h]
    exact State.deliver_modPort (s.setBinding q i none) p 0 (fun pt => pt.accept d a v .arriving) (fun _ => rfl) _ _

theorem tableAddr_toNat {n : Nat} (h : n < 512) : (tableAddr n).toNat = 0x3FE00 + n := by
  show (0x3FE00 + n) % 2 ^ 18 = _
  exact Nat.mod_eq_of_lt (by omega)

/-- P0's write of a table word that looks at no cycle is taken up, and becomes a request for the same word (R10, R152). -/
theorem exec_tableWrite {i : Instr} {a : Addr} {v : Word} {s : State} {k : TableWord} {n m : Nat} (r : s.ready 0)
    (h : cycleOf i = some (0, .write, tableAddr n, v)) (hn : n < 512) (hm : m = 0x3FE00 + n) (hav : a = BitVec.ofNat 18 m)
    (hk : tableWordOf n = k)
    (ht : (s.taking 0 .write a v).applyTable k v = (s.applyTable k v).taking 0 .write a v) :
    exec i s = .next ((s.applyTable k v).requested 0 .write a v .memory (portRequest 0 (.write v) a none)) := by
  have hat : tableAddr n = a := by
    rw [hav, hm]
    rfl
  have ha : a.toNat = 0x3FE00 + n := hat ▸ tableAddr_toNat hn
  rw [hat] at h
  have ho : tableWordOf (a.toNat - 0x3FE00) = k := by rw [ha, Nat.add_sub_cancel_left, hk]
  rw [exec_table r h (ha ▸ Nat.le_add_right _ _)]
  unfold State.tableCycle
  rw [if_pos rfl, ho, ht]
  exact congrArg _ (State.toMemory_accept _ _ _ _ _ _ _ _)

/-! ## The regions of the table area (Table 9-1) -/

theorem tableWordOf_header (n : Fin 4) : tableWordOf n.val = .header n := dif_pos n.isLt

theorem tableWordOf_winData (w : WinId) (k : Fin 3) : tableWordOf (0x10 + 4 * w.val + k.val) = .winData w k := by
  revert w k
  decide

theorem tableWordOf_winCtl (w : WinId) : tableWordOf (0x13 + 4 * w.val) = .winCtl w := by
  revert w
  decide

theorem tableWordOf_ringData (r : RingId) (k : Fin 7) : tableWordOf (0x90 + 8 * r.val + k.val) = .ringData r k := by
  revert r k
  decide

theorem tableWordOf_ringCtl (r : RingId) : tableWordOf (0x97 + 8 * r.val) = .ringCtl r := by
  revert r
  decide

theorem tableWordOf_lease (l : LockId) : tableWordOf (0xD0 + l.val) = .lease l := by
  revert l
  decide

theorem tableWordOf_binding (q : PortId) (i : SlotId) : tableWordOf (0xE0 + 16 * q.val + i.val) = .binding q i := by
  revert q i
  decide

/-- A binding word's effect on the shadow (R163, R59, R60, R165). -/
theorem State.applyTable_binding (s : State) (v : Word) (q : PortId) (i : SlotId) :
    (bindingOf v = .ok none → s.applyTable (.binding q i) v = s.setBinding q i none) ∧
    (∀ b : Binding, bindingOf v = .ok (some b) → s.boundElsewhere q i b.source = false →
      s.applyTable (.binding q i) v = s.setBinding q i (some b)) ∧
    (∀ x : TableReason, (bindingOf v = .error x ∨
        x = .duplicate ∧ ∃ b : Binding, bindingOf v = .ok (some b) ∧ s.boundElsewhere q i b.source = true) →
      s.applyTable (.binding q i) v = (s.setBinding q i none).deliver 0 .table
        (BitVec.ofNat 16 (0xE0 + 16 * q.val + i.val + 4096 * x.code))) := by
  refine ⟨fun h => State.writeBinding_ok (State.checkBinding_unbound h),
    fun b h hf => State.writeBinding_ok (State.checkBinding_free h hf), fun x h => ?_⟩
  have hc : s.checkBinding q i v = .error x := by
    rcases h with h | ⟨rfl, b, h, hf⟩
    · exact State.checkBinding_error h
    · exact State.checkBinding_duplicate h hf
  show s.writeBinding q i v = _
  rw [State.writeBinding_error hc]
  unfold State.rejectTable
  rw [tableDetail_binding]

/-- Settles O34: the words of the table area by their regions, and a binding word by the source that it names. -/
theorem tableWordWrites : Obligations.TableWordWrites := by
  refine ⟨fun s v => ⟨fun n => rfl, fun l => rfl, fun w k => rfl, fun r k => rfl, rfl, fun q i => ?_⟩, fun v => ?_,
    fun s v a r => ⟨fun n ha => ?_, fun l ha => ?_, fun w k ha => ?_, fun x k ha => ?_, fun q i ha => ?_⟩,
    tableWordOf_header, tableWordOf_lease, tableWordOf_winData, tableWordOf_winCtl, tableWordOf_ringData, tableWordOf_ringCtl,
    tableWordOf_binding, fun n h => tableWordOf_plain h⟩
  · obtain ⟨hn, hb, he⟩ := s.applyTable_binding v q i
    refine ⟨hn, fun b h hf => hb b h ?_, fun x h => he x (h.imp id ?_)⟩
    · rw [Bool.eq_false_iff]
      intro k
      obtain ⟨j, c, hj, hc, hs⟩ := (s.boundElsewhere_iff q i b.source).1 k
      exact hf j c hj hc hs
    · rintro ⟨hx, b, j, c, h, hj, hc, hs⟩
      exact ⟨hx, b, h, (s.boundElsewhere_iff q i b.source).2 ⟨j, c, hj, hc, hs⟩⟩
  · refine ⟨bindingOf_unbound, fun h => bindingOf_error_iff.2 (sourceOf_badSource h), fun src l hl h => ?_, fun b h => ?_,
      bindingOf_error_iff.trans (sourceOf_badIndex (Nat.mod_lt _ (by decide)))⟩
    · rcases h with ⟨w, hc, hi, rfl⟩ | ⟨w, hc, hi, rfl⟩ | ⟨w, hc, hi, rfl⟩ | ⟨w, hc, hi, rfl⟩ | ⟨hc, hi, rfl⟩ |
        ⟨hc, hi, rfl⟩ | ⟨w, hc, hi, rfl⟩ | ⟨w, hc, hi, rfl⟩ | ⟨w, hc, hi, rfl⟩ | ⟨hc, hi, rfl⟩ | ⟨hc, hi, rfl⟩ |
        ⟨hc, hi, rfl⟩ <;> exact bindingOf_eq_some hc hi hl
    · obtain ⟨hl, hc, -⟩ := bindingOf_fields h
      exact ⟨hc, hl⟩
  · have hn := n.isLt
    exact exec_tableWrite r rfl (by omega) rfl ha (tableWordOf_header n) rfl
  · have hl := l.isLt
    exact exec_tableWrite (n := 0xD0 + l.val) r rfl (by omega) (by omega) ha (tableWordOf_lease l) rfl
  · have hw := w.isLt
    have hk := k.isLt
    exact exec_tableWrite (n := 0x10 + 4 * w.val + k.val) r rfl (by omega) (by omega) ha (tableWordOf_winData w k) rfl
  · have hx := x.isLt
    have hk := k.isLt
    exact exec_tableWrite (n := 0x90 + 8 * x.val + k.val) r rfl (by omega) (by omega) ha (tableWordOf_ringData x k) rfl
  · have hq := q.isLt
    have hi := i.isLt
    exact exec_tableWrite (n := 0xE0 + 16 * q.val + i.val) r rfl (by omega) (by omega) ha (tableWordOf_binding q i)
      (s.writeBinding_taking 0 .write a v q i v)

end Sys2Proof.Machine

/-! PROOFS. The ends of runs (sections 7.6 and 7.7): what a run leaves behind at its rings, at its lock and at a waiting
LOCK_FREE write, in the words of the obligations (O49). -/

namespace Sys2Proof.Machine

/-! ## Locks given up (R99, R101, R110) -/

theorem State.leaseOf_eq (s : State) (l : LockId) :
    s.leaseOf l = if s.leases[l] = 0 then none else some (s.leases[l]).toNat := by
  simp only [State.leaseOf, word_toNat_eq_zero]

/-- Two changes of one lock are one. -/
theorem State.modLock_modLock (s : State) (l : LockId) (f g : Lock → Lock) :
    (s.modLock l f).modLock l g = s.modLock l fun k => g (f k) := by
  simp only [State.modLock, upd_upd]

/-- A hand-over is a change of the lock's record and the announcement. -/
theorem State.releaseLock_cons {s : State} {l : LockId} {c : Claimant} {rest : List Claimant}
    (h : s.locks[l].waiters = c :: rest) :
    s.releaseLock l = (s.modLock l fun _ => s.lockHeldBy l c rest).announceGrant l c := by
  have hm : (s.modLock l fun k => { k with waiters := rest }).grantLock l c = s.modLock l fun _ => s.lockHeldBy l c rest := by
    unfold State.grantLock
    rw [State.modLock_modLock]
    show (s.modLock l fun _ => { holder := some c, waiters := rest, timer := s.leaseOf l }) = _
    rw [State.leaseOf_eq]
    rfl
  unfold State.releaseLock
  rw [h]
  dsimp only
  rw [hm]

theorem State.releaseLock_eq_released (s : State) (l : LockId) : s.releaseLock l = s.released l := by
  unfold State.released
  cases h : s.locks[l].waiters with
  | nil => unfold State.releaseLock; rw [h]
  | cons c rest => rw [State.releaseLock_cons h]; cases c <;> rfl

theorem State.dropWaiters_eq_leftQueue (s : State) (l : LockId) (c : Claimant) :
    s.dropWaiters l (fun d => decide (d = c)) = s.leftQueue l c := by
  unfold State.dropWaiters State.leftQueue
  simp only [decide_not]

/-- What the specification says of the channel's lock is what the end of a run does to it (R110, R109). -/
theorem State.leaveLock_of_left {s t : State} {c : ChanId} (h : LeftLock s c t) : s.leaveLock c = t := by
  unfold State.leaveLock State.releaseForChan
  obtain ⟨hn, ht⟩ | ⟨l, hl, ⟨hh, ht⟩ | ⟨hh, ht⟩⟩ := h
  · rw [hn, ht]
  · rw [hl, ht]
    dsimp only
    rw [if_pos hh, State.releaseLock_eq_released]
  · rw [hl, ht]
    dsimp only
    rw [if_neg hh, State.dropWaiters_eq_leftQueue]

/-! ## Rings given up (R71, R87, R130) -/

theorem HoldItem.ofClaimant_eq (c : Claimant) (i : HoldItem) : i.ofClaimant c = decide (i.who = c) := by
  cases i
  · rfl
  · exact decide_eq_decide.mpr eq_comm

theorem Ring.withoutClaimant_chan (k : Ring) (c : ChanId) : k.withoutClaimant (.chan c) = k.without c := by
  simp only [Ring.withoutClaimant, Ring.withoutStalled, Ring.without, HoldItem.ofClaimant_eq, decide_not]

theorem Ring.withoutWaiting_eq (k : Ring) (c : ChanId) : k.withoutWaiting c = k.withoutPosts c := by
  have ha : (k.awaiting.filter fun q => decide (q.who ≠ .chan c)) =
      if k.awaiting.any (fun q => decide (q.who = .chan c)) then none else k.awaiting := by
    cases k.awaiting with
    | none => rfl
    | some q => by_cases e : q.who = .chan c <;> simp [e, Option.filter]
  unfold Ring.withoutWaiting Ring.withoutPosts
  rw [Ring.withoutClaimant_chan, ha]

theorem Ring.ownsPost_iff (k : Ring) (c : Claimant) : k.ownsPost c = true ↔ ∃ m, k.postAsm = some m ∧ m.owner = c := by
  simp [Ring.ownsPost, Option.any_eq_true]

theorem Ring.ownsPost_false {k : Ring} {c : Claimant} (h : ∀ m, k.postAsm = some m → m.owner ≠ c) : k.ownsPost c = false :=
  Bool.eq_false_iff.mpr fun e => by
    obtain ⟨m, hm, ho⟩ := (k.ownsPost_iff c).mp e
    exact h m hm ho

theorem Ring.postInFlight_iff (k : Ring) (c : ChanId) :
    k.postInFlight c = true ↔ ∃ f, k.inFlight = some f ∧ f.post.who = .chan c := by
  simp [Ring.postInFlight, Option.any_eq_true]

theorem Ring.discardPost_of_owner {k : Ring} {c : Claimant} (h : k.ownsPost c = true) :
    k.discardPost c = { k with postAsm := none, awaiting := none } := by
  obtain ⟨m, hm, ho⟩ := (k.ownsPost_iff c).mp h
  unfold Ring.discardPost
  rw [hm]
  exact if_pos ho

theorem State.dropAssembly_of_unowned {s : State} {c : Claimant} {r : RingId} (h : s.rings[r].ownsPost c = false) :
    s.dropAssembly c r = s := by
  have e : s.rings[r].discardPost c = s.rings[r] := by
    unfold Ring.discardPost
    cases hm : s.rings[r].postAsm with
    | none => rfl
    | some m =>
      refine if_neg fun ho => ?_
      rw [(Ring.ownsPost_iff _ c).mpr ⟨m, hm, ho⟩] at h
      exact Bool.noConfusion h
  unfold State.dropAssembly
  dsimp only
  rw [h, if_neg Bool.false_ne_true]
  exact State.modRing_self e

theorem State.dropAssembly_of_owner {s : State} {c : Claimant} {r : RingId} (h : s.rings[r].ownsPost c = true) :
    s.dropAssembly c r = (s.modRing r fun k => { k with postAsm := none, awaiting := none }).openHead r := by
  have e : s.modRing r (·.discardPost c) = s.modRing r fun k => { k with postAsm := none, awaiting := none } := by
    unfold State.modRing
    rw [upd_congr _ _ (g := fun k => { k with postAsm := none, awaiting := none }) (Ring.discardPost_of_owner h)]
  unfold State.dropAssembly
  dsimp only
  rw [h, if_pos rfl, e]

/-- STALLED_POST_OPEN opens the head of the stall queue (R76). -/
theorem exec_stalledPostOpen (r : RingId) (s : State) : exec (.stalledPostOpen r) s = .next (s.openHead r) := rfl

theorem State.dropAssembly_of_dropped {s t : State} {c : ChanId} {r : RingId} (h : AssemblyDropped s c r t) :
    s.dropAssembly (.chan c) r = t := by
  obtain ⟨hn, ht⟩ | ⟨hm, ht⟩ := h
  · rw [State.dropAssembly_of_unowned (Ring.ownsPost_false hn), ht]
  · rw [State.dropAssembly_of_owner ((Ring.ownsPost_iff _ _).mpr hm)]
    rw [exec_stalledPostOpen] at ht
    exact Host.Outcome.next.inj ht

theorem State.closeAssembly_of_left {s t : State} {c : ChanId} {r : RingId} (h : AssemblyLeft s c r t) :
    s.closeAssembly c r = t := by
  unfold State.closeAssembly
  obtain ⟨⟨m, f, hm, ho, hf, hw⟩, ht⟩ | ⟨hn, hd⟩ := h
  · rw [(Ring.ownsPost_iff _ _).mpr ⟨m, hm, ho⟩, (Ring.postInFlight_iff _ _).mpr ⟨f, hf, hw⟩, ht]
    rfl
  · rw [if_neg, State.dropAssembly_of_dropped hd]
    intro hb
    obtain ⟨hb1, hb2⟩ := Bool.and_eq_true_iff.mp hb
    obtain ⟨m, hm, ho⟩ := (Ring.ownsPost_iff _ _).mp hb1
    obtain ⟨f, hf, hw⟩ := (Ring.postInFlight_iff _ _).mp hb2
    exact hn m f hm ho hf hw

/-- The rings are gone through from 0 upward. -/
theorem State.closeAssemblies_eq (s : State) (c : ChanId) : s.closeAssemblies c =
    (((((((s.closeAssembly c 0).closeAssembly c 1).closeAssembly c 2).closeAssembly c 3).closeAssembly c 4).closeAssembly c
      5).closeAssembly c 6).closeAssembly c 7 := by
  simp only [State.closeAssemblies, allRings, List.foldl_cons, List.foldl_nil]

theorem State.closeAssemblies_of_left {c : ChanId} {u : Nat → State}
    (h : ∀ r : RingId, AssemblyLeft (u r.val) c r (u (r.val + 1))) : (u 0).closeAssemblies c = u 8 := by
  have step (r : RingId) : (u r.val).closeAssembly c r = u (r.val + 1) := State.closeAssembly_of_left (h r)
  have e0 : (u 0).closeAssembly c 0 = u 1 := step 0
  have e1 : (u 1).closeAssembly c 1 = u 2 := step 1
  have e2 : (u 2).closeAssembly c 2 = u 3 := step 2
  have e3 : (u 3).closeAssembly c 3 = u 4 := step 3
  have e4 : (u 4).closeAssembly c 4 = u 5 := step 4
  have e5 : (u 5).closeAssembly c 5 = u 6 := step 5
  have e6 : (u 6).closeAssembly c 6 = u 7 := step 6
  have e7 : (u 7).closeAssembly c 7 = u 8 := step 7
  rw [State.closeAssemblies_eq, e0, e1, e2, e3, e4, e5, e6, e7]

/-- What the specification says of the channel's rings is what the end of a run does to them (R71, R87). -/
theorem State.withdrawFromRings_of_left {s t : State} {c : ChanId} (h : LeftRings s c t) : s.withdrawFromRings c = t := by
  obtain ⟨u, h0, hu, ht⟩ := h
  rw [ht, ← State.closeAssemblies_of_left hu, h0]
  unfold State.withdrawFromRings
  cases s.chans[c].feedRing
  · rfl
  · simp only [Ring.withoutClaimant_chan]

/-! ## What stands at a channel while its run ends: all but the states that hand-overs and openings change (R101, R76) -/

/-- At every channel, what `g` shows of it is the same in both states. -/
def SameChans {α : Type} (g : Chan → α) (s t : State) : Prop := ∀ c : ChanId, g t.chans[c] = g s.chans[c]

theorem SameChans.refl {α : Type} (g : Chan → α) (s : State) : SameChans g s s := fun _ => rfl

section
variable {α : Type} {g : Chan → α} {s t : State} (h : SameChans g s t)
include h

theorem SameChans.deliver (p : PortId) (src : Source) (d : Word) : SameChans g s (t.deliver p src d) := by
  rw [State.deliver_eq]
  exact h

theorem SameChans.modPort (p : PortId) (f : Port → Port) : SameChans g s (t.modPort p f) := h
theorem SameChans.modRing (r : RingId) (f : Ring → Ring) : SameChans g s (t.modRing r f) := h
theorem SameChans.modLock (l : LockId) (f : Lock → Lock) : SameChans g s (t.modLock l f) := h
theorem SameChans.modReq (q : Fin 5) (f : Option Request → Option Request) : SameChans g s (t.modReq q f) := h

theorem SameChans.modChan (c : ChanId) {f : Chan → Chan} (hf : ∀ k, g (f k) = g k) : SameChans g s (t.modChan c f) := by
  intro d
  show g (upd t.chans c f)[d] = _
  rw [upd_get]
  split
  · rw [hf]
    exact h d
  · exact h d

theorem SameChans.issuePost (r : RingId) (q : Post) : SameChans g s (t.issuePost r q) := by
  unfold State.issuePost State.issueRing
  split
  · exact ((h.modRing r _).modReq _ _).modPort _ _
  · exact h.modRing r _

theorem SameChans.openPost (r : RingId) (q : Post) : SameChans g s (t.openPost r q) := by
  unfold State.openPost
  dsimp only
  split
  · split
    · exact ((h.modRing r _).modRing r _).modPort _ _
    · exact (h.modRing r _).modRing r _
  · exact (h.modRing r _).issuePost r q

theorem SameChans.deliverDone (c : ChanId) (st : Status) : SameChans g s (t.deliverDone c st) := by
  unfold State.deliverDone
  split
  · exact h.deliver _ _ _
  · exact h

theorem SameChans.finishLockFree (c : ChanId) : SameChans g s (t.finishLockFree c) := by
  unfold State.finishLockFree
  split
  · exact h.modPort _ _
  · exact h

variable (hg : ∀ k x, g { k with state := x } = g k)
include hg

theorem SameChans.announceGrant (l : LockId) (c : Claimant) : SameChans g s (t.announceGrant l c) := by
  cases c
  · exact h.deliver _ _ _
  · exact h.modChan _ fun k => hg k _

theorem SameChans.releaseLock (l : LockId) : SameChans g s (t.releaseLock l) := by
  unfold State.releaseLock
  split
  · exact h.modLock l _
  · exact ((h.modLock l _).modLock l _).announceGrant hg l _

theorem SameChans.leaveLock (c : ChanId) : SameChans g s (t.leaveLock c) := by
  unfold State.leaveLock State.releaseForChan
  split
  · split
    · exact h.releaseLock hg _
    · exact h.modLock _ _
  · exact h

theorem SameChans.unstall (q : Post) : SameChans g s (t.unstall q) := by
  unfold State.unstall
  split
  · exact h
  · split
    · exact h.modChan _ fun k => hg k _
    · exact h

theorem SameChans.openHead (r : RingId) : SameChans g s (t.openHead r) := by
  unfold State.openHead
  split
  · split
    · exact h
    · exact ((h.modRing r _).unstall hg _).openPost r _
  · exact h

theorem SameChans.closeAssembly (c : ChanId) (r : RingId) : SameChans g s (t.closeAssembly c r) := by
  unfold State.closeAssembly State.dropAssembly
  dsimp only
  split
  · exact h.modRing r _
  · split
    · exact (h.modRing r _).openHead hg r
    · exact h.modRing r _

theorem SameChans.closeAssemblies (c : ChanId) : SameChans g s (t.closeAssemblies c) := by
  rw [State.closeAssemblies_eq]
  exact (((((((h.closeAssembly hg c 0).closeAssembly hg c 1).closeAssembly hg c 2).closeAssembly hg c 3).closeAssembly hg c
    4).closeAssembly hg c 5).closeAssembly hg c 6).closeAssembly hg c 7

theorem SameChans.withdrawFromRings (c : ChanId) : SameChans g s (t.withdrawFromRings c) := by
  unfold State.withdrawFromRings
  split
  · exact (h.modRing _ _).closeAssemblies hg c
  · exact h.closeAssemblies hg c

end

/-! ## The channel's accesses and its ring -/

theorem Request.ofChan_iff (q : Request) (c : ChanId) : q.ofChan c = true ↔ ∃ y, q.issuer = .chan c y := by
  unfold Request.ofChan
  split
  · next d y e => simp [e]
  · next h => exact ⟨fun e => Bool.noConfusion e, fun ⟨y, e⟩ => absurd e (h c y)⟩

theorem State.postIssued_iff (s : State) (c : ChanId) :
    s.postIssued c = true ↔ ∃ (r : RingId) (f : InFlight), s.rings[r].inFlight = some f ∧ f.post.who = .chan c := by
  unfold State.postIssued
  rw [List.any_eq_true]
  exact ⟨fun ⟨r, _, h⟩ => ⟨r, (Ring.postInFlight_iff _ _).mp h⟩,
    fun ⟨r, h⟩ => ⟨r, mem_allRings r, (Ring.postInFlight_iff _ _).mpr h⟩⟩

/-- When an access of the channel is presented or its post issued (R131). -/
theorem State.chanPresented_iff (s : State) (c : ChanId) : s.chanPresented c = true ↔
    (∃ (q : Request) (y : ChanStep), s.reqs[(4 : Fin 5)] = some q ∧ q.issuer = .chan c y) ∨
    (∃ (x : Access) (y : ChanStep), s.inProg = some x ∧ x.req.issuer = .chan c y) ∨
    ∃ (r : RingId) (f : InFlight), s.rings[r].inFlight = some f ∧ f.post.who = .chan c := by
  unfold State.chanPresented
  rw [Bool.or_eq_true, Bool.or_eq_true, Option.any_eq_true, Option.any_eq_true, State.postIssued_iff, or_assoc]
  simp only [Request.ofChan_iff, exists_and_left]

theorem Chan.feedRing_iff (k : Chan) (r : RingId) :
    k.feedRing = some r ↔ k.desc.mode.toNat % 8 = 5 ∧ k.desc.data.toNat = r.val := by
  have ho : k.desc.op = some .feed ↔ k.desc.mode.toNat % 8 = 5 := by
    rw [Desc.op_eq]
    have : k.desc.mode.toNat % 8 < 8 := Nat.mod_lt _ (by decide)
    interval_cases k.desc.mode.toNat % 8 <;> decide
  unfold Chan.feedRing
  by_cases h : k.desc.op = some .feed
  · rw [if_pos h, Desc.ring_eq_some]
    exact ⟨fun e => ⟨ho.mp h, e⟩, fun e => e.2⟩
  · rw [if_neg h]
    exact ⟨fun e => (nomatch e), fun e => absurd (ho.mpr e.1) h⟩

/-! ## Stops -/

theorem State.stopChan_idle {s : State} {c : ChanId} (st : Status)
    (h : s.chans[c].state = .idle ∨ s.chans[c].stopPending.isSome = true) : s.stopChan c st = s := by
  unfold State.stopChan
  obtain h | h := h
  · rw [if_pos h]
  · rw [if_pos h, ite_self]

theorem State.stopChan_running {s : State} {c : ChanId} (st : Status) (h : s.chans[c].state ≠ .idle)
    (k : s.chans[c].stopPending = none) : s.stopChan c st = s.stopRun c st := by
  unfold State.stopChan
  rw [if_neg h, if_neg (by rw [k]; exact Bool.false_ne_true)]

/-- A stop that becomes pending gives up the channel's place in a lock's queue (R109). -/
theorem State.leaveQueue_lock {s t : State} {c : ChanId}
    (h : s.chans[c].state ≠ .lockWait ∧ t = s ∨ s.chans[c].state = .lockWait ∧ LeftLock s c t) :
    (if s.chans[c].state = .lockWait then s.leaveLock c else s) = t := by
  obtain ⟨hs, e⟩ | ⟨hs, hl⟩ := h
  · rw [if_neg hs, e]
  · rw [if_pos hs, State.leaveLock_of_left hl]

theorem State.leaveQueue_noFeed {s t : State} {c : ChanId}
    (h : s.chans[c].state ≠ .lockWait ∧ t = s ∨ s.chans[c].state = .lockWait ∧ LeftLock s c t)
    (hf : s.chans[c].feedRing = none) : s.leaveQueue c = t := by
  unfold State.leaveQueue
  simp only [hf, State.leaveQueue_lock h]

theorem State.leaveQueue_feed {s t : State} {c : ChanId} {r : RingId}
    (h : s.chans[c].state ≠ .lockWait ∧ t = s ∨ s.chans[c].state = .lockWait ∧ LeftLock s c t)
    (hf : s.chans[c].feedRing = some r) : s.leaveQueue c = t.modRing r (·.withoutPosts c) := by
  unfold State.leaveQueue
  simp only [hf, State.leaveQueue_lock h, Ring.withoutWaiting_eq]

/-- The LOCK_FREE write of P0 that waits for the channel completes (R132). -/
theorem State.finishLockFree_waiting {s : State} {c : ChanId} {k : Cycle} (h : s.ports[(0 : PortId)].cycle = some k)
    (hw : k.wait = .lockFree c) : s.finishLockFree c = s.written 0 := by
  unfold State.finishLockFree
  rw [if_pos (by rw [h]; exact decide_eq_true hw), State.completeWrite_of_cycle h]
  rfl

theorem State.finishLockFree_unawaited {s : State} {c : ChanId} (h : s.unawaited c) : s.finishLockFree c = s := by
  unfold State.finishLockFree
  refine if_neg fun e => ?_
  obtain ⟨k, hk, hw⟩ := Option.any_eq_true _ _ |>.mp e
  exact h k hk (of_decide_eq_true hw)

/-- The end of a run, step by step: its rings, its lock, CHAN-DONE to the run owner, and the waiting LOCK_FREE write. -/
theorem State.endRun_of_left {s t u v : State} {c : ChanId} {st : Status}
    (ht : LeftRings (s.modChan c fun k => k.over st) c t) (hu : LeftLock t c u)
    (hv : v = (match s.chans[c].owner with | some q => u.deliver q (.chanDone c) (BitVec.ofNat 16 st.code) | none => u)) :
    s.endRun c st = v.finishLockFree c := by
  have hr : (s.modChan c fun k => k.ended st).withdrawFromRings c = t := State.withdrawFromRings_of_left ht
  have hl : t.leaveLock c = u := State.leaveLock_of_left hu
  have ho : u.chans[c].owner = s.chans[c].owner := by
    have hk : SameChans (·.owner) s (((s.modChan c fun k => k.ended st).withdrawFromRings c).leaveLock c) :=
      (((SameChans.refl (·.owner) s).modChan c (f := fun k => k.ended st) fun _ => rfl).withdrawFromRings
        (fun _ _ => rfl) c).leaveLock (fun _ _ => rfl) c
    rw [hr, hl] at hk
    exact hk c
  have hd : u.deliverDone c st = v := by
    unfold State.deliverDone
    rw [hv]
    cases hq : s.chans[c].owner <;> simp only [ho, hq]
  unfold State.endRun
  rw [hr, hl, hd]

/-! ## O49: stop causes and the end of a run -/

/-- Settles O49: the clauses are the equations of the stop, of a pending stop and of the end of a run. -/
theorem endOfRun : Obligations.EndOfRun := by
  intro s c st
  refine ⟨State.stopChan_idle st, fun hs hp => ⟨fun hc => ?_, fun hc t ht => ⟨fun hf => ?_, fun r hf => ?_⟩⟩, fun h => ?_,
    fun hp hc => State.settleStop_ends hp hc, s.chanPresented_iff c, Chan.feedRing_iff _, fun t u v ht hu hv => ⟨fun hn => ?_,
      fun k hk hw => ?_⟩⟩
  · rw [State.stopChan_running st hs hp, State.stopRun_now st hc]
  · rw [State.stopChan_running st hs hp, State.stopRun_pending st hc, State.leaveQueue_noFeed ht hf]
  · rw [State.stopChan_running st hs hp, State.stopRun_pending st hc, State.leaveQueue_feed ht hf]
  · exact h.elim State.settleStop_none State.settleStop_waits
  · rw [State.endRun_of_left ht hu hv, State.finishLockFree_unawaited hn]
  · rw [State.endRun_of_left ht hu hv, State.finishLockFree_waiting hk hw]

end Sys2Proof.Machine

/-! PROOFS. Locks forced from their holders (R103, R105): a lease that runs out, a hand-over, and LOCK_FREE beside the CONTROL
write that asks for it (O30). -/

namespace Sys2Proof.Machine

/-! ## Changes at two places -/

/-- Changes at two different places do not meet. -/
theorem upd_comm {α : Type} {n : Nat} (v : Vector α n) {i j : Fin n} (f g : α → α) (h : i ≠ j) :
    upd (upd v i f) j g = upd (upd v j g) i f := by
  apply Vector.ext
  intro m hm
  rw [upd_getElem, upd_getElem, upd_getElem, upd_getElem]
  by_cases hi : i.val = m
  · have hj : j.val ≠ m := fun e => h (Fin.ext (hi.trans e.symm))
    rw [if_neg hj, if_neg hj]
  · rw [if_neg hi, if_neg hi]

/-- A port without a cycle has no place to set. -/
theorem State.setWait_of_none {s : State} {p : PortId} (x : CycleWait) (h : s.ports[p].cycle = none) : s.setWait p x = s := by
  have e : s.ports[p] = { s.ports[p] with cycle := (s.ports[p].cycle).map fun c => { c with wait := x } } := by
    rw [h]
    exact congrArg (fun y => { s.ports[p] with cycle := y }) h
  unfold State.setWait State.modPort
  rw [upd_id _ _ _ e.symm]

/-! ## A write of P0 in progress beside what a stop does

The same operations, made on a state in which P0 has no cycle and on the state with a write of P0 in progress that waits for no
stop, keep the two states alike: what the operations set at P0's cycle is the write's place alone. -/

/-- `t` is `s`, in which P0 has no cycle, with this write of P0 in progress, which waits for no stop. -/
def BesideWrite (a : Addr) (v : Word) (s t : State) : Prop :=
  s.ports[(0 : PortId)].cycle = none ∧
  ∃ w : CycleWait, (∀ c : ChanId, w ≠ .lockFree c) ∧ t = s.modPort 0 fun pt => pt.accept .write a v w

/-- P0 takes the write. -/
theorem BesideWrite.taking {s : State} (a : Addr) (v : Word) (h : s.ports[(0 : PortId)].cycle = none) :
    BesideWrite a v s (s.taking 0 .write a v) := ⟨h, .arriving, (fun _ e => nomatch e), rfl⟩

section
variable {a : Addr} {v : Word} {s t : State} (h : BesideWrite a v s t)
include h

theorem BesideWrite.rings : t.rings = s.rings := by obtain ⟨_, w, _, rfl⟩ := h; rfl
theorem BesideWrite.recs : t.recs = s.recs := by obtain ⟨_, w, _, rfl⟩ := h; rfl
theorem BesideWrite.locks : t.locks = s.locks := by obtain ⟨_, w, _, rfl⟩ := h; rfl
theorem BesideWrite.chans : t.chans = s.chans := by obtain ⟨_, w, _, rfl⟩ := h; rfl
theorem BesideWrite.leaseOf (l : LockId) : t.leaseOf l = s.leaseOf l := by obtain ⟨_, w, _, rfl⟩ := h; rfl
theorem BesideWrite.openingCond (r : RingId) : t.openingCond r = s.openingCond r := by obtain ⟨_, w, _, rfl⟩ := h; rfl
theorem BesideWrite.chanPresented (c : ChanId) : t.chanPresented c = s.chanPresented c := by
  obtain ⟨_, w, _, rfl⟩ := h; rfl

/-- The write completes: its state is the one beside it, with the write done. -/
theorem BesideWrite.completeWrite : t.completeWrite 0 = s.written 0 := by
  obtain ⟨_, w, _, rfl⟩ := h
  exact State.completeWrite_accept _ _ _ _ _ _

/-- The write is held for a stop. -/
theorem BesideWrite.setWait_lockFree (c : ChanId) :
    t.setWait 0 (.lockFree c) = s.modPort 0 fun pt => pt.holding .write a v (.lockFree c) := by
  obtain ⟨_, w, _, rfl⟩ := h
  exact State.modPort_modPort _ _ _ _

/-! ### Changes of one record -/

theorem BesideWrite.modRing (r : RingId) (f : Ring → Ring) : BesideWrite a v (s.modRing r f) (t.modRing r f) := by
  obtain ⟨hn, w, hw, rfl⟩ := h
  exact ⟨hn, w, hw, rfl⟩

theorem BesideWrite.modLock (l : LockId) (f : Lock → Lock) : BesideWrite a v (s.modLock l f) (t.modLock l f) := by
  obtain ⟨hn, w, hw, rfl⟩ := h
  exact ⟨hn, w, hw, rfl⟩

theorem BesideWrite.modChan (c : ChanId) (f : Chan → Chan) : BesideWrite a v (s.modChan c f) (t.modChan c f) := by
  obtain ⟨hn, w, hw, rfl⟩ := h
  exact ⟨hn, w, hw, rfl⟩

theorem BesideWrite.modReq (q : Fin 5) (f : Option Request → Option Request) :
    BesideWrite a v (s.modReq q f) (t.modReq q f) := by
  obtain ⟨hn, w, hw, rfl⟩ := h
  exact ⟨hn, w, hw, rfl⟩

theorem BesideWrite.deliver (p : PortId) (src : Source) (d : Word) : BesideWrite a v (s.deliver p src d) (t.deliver p src d) := by
  obtain ⟨hn, w, hw, rfl⟩ := h
  refine ⟨?_, w, hw, State.deliver_modPort s 0 p (fun pt => pt.accept .write a v w) (fun _ => rfl) src d⟩
  rw [State.deliver_ports]
  exact hn

theorem BesideWrite.setWait (p : PortId) {x : CycleWait} (hx : ∀ c : ChanId, x ≠ .lockFree c) :
    BesideWrite a v (s.setWait p x) (t.setWait p x) := by
  obtain ⟨hn, w, hw, rfl⟩ := h
  by_cases hp : p = 0
  · subst hp
    rw [State.setWait_of_none x hn]
    exact ⟨hn, x, hx, State.modPort_modPort _ _ _ _⟩
  · refine ⟨(congrArg Port.cycle (State.modPort_port_other s _ hp)).trans hn, w, hw, ?_⟩
    unfold State.setWait State.modPort
    rw [upd_comm _ _ _ (Ne.symm hp)]

/-! ### Locks (R99, R101, R110) -/

theorem BesideWrite.announceGrant (l : LockId) (c : Claimant) : BesideWrite a v (s.announceGrant l c) (t.announceGrant l c) := by
  cases c with
  | port p => exact h.deliver _ _ _
  | chan d => exact h.modChan _ _

theorem BesideWrite.grantLock (l : LockId) (c : Claimant) : BesideWrite a v (s.grantLock l c) (t.grantLock l c) := by
  unfold State.grantLock
  rw [h.leaseOf]
  exact h.modLock _ _

theorem BesideWrite.releaseLock (l : LockId) : BesideWrite a v (s.releaseLock l) (t.releaseLock l) := by
  unfold State.releaseLock
  rw [h.locks]
  cases s.locks[l].waiters with
  | nil => exact h.modLock _ _
  | cons c rest => exact ((h.modLock l _).grantLock l c).announceGrant l c

theorem BesideWrite.leaveLock (c : ChanId) : BesideWrite a v (s.leaveLock c) (t.leaveLock c) := by
  unfold State.leaveLock
  rw [h.chans]
  cases s.chans[c].desc.lock with
  | none => exact h
  | some l =>
    dsimp only
    unfold State.releaseForChan
    rw [h.locks]
    split
    · exact h.releaseLock l
    · exact h.modLock _ _

/-! ### Rings (R71, R76, R87) -/

theorem BesideWrite.issuePost (r : RingId) (q : Post) : BesideWrite a v (s.issuePost r q) (t.issuePost r q) := by
  unfold State.issuePost State.issueRing
  rw [h.rings, h.recs]
  cases q.who with
  | port p => exact ((h.modRing r _).modReq _ _).setWait p fun _ e => nomatch e
  | chan c => exact h.modRing r _

theorem BesideWrite.openPost (r : RingId) (q : Post) : BesideWrite a v (s.openPost r q) (t.openPost r q) := by
  have h' := h.modRing r fun k => { k with postAsm := some { owner := q.who, words := 0 } }
  unfold State.openPost
  dsimp only
  rw [h'.rings]
  split
  · obtain ⟨who, word, live⟩ := q
    cases who with
    | port p => exact (h'.modRing r _).setWait p fun _ e => nomatch e
    | chan c => exact h'.modRing r _
  · exact h'.issuePost r q

theorem BesideWrite.unstall (q : Post) : BesideWrite a v (s.unstall q) (t.unstall q) := by
  unfold State.unstall
  cases q.who with
  | port p => exact h
  | chan c =>
    dsimp only
    split
    · exact h.modChan _ _
    · exact h

theorem BesideWrite.openHead (r : RingId) : BesideWrite a v (s.openHead r) (t.openHead r) := by
  unfold State.openHead
  rw [h.openingCond, h.rings]
  split
  · cases s.rings[r].stall with
    | nil => exact h
    | cons e rest => exact ((h.modRing r _).unstall _).openPost r _
  · exact h

theorem BesideWrite.closeAssembly (c : ChanId) (r : RingId) : BesideWrite a v (s.closeAssembly c r) (t.closeAssembly c r) := by
  unfold State.closeAssembly State.dropAssembly
  dsimp only
  rw [h.rings]
  split
  · exact h.modRing r _
  · split
    · exact (h.modRing r _).openHead r
    · exact h.modRing r _

theorem BesideWrite.closeAssemblies (c : ChanId) : BesideWrite a v (s.closeAssemblies c) (t.closeAssemblies c) := by
  rw [State.closeAssemblies_eq, State.closeAssemblies_eq]
  exact (((((((h.closeAssembly c 0).closeAssembly c 1).closeAssembly c 2).closeAssembly c 3).closeAssembly c 4).closeAssembly c
    5).closeAssembly c 6).closeAssembly c 7

theorem BesideWrite.withdrawFromRings (c : ChanId) :
    BesideWrite a v (s.withdrawFromRings c) (t.withdrawFromRings c) := by
  unfold State.withdrawFromRings
  rw [h.chans]
  cases s.chans[c].feedRing with
  | none => exact h.closeAssemblies c
  | some r => exact (h.modRing r _).closeAssemblies c

/-! ### Stops (R130 to R132) -/

theorem BesideWrite.deliverDone (c : ChanId) (st : Status) : BesideWrite a v (s.deliverDone c st) (t.deliverDone c st) := by
  unfold State.deliverDone
  rw [h.chans]
  cases s.chans[c].owner with
  | none => exact h
  | some q => exact h.deliver _ _ _

/-- Neither state has a write that waits for a stop. -/
theorem BesideWrite.finishLockFree (c : ChanId) : BesideWrite a v (s.finishLockFree c) (t.finishLockFree c) := by
  have ht : t.unawaited c := by
    obtain ⟨_, w, hw, rfl⟩ := h
    intro k hk
    rw [State.modPort_port_same] at hk
    exact Option.some.inj hk ▸ hw c
  rw [State.finishLockFree_none c h.1, State.finishLockFree_unawaited ht]
  exact h

theorem BesideWrite.endRun (c : ChanId) (st : Status) : BesideWrite a v (s.endRun c st) (t.endRun c st) :=
  ((((h.modChan c _).withdrawFromRings c).leaveLock c).deliverDone c st).finishLockFree c

theorem BesideWrite.leaveQueue (c : ChanId) : BesideWrite a v (s.leaveQueue c) (t.leaveQueue c) := by
  have hl : BesideWrite a v (if s.chans[c].state = .lockWait then s.leaveLock c else s)
      (if s.chans[c].state = .lockWait then t.leaveLock c else t) := by
    split
    · exact h.leaveLock c
    · exact h
  unfold State.leaveQueue
  rw [h.chans]
  cases s.chans[c].feedRing with
  | none => exact hl
  | some r => exact hl.modRing r _

theorem BesideWrite.stopChan (c : ChanId) (st : Status) : BesideWrite a v (s.stopChan c st) (t.stopChan c st) := by
  unfold State.stopChan State.stopRun
  rw [h.chans, h.chanPresented]
  split
  · exact h
  · split
    · exact h
    · split
      · exact (h.leaveQueue c).modChan c _
      · exact h.endRun c st

theorem BesideWrite.forceLock (l : LockId) (b : Bool) : BesideWrite a v (s.forceLock l b) (t.forceLock l b) := by
  unfold State.forceLock
  rw [h.locks]
  cases s.locks[l].holder with
  | none => exact h
  | some x =>
    cases x with
    | port q => exact (h.deliver _ _ _).releaseLock l
    | chan c => exact (h.releaseLock l).stopChan c _

theorem BesideWrite.stopsPending (l : LockId) :
    t.stopsPending l (t.forceLock l true) = s.stopsPending l (s.forceLock l true) := by
  unfold State.stopsPending
  rw [h.locks, h.chans, (h.forceLock l true).chans]

/-- LOCK_FREE whose stop, if it causes one, is not left pending (R105). -/
theorem BesideWrite.doLockFree_done {l : LockId} (hp : s.stopsPending l (s.forceLock l true) = none) :
    t.doLockFree l = (s.forceLock l true).written 0 := by
  unfold State.doLockFree
  dsimp only
  rw [h.stopsPending, hp]
  exact (h.forceLock l true).completeWrite

/-- LOCK_FREE whose stop is pending (R105, R132). -/
theorem BesideWrite.doLockFree_held {l : LockId} {c : ChanId} (hp : s.stopsPending l (s.forceLock l true) = some c) :
    t.doLockFree l = (s.forceLock l true).modPort 0 fun pt => pt.holding .write a v (.lockFree c) := by
  unfold State.doLockFree
  dsimp only
  rw [h.stopsPending, hp]
  exact (h.forceLock l true).setWait_lockFree c

end

/-! ## The forcing of a lock (R103, R105) -/

theorem State.forceLock_free {s : State} {l : LockId} (b : Bool) (h : s.locks[l].holder = none) : s.forceLock l b = s := by
  unfold State.forceLock
  rw [h]

theorem State.forceLock_port {s : State} {l : LockId} (b : Bool) {q : PortId} (h : s.locks[l].holder = some (.port q)) :
    s.forceLock l b = (s.deliver q .lockLost (lockLostDetail l b)).released l := by
  unfold State.forceLock
  rw [h]
  exact State.releaseLock_eq_released _ _

theorem State.forceLock_chan {s : State} {l : LockId} (b : Bool) {c : ChanId} (h : s.locks[l].holder = some (.chan c)) :
    s.forceLock l b = (s.released l).stopChan c .leaseLost := by
  unfold State.forceLock
  rw [h, ← State.releaseLock_eq_released]

theorem State.leaseDue_iff (s : State) (l : LockId) :
    s.leaseDue l = true ↔ s.locks[l].timer = some 0 ∧ s.locks[l].holder.isSome = true := by
  unfold State.leaseDue
  rw [Bool.and_eq_true, decide_eq_true_iff]

/-- LEASE_EXPIRY of a held lock whose timer has run out forces it (R103). -/
theorem exec_leaseExpiry_due {s : State} {l : LockId} {x : Claimant} (ht : s.locks[l].timer = some 0)
    (hh : s.locks[l].holder = some x) : exec (.leaseExpiry l) s = .next (s.forceLock l false) := by
  have hd : s.leaseDue l = true := (s.leaseDue_iff l).mpr ⟨ht, by rw [hh]; rfl⟩
  show Host.Outcome.next (s.leaseExpires l) = _
  unfold State.leaseExpires
  rw [if_pos hd]

theorem exec_leaseExpiry_early {s : State} {l : LockId} (h : s.locks[l].timer ≠ some 0 ∨ s.locks[l].holder = none) :
    exec (.leaseExpiry l) s = .next s := by
  have hd : ¬s.leaseDue l = true := by
    rw [State.leaseDue_iff]
    rintro ⟨ht, hh⟩
    obtain h | h := h
    · exact h ht
    · rw [h] at hh
      exact Bool.noConfusion hh
  show Host.Outcome.next (s.leaseExpires l) = _
  unfold State.leaseExpires
  rw [if_neg hd]

/-- LOCK_HANDOVER releases a lock without a holder (log 7). -/
theorem exec_lockHandover (s : State) (l : LockId) :
    exec (.lockHandover l) s = .next (if s.locks[l].holder.isNone then s.releaseLock l else s) := rfl

theorem controlOf_lockFree (l : LockId) : controlOf (Control.lockFree l).word = some (.lockFree l) := by
  revert l
  decide

/-- A LOCK_FREE write of P0 reaches the lock unit (R9). -/
theorem exec_lockFree {s : State} (h : s.ready 0) (l : LockId) : exec (.lockFree 0 l) s =
    .next ((s.taking 0 .write 0x3FDFD#18 (BitVec.ofNat 16 (0x300 + l.val))).doLockFree l) := by
  rw [exec_portWord h (i := .lockFree 0 l) rfl 13 rfl, State.portWindow_write _ _ rfl (.inr rfl)]
  show Host.Outcome.next (State.writeControl 0 (Control.lockFree l).word _) = _
  unfold State.writeControl
  rw [controlOf_lockFree]
  rfl

/-! ## What a release leaves of a channel, and what the end of a run leaves pending -/

theorem State.announceGrant_reqs (s : State) (l : LockId) (c : Claimant) :
    (s.announceGrant l c).reqs = s.reqs ∧ (s.announceGrant l c).inProg = s.inProg := by
  cases c with
  | port p =>
    show (s.deliver p .lockGrant _).reqs = _ ∧ (s.deliver p .lockGrant _).inProg = _
    rw [State.deliver_eq]
    exact ⟨rfl, rfl⟩
  | chan d => exact ⟨rfl, rfl⟩

theorem State.releaseLock_reqs (s : State) (l : LockId) :
    (s.releaseLock l).reqs = s.reqs ∧ (s.releaseLock l).inProg = s.inProg := by
  cases h : s.locks[l].waiters with
  | nil => unfold State.releaseLock; rw [h]; exact ⟨rfl, rfl⟩
  | cons c rest => rw [State.releaseLock_cons h]; exact State.announceGrant_reqs _ _ _

/-- Whether an access of a channel is presented is seen at the arbiter, at the memory port and at the rings. -/
theorem State.chanPresented_congr {s t : State} (hq : t.reqs = s.reqs) (hp : t.inProg = s.inProg) (hr : t.rings = s.rings)
    (c : ChanId) : t.chanPresented c = s.chanPresented c := by
  unfold State.chanPresented State.postIssued
  rw [hq, hp, hr]

theorem State.releaseLock_chanPresented (s : State) (l : LockId) (c : ChanId) :
    (s.releaseLock l).chanPresented c = s.chanPresented c :=
  State.chanPresented_congr (s.releaseLock_reqs l).1 (s.releaseLock_reqs l).2 (s.releaseLock_rings l) c

theorem State.releaseLock_stopPending (s : State) (l : LockId) (c : ChanId) :
    (s.releaseLock l).chans[c].stopPending = s.chans[c].stopPending :=
  (SameChans.refl (·.stopPending) s).releaseLock (fun _ _ => rfl) l c

/-- A hand-over takes no channel out of IDLE and none into it (R101). -/
theorem State.releaseLock_idle (s : State) (l : LockId) (c : ChanId) :
    (s.releaseLock l).chans[c].state = .idle ↔ s.chans[c].state = .idle := by
  cases h : s.locks[l].waiters with
  | nil => unfold State.releaseLock; rw [h]; exact Iff.rfl
  | cons x rest =>
    rw [State.releaseLock_cons h]
    cases x with
    | port p =>
      show (State.deliver p .lockGrant _ _).chans[c].state = _ ↔ _
      rw [State.deliver_eq]
      exact Iff.rfl
    | chan d =>
      show (upd s.chans d _)[c].state = _ ↔ _
      rw [upd_get]
      split
      · dsimp only
        split
        · next hw => rw [hw]; exact ⟨fun e => (nomatch e), fun e => (nomatch e)⟩
        · exact Iff.rfl
      · exact Iff.rfl

theorem State.endRun_stopPending (s : State) (c : ChanId) (st : Status) : (s.endRun c st).chans[c].stopPending = none := by
  have h0 : (s.modChan c fun k => k.ended st).chans[c].stopPending = none := by
    show (upd s.chans c _)[c].stopPending = none
    rw [upd_get, if_pos rfl]
    rfl
  have hk : SameChans (·.stopPending) (s.modChan c fun k => k.ended st) (s.endRun c st) := by
    have h1 := ((SameChans.refl (·.stopPending) (s.modChan c fun k => k.ended st)).withdrawFromRings (fun _ _ => rfl)
      c).leaveLock (fun _ _ => rfl) c
    exact (h1.deliverDone c st).finishLockFree c
  exact (hk c).trans h0

/-- A lock that no channel holds stops none. -/
theorem State.stopsPending_noChan {s : State} {l : LockId} (t : State) (h : ∀ c : ChanId, s.locks[l].holder ≠ some (.chan c)) :
    s.stopsPending l t = none := by
  unfold State.stopsPending
  split
  · next c e => exact absurd e (h c)
  · rfl

/-- A stop that is not left pending: of an IDLE channel, of one whose stop is pending already, or of one of which nothing is
presented (R131, R133). -/
theorem State.stopsPending_none {s : State} {l : LockId} {c : ChanId} (h : s.locks[l].holder = some (.chan c))
    (hc : s.chans[c].state = .idle ∨ s.chans[c].stopPending.isSome = true ∨ s.chanPresented c = false) :
    s.stopsPending l (s.forceLock l true) = none := by
  have key : (s.chans[c].stopPending.isNone && (s.forceLock l true).chans[c].stopPending.isSome) = false := by
    rw [State.forceLock_chan _ h, ← State.releaseLock_eq_released]
    cases hp : s.chans[c].stopPending with
    | some x => rfl
    | none =>
      have hr := (s.releaseLock_stopPending l c).trans hp
      obtain hi | hi | hi := hc
      · rw [State.stopChan_idle _ (.inl ((s.releaseLock_idle l c).mpr hi)), hr]
        rfl
      · rw [hp] at hi
        exact Bool.noConfusion hi
      · by_cases hs : s.chans[c].state = .idle
        · rw [State.stopChan_idle _ (.inl ((s.releaseLock_idle l c).mpr hs)), hr]
          rfl
        · rw [State.stopChan_running _ (fun e => hs ((s.releaseLock_idle l c).mp e)) hr,
            State.stopRun_now _ ((s.releaseLock_chanPresented l c).trans hi), State.endRun_stopPending]
          rfl
  unfold State.stopsPending
  rw [h]
  dsimp only
  rw [key, if_neg Bool.false_ne_true]

/-- A stop that is left pending: an access of the channel is presented (R131). -/
theorem State.stopsPending_some {s : State} {l : LockId} {c : ChanId} (h : s.locks[l].holder = some (.chan c))
    (hs : s.chans[c].state ≠ .idle) (hp : s.chans[c].stopPending = none) (hc : s.chanPresented c = true) :
    s.stopsPending l (s.forceLock l true) = some c := by
  have key : (s.forceLock l true).chans[c].stopPending = some .leaseLost := by
    rw [State.forceLock_chan _ h, ← State.releaseLock_eq_released,
      State.stopChan_running _ (fun e => hs ((s.releaseLock_idle l c).mp e)) ((s.releaseLock_stopPending l c).trans hp),
      State.stopRun_pending _ ((s.releaseLock_chanPresented l c).trans hc)]
    exact congrArg Chan.stopPending ((upd_get _ _ _ _).trans (if_pos rfl))
  unfold State.stopsPending
  rw [h]
  dsimp only
  rw [hp, key]
  rfl

/-! ## O30: locks forced -/

/-- Settles O30: each clause is the forcing of the lock, LOCK_FREE's beside the write of P0 that asks for it. -/
theorem locksForced : Obligations.LocksForced := by
  intro s l
  refine ⟨exec_leaseExpiry_early, fun q ht hh => ?_, fun c ht hh => ?_, fun hh => ?_, fun hh => ?_, fun hr => ?_⟩
  · rw [exec_leaseExpiry_due ht hh, State.forceLock_port _ hh]
    rfl
  · rw [exec_leaseExpiry_due ht hh, State.forceLock_chan _ hh]
  · rw [exec_lockHandover, if_neg (by rw [Option.isNone_iff_eq_none]; exact Option.isSome_iff_ne_none.mp hh)]
  · rw [exec_lockHandover, hh, State.releaseLock_eq_released]
    rfl
  have hw := BesideWrite.taking 0x3FDFD#18 (BitVec.ofNat 16 (0x300 + l.val)) hr.2
  rw [exec_lockFree hr]
  refine ⟨fun hh => ?_, fun q hh => ?_, fun c hh => ⟨fun hc => ?_, fun hs hp hc => ?_⟩⟩
  · rw [hw.doLockFree_done (State.stopsPending_noChan _ fun c e => (nomatch hh.symm.trans e)), State.forceLock_free _ hh]
  · rw [hw.doLockFree_done (State.stopsPending_noChan _ fun c e => (nomatch hh.symm.trans e)), State.forceLock_port _ hh]
    rfl
  · rw [hw.doLockFree_done (State.stopsPending_none hh hc), State.forceLock_chan _ hh]
  · rw [hw.doLockFree_held (State.stopsPending_some hh hs hp hc), State.forceLock_chan _ hh]

end Sys2Proof.Machine

/-! PROOFS. A claimant that waits nowhere is spared: what rings, locks and ends of runs do to the claimants that wait leaves
alone the port that waits for nothing, and the channel, with what the channel has at the arbiter, at the memory port and in
flight (R76, R87, R101, R130 to R132). -/

namespace Sys2Proof.Machine

/-! ## A claimant that waits nowhere -/

/-- Port `p` owns the take assembly. -/
def Ring.ownsTake (k : Ring) (p : PortId) : Bool := k.takeAsm.any fun a => decide (a.owner = p)

/-- Nothing of the claimant waits at the ring: in its stall queue, in its hold list, or as the opened post awaiting issue. -/
structure Ring.Clears (k : Ring) (x : Claimant) : Prop where
  stall : ∀ e ∈ k.stall, e.post.who ≠ x
  hold : ∀ i ∈ k.hold, i.who ≠ x
  awaiting : ∀ q, k.awaiting = some q → q.who ≠ x

/-- The claimant neither holds the lock nor stands in its queue. -/
def Lock.Clears (k : Lock) (x : Claimant) : Prop := k.holder ≠ some x ∧ x ∉ k.waiters

/-- The claimant waits at no ring, claims no lock, and, if it is P0, waits for no stop with a LOCK_FREE write. -/
structure State.Gone (s : State) (x : Claimant) : Prop where
  rings : ∀ r : RingId, s.rings[r].Clears x
  locks : ∀ l : LockId, s.locks[l].Clears x
  unawaited : x = .port 0 → ∀ c : ChanId, s.unawaited c

/-- Ring `k'` is `k` after changes that do not concern the claimant, which has nothing waiting there: it gains no assembly, and
if it is a channel, its write in flight is there as before. -/
structure Ring.Spares (x : Claimant) (k k' : Ring) : Prop where
  clears : k'.Clears x
  post : k'.ownsPost x = true → k.ownsPost x = true
  take : ∀ p : PortId, x = .port p → k'.ownsTake p = true → k.ownsTake p = true
  flight : ∀ c : ChanId, x = .chan c → k'.postInFlight c = k.postInFlight c

/-- A pending slot stays pending, with the detail of its first delivery (R38). -/
def KeepsNotices (s t : State) : Prop :=
  ∀ (p : PortId) (i : SlotId) (y : Notice), s.ctls[p].slots[i].notice = some y →
    ∃ z : Notice, t.ctls[p].slots[i].notice = some z ∧ z.detail = y.detail

/-- State `t` is `s` after changes that do not concern the claimant, which waits nowhere: as a port it keeps its record and its
request, as a channel its record. The engine's request, the access in progress, the fault record, what pending slots show, and
what stands at channels through their runs are the same for all. -/
structure Spares (x : Claimant) (s t : State) : Prop where
  gone : t.Gone x
  rings : ∀ r : RingId, Ring.Spares x s.rings[r] t.rings[r]
  port : ∀ p : PortId, x = .port p → t.ports[p] = s.ports[p] ∧ t.reqs[reqOfPort p] = s.reqs[reqOfPort p]
  chan : ∀ c : ChanId, x = .chan c → t.chans[c] = s.chans[c]
  engine : t.reqs[(4 : Fin 5)] = s.reqs[(4 : Fin 5)] ∧ t.inProg = s.inProg
  fault : t.fault = s.fault
  tasks : SameChans (fun k => (k.desc, k.owner)) s t
  notices : KeepsNotices s t

/-! ## Rings -/

theorem Ring.Spares.refl {x : Claimant} {k : Ring} (h : k.Clears x) : Ring.Spares x k k :=
  ⟨h, id, fun _ _ => id, fun _ _ => rfl⟩

theorem Ring.Spares.trans {x : Claimant} {k l m : Ring} (h : Ring.Spares x k l) (j : Ring.Spares x l m) : Ring.Spares x k m :=
  ⟨j.clears, fun e => h.post (j.post e), fun p hp e => h.take p hp (j.take p hp e),
    fun c hc => (j.flight c hc).trans (h.flight c hc)⟩

section
variable {x : Claimant} {k : Ring} (h : k.Clears x)
include h

/-- A ring where only waiting posts have left. -/
theorem Ring.Clears.shrink {k' : Ring} (hs : ∀ e ∈ k'.stall, e ∈ k.stall) (hh : ∀ i ∈ k'.hold, i ∈ k.hold)
    (ha : ∀ q, k'.awaiting = some q → k.awaiting = some q) : k'.Clears x :=
  ⟨fun e he => h.stall e (hs e he), fun i hi => h.hold i (hh i hi), fun q hq => h.awaiting q (ha q hq)⟩

theorem Ring.Clears.launch {q : Post} (hq : q.who ≠ x) (hn : k.inFlight = none) (d : Dir) (a : Addr) (b : Bool) :
    Ring.Spares x k (k.launch q d a b) := by
  refine ⟨h.shrink (fun _ e => e) (fun _ e => e) fun _ e => e, id, fun _ _ => id, fun c hc => ?_⟩
  subst hc
  show decide (q.who = .chan c) = k.inFlight.any _
  rw [hn, decide_eq_false hq]
  rfl

theorem Ring.Clears.opened {y : Claimant} (hy : y ≠ x) (n : Nat) :
    Ring.Spares x k { k with postAsm := some { owner := y, words := n } } := by
  refine ⟨h.shrink (fun _ e => e) (fun _ e => e) fun _ e => e, fun e => ?_, fun _ _ => id, fun _ _ => rfl⟩
  exact absurd (of_decide_eq_true e) hy

theorem Ring.Clears.awaits {q : Post} (hq : q.who ≠ x) : Ring.Spares x k { k with awaiting := some q } := by
  refine ⟨⟨h.stall, h.hold, fun y hy => ?_⟩, id, fun _ _ => id, fun _ _ => rfl⟩
  exact Option.some.inj hy ▸ hq

theorem Ring.Clears.issued : Ring.Spares x k { k with awaiting := none } :=
  ⟨⟨h.stall, h.hold, fun _ e => nomatch e⟩, id, fun _ _ => id, fun _ _ => rfl⟩

theorem Ring.Clears.unstalled {e : StallEntry} {rest : List StallEntry} (he : k.stall = e :: rest) :
    Ring.Spares x k { k with stall := rest } :=
  ⟨h.shrink (fun _ m => he ▸ List.mem_cons_of_mem _ m) (fun _ m => m) fun _ m => m, id, fun _ _ => id, fun _ _ => rfl⟩

theorem Ring.Clears.takenUp {i : HoldItem} {rest : List HoldItem} (hi : k.hold = i :: rest) :
    Ring.Spares x k { k with hold := rest } :=
  ⟨h.shrink (fun _ m => m) (fun _ m => hi ▸ List.mem_cons_of_mem _ m) fun _ m => m, id, fun _ _ => id, fun _ _ => rfl⟩

theorem Ring.Clears.stalled {q : Post} (hq : q.who ≠ x) (n : Option Nat) : Ring.Spares x k (k.stalled q n) := by
  refine ⟨⟨fun e he => ?_, h.hold, h.awaiting⟩, id, fun _ _ => id, fun _ _ => rfl⟩
  obtain he | he := List.mem_append.mp he
  · exact h.stall e (List.mem_of_mem_filter he)
  · rw [List.mem_singleton.mp he]
    exact hq

theorem Ring.Clears.disowned : Ring.Spares x k { k with postAsm := none, awaiting := none } :=
  ⟨⟨h.stall, h.hold, fun _ e => nomatch e⟩, fun e => Bool.noConfusion e, fun _ _ => id, fun _ _ => rfl⟩

theorem Ring.Clears.discardPost (y : Claimant) : Ring.Spares x k (k.discardPost y) := by
  unfold Ring.discardPost
  split
  · split
    · exact h.disowned
    · exact .refl h
  · exact .refl h

theorem Ring.Clears.leaveAfter : Ring.Spares x k k.leaveAfter := by
  refine ⟨⟨h.stall, h.hold, h.awaiting⟩, id, fun _ _ => id, fun c _ => ?_⟩
  unfold Ring.postInFlight Ring.leaveAfter
  cases k.inFlight <;> rfl

theorem Ring.Clears.withoutClaimant (y : Claimant) : Ring.Spares x k (k.withoutClaimant y) :=
  ⟨h.shrink (fun _ => List.mem_of_mem_filter) (fun _ => List.mem_of_mem_filter) fun _ m => m, id, fun _ _ => id,
    fun _ _ => rfl⟩

theorem Ring.Clears.withoutWaiting (c : ChanId) : Ring.Spares x k (k.withoutWaiting c) :=
  ⟨h.shrink (fun _ => List.mem_of_mem_filter) (fun _ => List.mem_of_mem_filter) fun _ m => (Option.filter_eq_some_iff.mp m).1,
    id, fun _ _ => id, fun _ _ => rfl⟩

theorem Ring.Clears.takeOpened {p : PortId} (hp : .port p ≠ x) (n : Nat) :
    Ring.Spares x k { k with takeAsm := some { owner := p, words := n } } := by
  refine ⟨⟨h.stall, h.hold, h.awaiting⟩, id, fun q hq e => ?_, fun _ _ => rfl⟩
  exact absurd ((congrArg Claimant.port (of_decide_eq_true e)).trans hq.symm) hp

/-- A claimant that waits nowhere has nothing to be removed. -/
theorem Ring.Clears.withoutClaimant_self : k.withoutClaimant x = k := by
  have hs : k.stall.filter (fun e => decide (e.post.who ≠ x)) = k.stall :=
    List.filter_eq_self.mpr fun e he => decide_eq_true (h.stall e he)
  have hh : k.hold.filter (fun i => !i.ofClaimant x) = k.hold :=
    List.filter_eq_self.mpr fun i hi => by rw [HoldItem.ofClaimant_eq, decide_eq_false (h.hold i hi)]; rfl
  unfold Ring.withoutClaimant Ring.withoutStalled
  rw [hs, hh]

end

theorem Ring.Clears.withoutWaiting_self {k : Ring} {c : ChanId} (h : k.Clears (.chan c)) : k.withoutWaiting c = k := by
  have ha : (k.awaiting.filter fun q => decide (q.who ≠ .chan c)) = k.awaiting := by
    cases e : k.awaiting with
    | none => rfl
    | some q => exact Option.filter_some_pos (decide_eq_true (h.awaiting q e))
  unfold Ring.withoutWaiting
  rw [h.withoutClaimant_self, ha]

/-! ## Changes of one record -/

theorem State.modRing_ring_same (s : State) (r : RingId) (f : Ring → Ring) : (s.modRing r f).rings[r] = f s.rings[r] :=
  (upd_get _ _ _ _).trans (if_pos rfl)

theorem KeepsNotices.refl (s : State) : KeepsNotices s s := fun _ _ y h => ⟨y, h, rfl⟩

theorem KeepsNotices.trans {s t u : State} (h : KeepsNotices s t) (k : KeepsNotices t u) : KeepsNotices s u := fun p i y e => by
  obtain ⟨z, hz, hd⟩ := h p i y e
  obtain ⟨w, hw, hd'⟩ := k p i z hz
  exact ⟨w, hw, hd'.trans hd⟩

theorem Spares.refl {x : Claimant} {s : State} (h : s.Gone x) : Spares x s s :=
  ⟨h, fun r => .refl (h.rings r), fun _ _ => ⟨rfl, rfl⟩, fun _ _ => rfl, ⟨rfl, rfl⟩, rfl, .refl _ s, .refl s⟩

theorem Spares.foldl {α : Type} {x : Claimant} {f : State → α → State}
    (hf : ∀ {s t : State} (a : α), Spares x s t → Spares x s (f t a)) :
    ∀ (l : List α) {s t : State}, Spares x s t → Spares x s (l.foldl f t)
  | [], _, _, h => h
  | a :: l, _, _, h => Spares.foldl hf l (hf a h)

/-- A latched slot keeps its first detail (R38). -/
theorem Slot.latch_notice (sl : Slot) (d : Word) : ∃ z : Notice, (sl.latch d).notice = some z ∧
    ∀ y : Notice, sl.notice = some y → z.detail = y.detail := by
  unfold Slot.latch
  cases sl.notice with
  | none => exact ⟨_, rfl, fun _ e => nomatch e⟩
  | some n => exact ⟨_, rfl, fun _ e => Option.some.inj e ▸ rfl⟩

theorem KeepsNotices.deliver (s : State) (p : PortId) (src : Source) (d : Word) : KeepsNotices s (s.deliver p src d) := by
  unfold State.deliver
  split
  · split
    · exact .refl s
    · next i _ =>
      intro q j y hy
      show ∃ z, ((upd s.ctls p _)[q]).slots[j].notice = some z ∧ _
      rw [upd_get]
      split
      · next e =>
        subst e
        dsimp only
        rw [upd_get]
        split
        · next e =>
          subst e
          obtain ⟨z, hz, hd⟩ := Slot.latch_notice s.ctls[p].slots[i] d
          exact ⟨z, hz, hd y hy⟩
        · exact ⟨y, hy, rfl⟩
      · exact ⟨y, hy, rfl⟩
  · exact .refl s

section
variable {x : Claimant} {s t : State} (h : Spares x s t)
include h

theorem Spares.modRing (r : RingId) {f : Ring → Ring} (hf : Ring.Spares x t.rings[r] (f t.rings[r])) :
    Spares x s (t.modRing r f) := by
  have hr (q : RingId) : Ring.Spares x t.rings[q] (t.modRing r f).rings[q] := by
    show Ring.Spares x t.rings[q] (upd t.rings r f)[q]
    rw [upd_get]
    split
    · next e => subst e; exact hf
    · exact .refl (h.gone.rings q)
  exact { h with
    gone := ⟨fun q => (hr q).clears, h.gone.locks, h.gone.unawaited⟩
    rings := fun q => (h.rings q).trans (hr q) }

theorem Spares.modLock (l : LockId) {f : Lock → Lock} (hf : (f t.locks[l]).Clears x) : Spares x s (t.modLock l f) := by
  refine { h with gone := ⟨h.gone.rings, fun m => ?_, h.gone.unawaited⟩ }
  show (upd t.locks l f)[m].Clears x
  rw [upd_get]
  split
  · next e => subst e; exact hf
  · exact h.gone.locks m

theorem Spares.modChan (c : ChanId) {f : Chan → Chan} (hc : x ≠ .chan c)
    (hf : ∀ k, (f k).desc = k.desc ∧ (f k).owner = k.owner) : Spares x s (t.modChan c f) := by
  refine { h with
    gone := ⟨h.gone.rings, h.gone.locks, h.gone.unawaited⟩
    chan := fun d hd => ?_
    tasks := h.tasks.modChan c fun k => by rw [(hf k).1, (hf k).2] }
  show (upd t.chans c f)[d] = _
  rw [upd_other t.chans f (fun e => hc (e ▸ hd) : c ≠ d)]
  exact h.chan d hd

theorem Spares.modPort (p : PortId) (f : Port → Port) (hp : x ≠ .port p) : Spares x s (t.modPort p f) := by
  have ho (q : PortId) (hq : x = .port q) : (t.modPort p f).ports[q] = t.ports[q] :=
    State.modPort_port_other t f fun e => hp (e ▸ hq)
  refine { h with
    gone := ⟨h.gone.rings, h.gone.locks, fun hx c => ?_⟩
    port := fun q hq => ⟨(ho q hq).trans (h.port q hq).1, (h.port q hq).2⟩ }
  unfold State.unawaited
  rw [ho 0 hx]
  exact h.gone.unawaited hx c

theorem Spares.modReq (p : PortId) (f : Option Request → Option Request) (hp : x ≠ .port p) :
    Spares x s (t.modReq (reqOfPort p) f) := by
  refine { h with
    gone := ⟨h.gone.rings, h.gone.locks, h.gone.unawaited⟩
    port := fun q hq => ⟨(h.port q hq).1, ?_⟩
    engine := ⟨?_, h.engine.2⟩ }
  · show (upd t.reqs (reqOfPort p) f)[reqOfPort q] = _
    rw [upd_other t.reqs f fun e : reqOfPort p = reqOfPort q => hp (Fin.castSucc_injective _ e ▸ hq)]
    exact (h.port q hq).2
  · show (upd t.reqs (reqOfPort p) f)[(4 : Fin 5)] = _
    rw [upd_other t.reqs f (show reqOfPort p ≠ 4 from (Fin.castSucc_lt_last p).ne)]
    exact h.engine.1

theorem Spares.deliver (p : PortId) (src : Source) (d : Word) : Spares x s (t.deliver p src d) := by
  have hn := h.notices.trans (KeepsNotices.deliver t p src d)
  rw [State.deliver_eq] at hn ⊢
  exact { h with gone := ⟨h.gone.rings, h.gone.locks, h.gone.unawaited⟩, notices := hn }

theorem Spares.setWait {p : PortId} (w : CycleWait) (hp : x ≠ .port p) : Spares x s (t.setWait p w) := h.modPort p _ hp

theorem Spares.refuse {p : PortId} (r : Reason) (hp : x ≠ .port p) : Spares x s (t.refuse p r) := by
  unfold State.refuse
  split
  · exact h
  · exact ((h.modPort p _ hp).deliver p _ _).modPort p _ hp

/-! ## Locks -/

theorem Spares.announceGrant (l : LockId) {c : Claimant} (hc : x ≠ c) : Spares x s (t.announceGrant l c) := by
  cases c with
  | port p => exact h.deliver _ _ _
  | chan d => exact h.modChan d hc fun _ => ⟨rfl, rfl⟩

theorem Spares.releaseLock (l : LockId) : Spares x s (t.releaseLock l) := by
  obtain ⟨_, hw⟩ := h.gone.locks l
  cases e : t.locks[l].waiters with
  | nil =>
    unfold State.releaseLock
    rw [e]
    exact h.modLock l ⟨fun e => (nomatch e), hw⟩
  | cons c rest =>
    rw [e] at hw
    have hc : x ≠ c := fun e => hw (e ▸ List.mem_cons_self)
    rw [State.releaseLock_cons e]
    exact (h.modLock l ⟨fun e => hc (Option.some.inj e).symm, fun m => hw (List.mem_cons_of_mem _ m)⟩).announceGrant l hc

theorem Spares.leaveLock (c : ChanId) : Spares x s (t.leaveLock c) := by
  unfold State.leaveLock State.releaseForChan
  split
  · next l _ =>
    obtain ⟨hh, hw⟩ := h.gone.locks l
    split
    · exact h.releaseLock l
    · exact h.modLock l ⟨hh, fun m => hw (List.mem_of_mem_filter m)⟩
  · exact h

/-! ## Rings -/

theorem Spares.issueRing (r : RingId) {q : Post} (hq : q.who ≠ x) (hn : t.rings[r].inFlight = none) (d : Dir) (a : Addr) :
    Spares x s (t.issueRing r q d a) := by
  unfold State.issueRing
  split
  · next p e =>
    have hp : x ≠ .port p := fun e' => hq (e.trans e'.symm)
    exact ((h.modRing r ((h.gone.rings r).launch hq hn d a _)).modReq p _ hp).setWait _ hp
  · exact h.modRing r ((h.gone.rings r).launch hq hn d a _)

theorem Spares.issuePost (r : RingId) {q : Post} (hq : q.who ≠ x) (hn : t.rings[r].inFlight = none) :
    Spares x s (t.issuePost r q) := h.issueRing r hq hn _ _

theorem Spares.openPost (r : RingId) {q : Post} (hq : q.who ≠ x) : Spares x s (t.openPost r q) := by
  have h' := h.modRing r (f := fun k => { k with postAsm := some { owner := q.who, words := 0 } })
    ((h.gone.rings r).opened hq 0)
  unfold State.openPost
  dsimp only
  split
  · have h'' := h'.modRing r (f := fun k => { k with awaiting := some q }) ((h'.gone.rings r).awaits hq)
    split
    · next p e => exact h''.setWait _ fun e' => hq (e.trans e'.symm)
    · exact h''
  · next hn => exact h'.issuePost r hq (Option.not_isSome_iff_eq_none.mp hn)

theorem Spares.unstall {q : Post} (hq : q.who ≠ x) : Spares x s (t.unstall q) := by
  unfold State.unstall
  split
  · exact h
  · next c e =>
    split
    · exact h.modChan c (fun e' => hq (e.trans e'.symm)) fun _ => ⟨rfl, rfl⟩
    · exact h

theorem Spares.openHead (r : RingId) : Spares x s (t.openHead r) := by
  unfold State.openHead
  split
  · split
    · exact h
    · next e rest he =>
      have hq : e.post.who ≠ x := (h.gone.rings r).stall e (he ▸ List.mem_cons_self)
      exact ((h.modRing r ((h.gone.rings r).unstalled he)).unstall hq).openPost r hq
  · exact h

theorem Spares.joinStall (r : RingId) {q : Post} (hq : q.who ≠ x) : Spares x s (t.joinStall r q) := by
  unfold State.joinStall
  dsimp only
  split
  · next p e => exact (h.modRing r ((h.gone.rings r).stalled hq _)).setWait _ fun e' => hq (e.trans e'.symm)
  · next c e =>
    have h' := h.modRing r (f := (·.stalled q none)) ((h.gone.rings r).stalled hq none)
    split
    · exact h'.modChan c (fun e' => hq (e.trans e'.symm)) fun _ => ⟨rfl, rfl⟩
    · exact h'

theorem Spares.dropAssembly (y : Claimant) (r : RingId) : Spares x s (t.dropAssembly y r) := by
  have h' := h.modRing r (f := (·.discardPost y)) ((h.gone.rings r).discardPost y)
  unfold State.dropAssembly
  dsimp only
  split
  · exact h'.openHead r
  · exact h'

theorem Spares.closeAssembly (c : ChanId) (r : RingId) : Spares x s (t.closeAssembly c r) := by
  unfold State.closeAssembly
  split
  · exact h.modRing r (h.gone.rings r).leaveAfter
  · exact h.dropAssembly _ r

theorem Spares.closeAssemblies (c : ChanId) : Spares x s (t.closeAssemblies c) :=
  Spares.foldl (fun r k => k.closeAssembly c r) _ h

theorem Spares.withdrawFromRings (c : ChanId) : Spares x s (t.withdrawFromRings c) := by
  unfold State.withdrawFromRings
  split
  · next r _ => exact (h.modRing r ((h.gone.rings r).withoutClaimant _)).closeAssemblies c
  · exact h.closeAssemblies c

/-! ## Ends of runs -/

theorem Spares.deliverDone (c : ChanId) (st : Status) : Spares x s (t.deliverDone c st) := by
  unfold State.deliverDone
  split
  · exact h.deliver _ _ _
  · exact h

theorem Spares.finishLockFree (c : ChanId) : Spares x s (t.finishLockFree c) := by
  by_cases hx : x = .port 0
  · rw [State.finishLockFree_unawaited (h.gone.unawaited hx c)]
    exact h
  · unfold State.finishLockFree
    split
    · exact h.modPort 0 _ hx
    · exact h

theorem Spares.endRun {c : ChanId} (st : Status) (hc : x ≠ .chan c) : Spares x s (t.endRun c st) :=
  ((((h.modChan c (f := fun k => k.ended st) hc fun _ => ⟨rfl, rfl⟩).withdrawFromRings c).leaveLock c).deliverDone c
    st).finishLockFree c

theorem Spares.leaveQueue (c : ChanId) : Spares x s (t.leaveQueue c) := by
  have h' : Spares x s (if t.chans[c].state = .lockWait then t.leaveLock c else t) := by
    split
    · exact h.leaveLock c
    · exact h
  unfold State.leaveQueue
  dsimp only
  split
  · next r _ => exact h'.modRing r ((h'.gone.rings r).withoutWaiting c)
  · exact h'

theorem Spares.stopChan {c : ChanId} (st : Status) (hc : x ≠ .chan c) : Spares x s (t.stopChan c st) := by
  unfold State.stopChan State.stopRun
  split
  · exact h
  · split
    · exact h
    · split
      · exact (h.leaveQueue c).modChan c hc fun _ => ⟨rfl, rfl⟩
      · exact h.endRun st hc

/-! ## Take-up -/

theorem Spares.takeUpPost (r : RingId) {q : Post} (hq : q.who ≠ x) (hn : t.rings[r].inFlight = none) :
    Spares x s (t.takeUpPost r q) := by
  unfold State.takeUpPost
  split
  · split
    · next p e => exact h.refuse _ fun e' => hq (e.trans e'.symm)
    · next c e => exact h.stopChan _ fun e' => hq (e.trans e'.symm)
  · split
    · exact h.issuePost r hq hn
    · split
      · exact h.openPost r hq
      · split
        · next p e =>
          have hp : x ≠ .port p := fun e' => hq (e.trans e'.symm)
          split
          · exact h.joinStall r hq
          · split
            · exact (h.deliver _ _ _).refuse _ hp
            · exact h.refuse _ hp
        · exact h.joinStall r hq

theorem Spares.takeUpTake (r : RingId) {p : PortId} (hp : x ≠ .port p) (hn : t.rings[r].inFlight = none) :
    Spares x s (t.takeUpTake r p) := by
  have hq : Claimant.port p ≠ x := hp.symm
  unfold State.takeUpTake
  dsimp only
  split
  · exact h.refuse _ hp
  · split
    · exact h.refuse _ hp
    · split
      · split
        · exact h.issueRing r hq hn _ _
        · exact h.refuse _ hp
      · refine (h.modRing r ((h.gone.rings r).takeOpened hq 0)).issueRing r hq ?_ _ _
        rw [State.modRing_ring_same]
        exact hn

theorem Spares.takeUp (r : RingId) {i : HoldItem} (hi : i.who ≠ x) (hn : t.rings[r].inFlight = none) :
    Spares x s (t.takeUp r i) := by
  cases i with
  | post q => exact h.takeUpPost r hi hn
  | take p => exact h.takeUpTake r hi.symm hn

end

theorem Spares.takeUpHold {x : Claimant} (r : RingId) :
    ∀ (n : Nat) {s t : State}, Spares x s t → Spares x s (t.takeUpHold r n)
  | 0, _, _, h => h
  | n + 1, _, t, h => by
    unfold State.takeUpHold
    split
    · exact h
    · next hn =>
      split
      · exact h
      · next i rest hi =>
        refine Spares.takeUpHold r n ((h.modRing r ((h.gone.rings r).takenUp hi)).takeUp r
          ((h.gone.rings r).hold i (hi ▸ List.mem_cons_self)) ?_)
        rw [State.modRing_ring_same]
        exact Option.not_isSome_iff_eq_none.mp hn

section
variable {x : Claimant} {s t : State} (h : Spares x s t)
include h

theorem Spares.resumeRing (r : RingId) : Spares x s (t.resumeRing r) := by
  unfold State.resumeRing
  split
  · exact h
  · next hn =>
    split
    · next q hq =>
      refine (h.modRing r (h.gone.rings r).issued).issuePost r ((h.gone.rings r).awaiting q hq) ?_
      rw [State.modRing_ring_same]
      exact Option.not_isSome_iff_eq_none.mp hn
    · exact h.takeUpHold r _

theorem Spares.settleRing (r : RingId) : Spares x s (t.settleRing r) := (h.openHead r).resumeRing r

/-- An access of a channel that waits nowhere is presented as before. -/
theorem Spares.chanPresented {c : ChanId} (hc : x = .chan c) : t.chanPresented c = s.chanPresented c := by
  have hp : t.postIssued c = s.postIssued c := by
    unfold State.postIssued
    exact congrArg _ (funext fun r => (h.rings r).flight c hc)
  unfold State.chanPresented
  rw [h.engine.1, h.engine.2, hp]

end

/-! ## The end of a run of a channel that waits nowhere -/

/-- Nothing in the record of a channel says where a claimant waits. -/
theorem State.Gone.modChan {x : Claimant} {s : State} (h : s.Gone x) (c : ChanId) (f : Chan → Chan) : (s.modChan c f).Gone x :=
  ⟨h.rings, h.locks, h.unawaited⟩

/-- A claimant that waits nowhere waits nowhere after the end of a run, its own included. -/
theorem State.Gone.stopChan {x : Claimant} {s : State} (h : s.Gone x) (c : ChanId) (st : Status) :
    (s.stopChan c st).Gone x := by
  unfold State.stopChan State.stopRun
  split
  · exact h
  · split
    · exact h
    · split
      · exact ((Spares.refl h).leaveQueue c).gone.modChan c _
      · exact (((((Spares.refl (h.modChan c _)).withdrawFromRings c).leaveLock c).deliverDone c st).finishLockFree c).gone

/-- A channel that claims no lock has none to give up. -/
theorem State.Gone.leaveLock {s : State} {c : ChanId} (h : s.Gone (.chan c)) : s.leaveLock c = s := by
  unfold State.leaveLock State.releaseForChan
  split
  · next l _ =>
    obtain ⟨hh, hw⟩ := h.locks l
    rw [if_neg hh]
    have hf : s.locks[l].waiters.filter (fun d => !decide (d = .chan c)) = s.locks[l].waiters :=
      List.filter_eq_self.mpr fun d hd => by
        have hn : d ≠ .chan c := fun e => hw (e ▸ hd)
        rw [decide_eq_false hn]
        rfl
    unfold State.dropWaiters State.modLock
    rw [upd_id]
    rw [hf]
  · rfl

/-- A stop of a channel that waits nowhere, left pending, is a change of its record alone. -/
theorem State.Gone.stopChan_pending {s : State} {c : ChanId} (h : s.Gone (.chan c)) (st : Status)
    (hs : s.chans[c].state ≠ .idle) (hp : s.chans[c].stopPending = none) (hc : s.chanPresented c = true) :
    s.stopChan c st = s.modChan c fun k => { k with stopPending := some st } := by
  have hq : s.leaveQueue c = s := by
    unfold State.leaveQueue
    dsimp only
    rw [h.leaveLock, ite_self]
    split
    · next r _ => exact State.modRing_self (h.rings r).withoutWaiting_self
    · rfl
  rw [State.stopChan_running _ hs hp, State.stopRun_pending _ hc, hq]

/-- The end of a run of a channel that waits nowhere: its assemblies, CHAN-DONE, and the waiting LOCK_FREE write. -/
theorem State.Gone.endRun {s : State} {c : ChanId} (h : s.Gone (.chan c)) (st : Status) :
    s.endRun c st = ((((s.modChan c fun k => k.ended st).closeAssemblies c).deliverDone c st).finishLockFree c) := by
  have h' := h.modChan c fun k => k.ended st
  have hr : (s.modChan c fun k => k.ended st).withdrawFromRings c = (s.modChan c fun k => k.ended st).closeAssemblies c := by
    unfold State.withdrawFromRings
    split
    · next r _ => rw [State.modRing_self (h'.rings r).withoutClaimant_self]
    · rfl
  unfold State.endRun
  rw [hr, ((Spares.refl h').closeAssemblies c).gone.leaveLock]

/-- After its assembly at a ring is closed, with no write of its own in flight there, the channel owns none there. -/
theorem State.closeAssembly_disowned {s : State} {c : ChanId} (h : s.Gone (.chan c)) {r : RingId}
    (hf : s.rings[r].postInFlight c = false) : (s.closeAssembly c r).rings[r].ownsPost (.chan c) = false := by
  unfold State.closeAssembly
  rw [hf, Bool.and_false, if_neg Bool.false_ne_true]
  cases ho : s.rings[r].ownsPost (.chan c) with
  | false => rw [State.dropAssembly_of_unowned ho, ho]
  | true =>
    rw [State.dropAssembly_of_owner ho]
    have h' := ((Spares.refl h).modRing r (f := fun k => { k with postAsm := none, awaiting := none })
      (h.rings r).disowned).gone
    refine Bool.eq_false_iff.mpr fun hb => ?_
    have hn := ((Spares.refl h').openHead r |>.rings r).post hb
    rw [State.modRing_ring_same] at hn
    exact Bool.noConfusion hn

/-- A channel that waits nowhere, with no write in flight, owns no assembly after its assemblies are closed (R71). -/
theorem State.closeAssemblies_disowned {s : State} {c : ChanId} (h : s.Gone (.chan c))
    (hf : ∀ r : RingId, s.rings[r].postInFlight c = false) (r : RingId) :
    (s.closeAssemblies c).rings[r].ownsPost (.chan c) = false := by
  obtain ⟨before, after, e⟩ := List.append_of_mem (mem_allRings r)
  unfold State.closeAssemblies
  rw [e, List.foldl_append, List.foldl_cons]
  have hb : Spares (.chan c) s (before.foldl (fun t q => t.closeAssembly c q) s) :=
    Spares.foldl (fun q k => k.closeAssembly c q) before (.refl h)
  have hr := State.closeAssembly_disowned hb.gone (((hb.rings r).flight c rfl).trans (hf r))
  have ha := Spares.foldl (fun q k => k.closeAssembly c q) after (.refl (hb.closeAssembly c r).gone)
  exact Bool.eq_false_iff.mpr fun ho => Bool.eq_false_iff.mp hr ((ha.rings r).post ho)

end Sys2Proof.Machine

/-! PROOFS. Rings that settle where no channel stops by it (R68, R76, log 16), and stops of channels that wait nowhere: the locks,
the other rings and the channels that nothing of it concerns stand, and what becomes of a ring is seen from the ring and its
record alone. -/

namespace Sys2Proof.Machine

/-! ## Steps by which no lock, no kept ring and no bystanding channel changes -/

/-- No ring holds a post that stops a channel or calls an IDLE one back: the posts in hold lists are of channels that are not
`out`, at enabled rings, and a live one's channel is not IDLE. -/
def HoldsSound (out : ChanId → Bool) (s : State) : Prop :=
  ∀ (r : RingId) (q : Post) (c : ChanId), .post q ∈ s.rings[r].hold → q.who = .chan c →
    out c = false ∧ s.recs[r].enable = true ∧ (q.live = true → s.chans[c].state ≠ .idle)

/-- The channel has no post in a hold list. -/
def State.unheld (s : State) (c : ChanId) : Prop := ∀ r : RingId, ∀ i ∈ s.rings[r].hold, i.who ≠ .chan c

/-- State `t` is `s` with rings settled and channels that are `out` stopped: locks, ring records and kept rings stand, hold lists
have gained nothing, no other channel has become IDLE or left IDLE, and one in RUN whose posts no ring holds is as it was. -/
structure Steady (out : ChanId → Bool) (kept : RingId → Prop) (s t : State) : Prop where
  locks : t.locks = s.locks
  recs : t.recs = s.recs
  rings : ∀ r : RingId, kept r → t.rings[r] = s.rings[r]
  hold : ∀ r : RingId, ∀ i ∈ t.rings[r].hold, i ∈ s.rings[r].hold
  idle : ∀ c : ChanId, out c = false → (t.chans[c].state = .idle ↔ s.chans[c].state = .idle)
  run : ∀ c : ChanId, out c = false → s.chans[c].state = .run → s.unheld c → t.chans[c] = s.chans[c]

theorem Steady.refl (out : ChanId → Bool) (kept : RingId → Prop) (s : State) : Steady out kept s s :=
  ⟨rfl, rfl, fun _ _ => rfl, fun _ _ => id, fun _ _ => Iff.rfl, fun _ _ _ _ => rfl⟩

section
variable {out : ChanId → Bool} {kept : RingId → Prop} {s t : State} (h : Steady out kept s t)
include h

/-- Changes of nothing that a steady step keeps. -/
theorem Steady.of_same {u : State} (hl : u.locks = t.locks) (hr : u.recs = t.recs) (hk : u.rings = t.rings)
    (hc : u.chans = t.chans) : Steady out kept s u :=
  ⟨hl.trans h.locks, hr.trans h.recs, by rw [hk]; exact h.rings, by rw [hk]; exact h.hold, by rw [hc]; exact h.idle,
    by rw [hc]; exact h.run⟩

theorem Steady.modPort (p : PortId) (f : Port → Port) : Steady out kept s (t.modPort p f) := h.of_same rfl rfl rfl rfl

theorem Steady.modReq (q : Fin 5) (f : Option Request → Option Request) : Steady out kept s (t.modReq q f) :=
  h.of_same rfl rfl rfl rfl

theorem Steady.deliver (p : PortId) (src : Source) (d : Word) : Steady out kept s (t.deliver p src d) := by
  rw [State.deliver_eq]
  exact h.of_same rfl rfl rfl rfl

theorem Steady.refuse (p : PortId) (r : Reason) : Steady out kept s (t.refuse p r) := by
  unfold State.refuse
  split
  · exact h
  · exact ((h.modPort p _).deliver p _ _).modPort p _

theorem Steady.modRing {r : RingId} (hr : ¬kept r) {f : Ring → Ring}
    (hf : ∀ i ∈ (f t.rings[r]).hold, i ∈ t.rings[r].hold) : Steady out kept s (t.modRing r f) := by
  refine ⟨h.locks, h.recs, fun q hq => ?_, fun q i hi => ?_, h.idle, h.run⟩
  · rw [State.modRing_other _ (fun e => hr (e ▸ hq) : r ≠ q)]
    exact h.rings q hq
  · refine h.hold q i ?_
    by_cases e : r = q
    · subst e
      rw [State.modRing_ring_same] at hi
      exact hf i hi
    · rw [State.modRing_other _ e] at hi
      exact hi

theorem Steady.modChan (c : ChanId) {f : Chan → Chan}
    (hi : out c = false → ((f t.chans[c]).state = .idle ↔ s.chans[c].state = .idle))
    (hr : out c = false → s.chans[c].state = .run → s.unheld c → f t.chans[c] = s.chans[c]) :
    Steady out kept s (t.modChan c f) := by
  refine { h with idle := fun d hd => ?_, run := fun d hd hs hn => ?_ }
  · show (upd t.chans c f)[d].state = _ ↔ _
    rw [upd_get]
    split
    · next e => subst e; exact hi hd
    · exact h.idle d hd
  · show (upd t.chans c f)[d] = _
    rw [upd_get]
    split
    · next e => subst e; exact hr hd hs hn
    · exact h.run d hd hs hn

/-- A change of a channel that is `out`. -/
theorem Steady.modChan_out {c : ChanId} (hc : out c = true) (f : Chan → Chan) : Steady out kept s (t.modChan c f) :=
  h.modChan c (fun e => (nomatch hc.symm.trans e)) fun e => (nomatch hc.symm.trans e)

theorem Steady.deliverDone (c : ChanId) (st : Status) : Steady out kept s (t.deliverDone c st) := by
  unfold State.deliverDone
  split
  · exact h.deliver _ _ _
  · exact h

theorem Steady.finishLockFree (c : ChanId) : Steady out kept s (t.finishLockFree c) := by
  unfold State.finishLockFree
  split
  · exact h.modPort _ _
  · exact h

/-! ### Posts that open and wait -/

theorem Steady.issueRing {r : RingId} (hr : ¬kept r) (q : Post) (d : Dir) (a : Addr) :
    Steady out kept s (t.issueRing r q d a) := by
  unfold State.issueRing
  split
  · exact ((h.modRing hr fun _ => id).modReq _ _).modPort _ _
  · exact h.modRing hr fun _ => id

theorem Steady.openPost {r : RingId} (hr : ¬kept r) (q : Post) : Steady out kept s (t.openPost r q) := by
  have h' := h.modRing hr (f := fun k => { k with postAsm := some { owner := q.who, words := 0 } }) fun _ => id
  unfold State.openPost
  dsimp only
  split
  · have h'' := h'.modRing hr (f := fun k => { k with awaiting := some q }) fun _ => id
    split
    · exact h''.modPort _ _
    · exact h''
  · exact h'.issueRing hr _ _ _

/-- A channel whose stalled post opens goes from STALL to RUN, and one that is in RUN stays there (R86). -/
theorem Steady.unstall (q : Post) : Steady out kept s (t.unstall q) := by
  unfold State.unstall
  split
  · exact h
  · next c _ =>
    split
    · refine h.modChan c (fun hc => ?_) fun hc hs hn => ?_
      · rw [← h.idle c hc]
        split
        · next e => rw [e]; exact ⟨fun e => (nomatch e), fun e => (nomatch e)⟩
        · exact Iff.rfl
      · have e := h.run c hc hs hn
        rw [e, hs, if_neg (by decide), ← hs]
    · exact h

theorem Steady.openHead {r : RingId} (hr : ¬kept r) : Steady out kept s (t.openHead r) := by
  unfold State.openHead
  split
  · split
    · exact h
    · exact ((h.modRing hr fun _ => id).unstall _).openPost hr _
  · exact h

/-- A post that joins the stall queue from the hold list (R74, R86). -/
theorem Steady.joinStall {r : RingId} (hr : ¬kept r) {q : Post} (hs : HoldsSound out s) (hq : .post q ∈ s.rings[r].hold) :
    Steady out kept s (t.joinStall r q) := by
  unfold State.joinStall
  dsimp only
  split
  · exact (h.modRing hr fun _ => id).modPort _ _
  · next c e =>
    have h' := h.modRing hr (f := (·.stalled q none)) fun _ => id
    split
    · next hl =>
      refine h'.modChan c (fun _ => ?_) fun _ _ hn => absurd e (hn r _ hq)
      exact ⟨fun e => (nomatch e), fun i => absurd i ((hs r q c hq e).2.2 hl)⟩
    · exact h'

/-! ### Take-up -/

theorem Steady.takeUpPost {r : RingId} (hr : ¬kept r) {q : Post} (hs : HoldsSound out s) (hq : .post q ∈ s.rings[r].hold) :
    Steady out kept s (t.takeUpPost r q) := by
  unfold State.takeUpPost
  split
  · next he =>
    split
    · exact h.refuse _ _
    · next c e =>
      rw [h.recs, (hs r q c hq e).2.1] at he
      exact absurd he (by decide)
  · split
    · exact h.issueRing hr _ _ _
    · split
      · exact h.openPost hr _
      · split
        · split
          · exact h.joinStall hr hs hq
          · split
            · exact (h.deliver _ _ _).refuse _ _
            · exact h.refuse _ _
        · exact h.joinStall hr hs hq

theorem Steady.takeUpTake {r : RingId} (hr : ¬kept r) (p : PortId) : Steady out kept s (t.takeUpTake r p) := by
  unfold State.takeUpTake
  dsimp only
  split
  · exact h.refuse _ _
  · split
    · exact h.refuse _ _
    · split
      · split
        · exact h.issueRing hr _ _ _
        · exact h.refuse _ _
      · exact (h.modRing hr fun _ => id).issueRing hr _ _ _

theorem Steady.takeUp {r : RingId} (hr : ¬kept r) {i : HoldItem} (hs : HoldsSound out s) (hi : i ∈ s.rings[r].hold) :
    Steady out kept s (t.takeUp r i) := by
  cases i with
  | post q => exact h.takeUpPost hr hs hi
  | take p => exact h.takeUpTake hr p

end

theorem Steady.takeUpHold {out : ChanId → Bool} {kept : RingId → Prop} {s : State} {r : RingId} (hr : ¬kept r)
    (hs : HoldsSound out s) : ∀ (n : Nat) {t : State}, Steady out kept s t → Steady out kept s (t.takeUpHold r n)
  | 0, _, h => h
  | n + 1, t, h => by
    unfold State.takeUpHold
    split
    · exact h
    · split
      · exact h
      · next i rest hi =>
        have hm : i ∈ s.rings[r].hold := h.hold r i (hi ▸ List.mem_cons_self)
        exact Steady.takeUpHold hr hs n ((h.modRing hr fun j hj => hi ▸ List.mem_cons_of_mem _ hj).takeUp hr hs hm)

section
variable {out : ChanId → Bool} {kept : RingId → Prop} {s t : State} (h : Steady out kept s t)
include h

theorem Steady.settleRing {r : RingId} (hr : ¬kept r) (hs : HoldsSound out s) : Steady out kept s (t.settleRing r) := by
  have h' := h.openHead hr
  unfold State.settleRing State.resumeRing
  split
  · exact h'
  · split
    · exact (h'.modRing hr fun _ => id).issueRing hr _ _ _
    · exact Steady.takeUpHold hr hs _ h'

/-! ### Stops of channels that wait nowhere -/

theorem Steady.closeAssembly {c : ChanId} {r : RingId} (hr : kept r → t.rings[r].ownsPost (.chan c) = false) :
    Steady out kept s (t.closeAssembly c r) := by
  cases ho : t.rings[r].ownsPost (.chan c) with
  | false => rw [State.closeAssembly_of_unowned ho]; exact h
  | true =>
    have hn : ¬kept r := fun e => (nomatch ho.symm.trans (hr e))
    unfold State.closeAssembly
    split
    · exact h.modRing hn fun _ => id
    · rw [State.dropAssembly_of_owner ho]
      exact (h.modRing hn fun _ => id).openHead hn

end

theorem Steady.closeAssemblies {out : ChanId → Bool} {kept : RingId → Prop} {s : State} {c : ChanId} :
    ∀ (l : List RingId) {t : State}, Steady out kept s t → (∀ r, kept r → s.rings[r].ownsPost (.chan c) = false) →
      Steady out kept s (l.foldl (fun u r => u.closeAssembly c r) t)
  | [], _, h, _ => h
  | r :: l, t, h, hk =>
    Steady.closeAssemblies l (h.closeAssembly (r := r) fun e => by rw [h.rings r e]; exact hk r e) hk

theorem Steady.stopChan {out : ChanId → Bool} {kept : RingId → Prop} {s t : State} (h : Steady out kept s t) {c : ChanId}
    (st : Status) (hc : out c = true) (hg : t.Gone (.chan c)) (hk : ∀ r, kept r → s.rings[r].ownsPost (.chan c) = false) :
    Steady out kept s (t.stopChan c st) := by
  by_cases hs : t.chans[c].state = .idle ∨ t.chans[c].stopPending.isSome = true
  · rw [State.stopChan_idle _ hs]
    exact h
  · rw [not_or] at hs
    obtain ⟨hs, hp⟩ := hs
    have hp := Option.not_isSome_iff_eq_none.mp hp
    cases hb : t.chanPresented c with
    | true =>
      rw [hg.stopChan_pending st hs hp hb]
      exact h.modChan_out hc _
    | false =>
      have h' : Steady out kept s ((t.modChan c fun k => k.ended st).closeAssemblies c) :=
        Steady.closeAssemblies allRings (h.modChan_out hc fun k => k.ended st) hk
      rw [State.stopChan_running st hs hp, State.stopRun_now st hb, hg.endRun st]
      exact (h'.deliverDone c st).finishLockFree c

/-! ## What becomes of a ring is seen from the ring and its record alone -/

/-- The two states have the same ring and ring record here. -/
def SameRing (r : RingId) (s t : State) : Prop := t.rings[r] = s.rings[r] ∧ t.recs[r] = s.recs[r]

section
variable {r : RingId} {s t : State} (h : SameRing r s t)
include h

theorem SameRing.openingCond : t.openingCond r = s.openingCond r := by
  unfold State.openingCond
  rw [h.1, h.2]

theorem SameRing.modRing (f : Ring → Ring) : SameRing r (s.modRing r f) (t.modRing r f) := by
  refine ⟨?_, h.2⟩
  rw [State.modRing_ring_same, State.modRing_ring_same, h.1]

theorem SameRing.modChan (c : ChanId) (f : Chan → Chan) : SameRing r (s.modChan c f) (t.modChan c f) := h

theorem SameRing.deliver (p : PortId) (src : Source) (d : Word) : SameRing r (s.deliver p src d) (t.deliver p src d) := by
  rw [State.deliver_eq, State.deliver_eq t]
  exact h

theorem SameRing.refuse (p : PortId) (x : Reason) : SameRing r (s.refuse p x) (t.refuse p x) := by
  have key (u : State) : (u.refuse p x).rings = u.rings ∧ (u.refuse p x).recs = u.recs :=
    ⟨u.refuse_rings p x, ((Quiet.refl u).refuse p x).config.2.2.2.2.2.2.1⟩
  unfold SameRing
  rw [(key s).1, (key s).2, (key t).1, (key t).2]
  exact h

theorem SameRing.issueRing (q : Post) (d : Dir) (a : Addr) : SameRing r (s.issueRing r q d a) (t.issueRing r q d a) := by
  unfold State.issueRing
  split
  · exact h.modRing fun k => k.launch q d a true
  · exact h.modRing _

theorem SameRing.issuePost (q : Post) : SameRing r (s.issuePost r q) (t.issuePost r q) := by
  unfold State.issuePost
  rw [h.1, h.2]
  exact h.issueRing _ _ _

theorem SameRing.openPost (q : Post) : SameRing r (s.openPost r q) (t.openPost r q) := by
  have h' := h.modRing fun k => { k with postAsm := some { owner := q.who, words := 0 } }
  unfold State.openPost
  dsimp only
  rw [h'.1]
  split
  · split
    · exact h'.modRing fun k => { k with awaiting := some q }
    · exact h'.modRing _
  · exact h'.issuePost q

theorem SameRing.unstall (q : Post) : SameRing r (s.unstall q) (t.unstall q) := by
  unfold State.unstall
  split
  · exact h
  · split
    · exact h.modChan _ _
    · exact h

theorem SameRing.openHead : SameRing r (s.openHead r) (t.openHead r) := by
  unfold State.openHead
  rw [h.openingCond, h.1]
  split
  · cases s.rings[r].stall with
    | nil => exact h
    | cons e rest => exact ((h.modRing _).unstall _).openPost _
  · exact h

theorem SameRing.joinStall (q : Post) : SameRing r (s.joinStall r q) (t.joinStall r q) := by
  unfold State.joinStall
  rw [h.2]
  split
  · exact h.modRing fun k => k.stalled q (some s.recs[r].stallLimit)
  · split
    · exact (h.modRing fun k => k.stalled q none).modChan _ _
    · exact h.modRing _

theorem SameRing.takeUpPost (he : s.recs[r].enable = true) (q : Post) : SameRing r (s.takeUpPost r q) (t.takeUpPost r q) := by
  unfold State.takeUpPost State.refuseFull
  simp only [h.1, h.2, h.openingCond, he, Bool.not_true, Bool.false_eq_true, if_false]
  split
  · exact h.issuePost q
  · split
    · exact h.openPost q
    · split
      · split
        · exact h.joinStall q
        · split
          · exact (h.deliver _ _ _).refuse _ _
          · exact h.refuse _ _
      · exact h.joinStall q

theorem SameRing.takeUpTake (p : PortId) : SameRing r (s.takeUpTake r p) (t.takeUpTake r p) := by
  have h' := h.modRing fun k => { k with takeAsm := some { owner := p, words := 0 } }
  unfold State.takeUpTake
  dsimp only
  rw [h.1, h.2, h'.1, h'.2]
  split
  · exact h.refuse _ _
  · split
    · exact h.refuse _ _
    · cases s.rings[r].takeAsm with
      | none => exact h'.issueRing _ _ _
      | some a =>
        dsimp only
        split
        · exact h.issueRing _ _ _
        · exact h.refuse _ _

end

theorem State.takeUp_recs (s : State) (r : RingId) (i : HoldItem) : (s.takeUp r i).recs = s.recs :=
  ((Quiet.refl s).takeUp r i).config.2.2.2.2.2.2.1

theorem SameRing.takeUpHold {r : RingId} : ∀ (n : Nat) {s t : State}, SameRing r s t → s.recs[r].enable = true →
    SameRing r (s.takeUpHold r n) (t.takeUpHold r n)
  | 0, _, _, h, _ => h
  | n + 1, s, t, h, he => by
    unfold State.takeUpHold
    rw [h.1]
    split
    · exact h
    · cases s.rings[r].hold with
      | nil => exact h
      | cons i rest =>
        have h' : SameRing r ((s.modRing r fun k => { k with hold := rest }).takeUp r i)
            ((t.modRing r fun k => { k with hold := rest }).takeUp r i) := by
          cases i with
          | post q => exact (h.modRing _).takeUpPost he q
          | take p => exact (h.modRing _).takeUpTake p
        refine SameRing.takeUpHold n h' ?_
        rw [State.takeUp_recs]
        exact he

/-- What an enabled ring becomes as it settles (R92, log 16). -/
theorem SameRing.settleRing {r : RingId} {s t : State} (h : SameRing r s t) (he : s.recs[r].enable = true) :
    SameRing r (s.settleRing r) (t.settleRing r) := by
  have h' := h.openHead
  have he' : (s.openHead r).recs[r].enable = true := by
    rw [((Quiet.refl s).openHead r).config.2.2.2.2.2.2.1]
    exact he
  unfold State.settleRing State.resumeRing
  rw [h'.1]
  split
  · exact h'
  · cases (s.openHead r).rings[r].awaiting with
    | none => exact SameRing.takeUpHold _ h' he'
    | some q => exact (h'.modRing _).issuePost _

end Sys2Proof.Machine

/-! PROOFS. The locks of a teardown (R111): the claimants that go leave the queues, and the locks whose holders go are
handed on, from lock 0 upward. -/

namespace Sys2Proof.Machine

/-! ## Changes place by place -/

/-- A change at each place of a list without repetitions. -/
theorem foldl_upd {α : Type} {n : Nat} (g : Fin n → α → α) :
    ∀ (l : List (Fin n)) (v : Vector α n) (j : Fin n), l.Nodup →
      (l.foldl (fun u i => upd u i (g i)) v)[j] = if j ∈ l then g j v[j] else v[j]
  | [], _, _, _ => rfl
  | i :: l, v, j, h => by
    obtain ⟨hi, hl⟩ := List.nodup_cons.mp h
    rw [List.foldl_cons, foldl_upd g l _ j hl, upd_get]
    by_cases e : i = j
    · subst e
      rw [if_neg hi, if_pos rfl, if_pos List.mem_cons_self]
    · have hm : j ∈ i :: l ↔ j ∈ l := by simp [Ne.symm e]
      simp only [if_neg e, hm]

/-- A member of a list without repetitions stands between members that differ from it. -/
theorem exists_split_of_mem {α : Type} {l : List α} {a : α} (hd : l.Nodup) (h : a ∈ l) :
    ∃ before after : List α, l = before ++ a :: after ∧ a ∉ before ∧ a ∉ after := by
  obtain ⟨before, after, e⟩ := List.append_of_mem h
  subst e
  obtain ⟨_, ha, hn⟩ := List.nodup_append.mp hd
  exact ⟨before, after, rfl, fun m => hn a m a List.mem_cons_self rfl, (List.nodup_cons.mp ha).1⟩

theorem mem_allSlots (i : SlotId) : i ∈ allSlots := by revert i; decide

theorem mem_allLocks (l : LockId) : l ∈ allLocks := by revert l; decide

theorem nodup_allLocks : allLocks.Nodup := by decide

theorem mem_allChans (c : ChanId) : c ∈ allChans := by revert c; decide

/-! ## One release -/

/-- The lock after its release with these waiters (R101, R102). -/
def State.handedTo (s : State) (l : LockId) (waiters : List Claimant) : Lock :=
  match waiters with
  | [] => { holder := none, waiters := [], timer := none }
  | x :: rest => s.lockHeldBy l x rest

/-- The lock after its release. -/
def State.handedOn (s : State) (l : LockId) : Lock := s.handedTo l s.locks[l].waiters

/-- The channel that a lock is granted to (R101, R109). -/
def Chan.granted (k : Chan) : Chan := { k with state := if k.state = .lockWait then .run else k.state }

theorem Chan.granted_run (k : Chan) : ({ k with state := .run } : Chan).granted = { k with state := .run } := rfl

theorem Chan.granted_lockWait {k : Chan} (h : k.state = .lockWait) : k.granted = { k with state := .run } := by
  unfold Chan.granted
  rw [if_pos h]

theorem State.announceGrant_locks (s : State) (l : LockId) (c : Claimant) : (s.announceGrant l c).locks = s.locks := by
  cases c with
  | port p =>
    show (s.deliver p .lockGrant _).locks = _
    rw [State.deliver_eq]
  | chan d => rfl

theorem State.releaseLock_lock (s : State) (l : LockId) : (s.releaseLock l).locks[l] = s.handedOn l := by
  unfold State.handedOn
  cases h : s.locks[l].waiters with
  | nil =>
    unfold State.releaseLock
    rw [h]
    refine ((upd_get _ _ _ _).trans (if_pos rfl)).trans ?_
    rw [h]
    rfl
  | cons x rest =>
    rw [State.releaseLock_cons h, State.announceGrant_locks]
    exact (upd_get _ _ _ _).trans (if_pos rfl)

theorem State.releaseLock_chan_other {s : State} {l : LockId} {c : ChanId} (h : s.locks[l].waiters.head? ≠ some (.chan c)) :
    (s.releaseLock l).chans[c] = s.chans[c] := by
  cases e : s.locks[l].waiters with
  | nil => unfold State.releaseLock; rw [e]; rfl
  | cons x rest =>
    rw [e] at h
    rw [State.releaseLock_cons e]
    cases x with
    | port p =>
      show (State.deliver p .lockGrant _ _).chans[c] = _
      rw [State.deliver_eq]
      rfl
    | chan d => exact upd_other s.chans _ (fun e => h (e ▸ rfl) : d ≠ c)

theorem State.releaseLock_chan_head {s : State} {l : LockId} {c : ChanId} (h : s.locks[l].waiters.head? = some (.chan c)) :
    (s.releaseLock l).chans[c] = (s.chans[c]).granted := by
  obtain ⟨rest, e⟩ := List.head?_eq_some_iff.mp h
  rw [State.releaseLock_cons e]
  exact (upd_get _ _ _ _).trans (if_pos rfl)

theorem State.deliver_ctl_other (s : State) {p m : PortId} (h : p ≠ m) (src : Source) (d : Word) :
    (s.deliver p src d).ctls[m] = s.ctls[m] := by
  unfold State.deliver
  repeat' split
  · rfl
  · exact upd_other s.ctls _ h
  · rfl

theorem State.releaseLock_ctl_other {s : State} {l : LockId} {m : PortId} (h : s.locks[l].waiters.head? ≠ some (.port m)) :
    (s.releaseLock l).ctls[m] = s.ctls[m] := by
  cases e : s.locks[l].waiters with
  | nil => unfold State.releaseLock; rw [e]; rfl
  | cons x rest =>
    rw [e] at h
    rw [State.releaseLock_cons e]
    cases x with
    | port p =>
      have hp : p ≠ m := fun e => h (e ▸ rfl)
      exact State.deliver_ctl_other (s.modLock l fun _ => s.lockHeldBy l (.port p) rest) hp _ _
    | chan d => rfl

/-- A release changes locks, channels and controllers. -/
theorem State.releaseLock_eq (s : State) (l : LockId) : s.releaseLock l =
    { s with ctls := (s.releaseLock l).ctls, locks := (s.releaseLock l).locks, chans := (s.releaseLock l).chans } := by
  cases e : s.locks[l].waiters with
  | nil => unfold State.releaseLock; rw [e]; rfl
  | cons x rest =>
    rw [State.releaseLock_cons e]
    cases x with
    | port p =>
      show State.deliver p .lockGrant _ _ = { s with
        ctls := (State.deliver p .lockGrant _ _).ctls
        locks := (State.deliver p .lockGrant _ _).locks
        chans := (State.deliver p .lockGrant _ _).chans }
      rw [State.deliver_eq]
      rfl
    | chan d => rfl

theorem KeepsNotices.releaseLock (s : State) (l : LockId) : KeepsNotices s (s.releaseLock l) := by
  cases e : s.locks[l].waiters with
  | nil => unfold State.releaseLock; rw [e]; exact .refl s
  | cons x rest =>
    rw [State.releaseLock_cons e]
    cases x with
    | port p => exact KeepsNotices.deliver (s.modLock l fun _ => s.lockHeldBy l (.port p) rest) p _ _
    | chan d => exact .refl s

/-- Two bound slots of one controller with the same source would be one. -/
theorem State.boundSlot_unique {s : State} {p : PortId} {i : SlotId} {b : Binding} (hb : s.ctls[p].slots[i].binding = some b)
    (hu : ∀ j : SlotId, j ≠ i → ∀ d : Binding, s.ctls[p].slots[j].binding = some d → d.source ≠ b.source) :
    s.boundSlot p b.source = some i := by
  have hi : (s.ctls[p].slots[i].binding).map (·.source) = some b.source := by rw [hb]; rfl
  unfold State.boundSlot
  cases e : allSlots.find? fun j => decide ((s.ctls[p].slots[j].binding).map (·.source) = some b.source) with
  | none =>
    exact absurd (decide_eq_true hi) (List.find?_eq_none.mp e i (mem_allSlots i))
  | some j =>
    have hj : (s.ctls[p].slots[j].binding).map (·.source) = some b.source := by simpa using List.find?_some e
    obtain ⟨d, hd, hs⟩ := Option.map_eq_some_iff.mp hj
    by_contra hn
    exact hu j (fun e' => hn (e' ▸ rfl)) d hd hs

/-- A delivery to an UP port latches its slot, and a slot that was not pending shows its detail (R37, R38). -/
theorem State.deliver_latches {s : State} {p : PortId} {i : SlotId} {b : Binding} (hu : s.ports[p].state = .up)
    (hb : s.ctls[p].slots[i].binding = some b)
    (hn : ∀ j : SlotId, j ≠ i → ∀ d : Binding, s.ctls[p].slots[j].binding = some d → d.source ≠ b.source) (d : Word) :
    ∃ z : Notice, (s.deliver p b.source d).ctls[p].slots[i].notice = some z ∧
      (s.ctls[p].slots[i].notice = none → z.detail = d) := by
  have ht : s.takesDelivery p b.source = true := by
    unfold State.takesDelivery
    rw [decide_eq_true hu]
    rfl
  have e : (s.deliver p b.source d).ctls[p].slots[i] = s.ctls[p].slots[i].latch d := by
    unfold State.deliver
    rw [ht, if_pos rfl, State.boundSlot_unique hb hn]
    show (upd s.ctls p _)[p].slots[i] = _
    rw [upd_get, if_pos rfl]
    exact (upd_get _ _ _ _).trans (if_pos rfl)
  rw [e]
  unfold Slot.latch
  cases s.ctls[p].slots[i].notice with
  | none => exact ⟨_, rfl, fun _ => rfl⟩
  | some n => exact ⟨_, rfl, fun e => nomatch e⟩

/-! ## Releases one after another -/

/-- The locks of the list that `cond` picks are released, in order. -/
def State.releases (cond : LockId → Bool) (ls : List LockId) (s : State) : State :=
  ls.foldl (fun u l => if cond l then u.releaseLock l else u) s

/-- The claimant that the release of the lock grants it to. -/
def State.grantee (s : State) (cond : LockId → Bool) (l : LockId) : Option Claimant :=
  if cond l then s.locks[l].waiters.head? else none

theorem State.releases_cons (cond : LockId → Bool) (l : LockId) (ls : List LockId) (s : State) :
    s.releases cond (l :: ls) = (if cond l then s.releaseLock l else s).releases cond ls := rfl

theorem State.releases_append (cond : LockId → Bool) (before after : List LockId) (s : State) :
    s.releases cond (before ++ after) = (s.releases cond before).releases cond after := List.foldl_append

/-- What every release keeps, their sequence keeps. -/
theorem State.releases_keeps {P : State → Prop} (cond : LockId → Bool)
    (hP : ∀ (u : State) (l : LockId), P u → P (u.releaseLock l)) :
    ∀ (ls : List LockId) {s : State}, P s → P (s.releases cond ls)
  | [], _, h => h
  | l :: ls, s, h => by
    rw [State.releases_cons]
    refine State.releases_keeps cond hP ls ?_
    split
    · exact hP s l h
    · exact h

theorem State.releases_other (cond : LockId → Bool) {l : LockId} : ∀ (ls : List LockId) (s : State), l ∉ ls →
    (s.releases cond ls).locks[l] = s.locks[l]
  | [], _, _ => rfl
  | m :: ls, s, h => by
    have hm : m ≠ l := fun e => h (e ▸ List.mem_cons_self)
    rw [State.releases_cons, State.releases_other cond ls _ fun e => h (List.mem_cons_of_mem _ e)]
    split
    · exact s.releaseLock_other hm
    · rfl

/-- Releases change locks, channels and controllers. -/
theorem State.releases_eq (cond : LockId → Bool) (ls : List LockId) (s : State) : s.releases cond ls =
    { s with ctls := (s.releases cond ls).ctls, locks := (s.releases cond ls).locks, chans := (s.releases cond ls).chans } := by
  refine State.releases_keeps (P := fun u => u = { s with ctls := u.ctls, locks := u.locks, chans := u.chans }) cond
    (fun u l h => ?_) ls rfl
  have e := u.releaseLock_eq l
  rw [h] at e ⊢
  exact e

theorem KeepsNotices.releases (cond : LockId → Bool) (ls : List LockId) (s : State) : KeepsNotices s (s.releases cond ls) :=
  State.releases_keeps cond (fun u l h => h.trans (KeepsNotices.releaseLock u l)) ls (.refl s)

/-- A release in the sequence finds the lock as it was before all of them. -/
theorem State.releases_handedOn (cond : LockId → Bool) {ls : List LockId} (s : State) {l : LockId} (hl : l ∉ ls) :
    (s.releases cond ls).handedOn l = s.handedOn l := by
  have hx : (s.releases cond ls).leases = s.leases := by rw [State.releases_eq]
  unfold State.handedOn State.handedTo State.lockHeldBy
  rw [State.releases_other cond ls s hl, hx]

theorem State.releases_lock (cond : LockId → Bool) {ls : List LockId} (s : State) (hd : ls.Nodup) {l : LockId} (h : l ∈ ls) :
    (s.releases cond ls).locks[l] = if cond l then s.handedOn l else s.locks[l] := by
  obtain ⟨before, after, rfl, hb, ha⟩ := exists_split_of_mem hd h
  rw [State.releases_append, State.releases_cons, State.releases_other cond _ _ ha]
  split
  · rw [State.releaseLock_lock, State.releases_handedOn cond s hb]
  · exact State.releases_other cond _ _ hb

/-- A channel that no lock is granted to is as it was. -/
theorem State.releases_chan_other (cond : LockId → Bool) {c : ChanId} : ∀ (ls : List LockId) (s : State), ls.Nodup →
    (∀ l ∈ ls, s.grantee cond l ≠ some (.chan c)) → (s.releases cond ls).chans[c] = s.chans[c]
  | [], _, _, _ => rfl
  | l :: ls, s, hd, h => by
    obtain ⟨hl, hd⟩ := List.nodup_cons.mp hd
    have hg := h l List.mem_cons_self
    unfold State.grantee at hg
    rw [State.releases_cons]
    split
    · next hc =>
      rw [if_pos hc] at hg
      rw [State.releases_chan_other cond ls _ hd, State.releaseLock_chan_other hg]
      intro m hm
      unfold State.grantee
      rw [s.releaseLock_other (fun e => hl (e ▸ hm) : l ≠ m)]
      exact h m (List.mem_cons_of_mem _ hm)
    · exact State.releases_chan_other cond ls s hd fun m hm => h m (List.mem_cons_of_mem _ hm)

/-- A channel in RUN stays as it is. -/
theorem State.releaseLock_chan_run {s : State} (l : LockId) {c : ChanId} (h : s.chans[c].state = .run) :
    (s.releaseLock l).chans[c] = s.chans[c] := by
  by_cases e : s.locks[l].waiters.head? = some (.chan c)
  · rw [State.releaseLock_chan_head e]
    unfold Chan.granted
    rw [h, if_neg (by decide), ← h]
  · exact State.releaseLock_chan_other e

theorem State.releases_chan_run (cond : LockId → Bool) (ls : List LockId) {s : State} {c : ChanId}
    (h : s.chans[c].state = .run) : (s.releases cond ls).chans[c] = s.chans[c] :=
  State.releases_keeps (P := fun u => u.chans[c] = s.chans[c]) cond
    (fun u l e => (State.releaseLock_chan_run l ((congrArg Chan.state e).trans h)).trans e) ls rfl

/-- A channel in LOCKWAIT that a lock is granted to is in RUN (R109). -/
theorem State.releases_chan_granted (cond : LockId → Bool) {ls : List LockId} (s : State) (hd : ls.Nodup) {l : LockId}
    (h : l ∈ ls) {c : ChanId} (hg : s.grantee cond l = some (.chan c)) (hw : s.chans[c].state = .lockWait) :
    (s.releases cond ls).chans[c] = { s.chans[c] with state := .run } := by
  obtain ⟨before, after, rfl, hb, _⟩ := exists_split_of_mem hd h
  have hu : (s.releases cond before).chans[c] = s.chans[c] ∨
      (s.releases cond before).chans[c] = { s.chans[c] with state := .run } := by
    refine State.releases_keeps (P := fun u => u.chans[c] = s.chans[c] ∨ u.chans[c] = { s.chans[c] with state := .run }) cond
      (fun u m e => ?_) before (.inl rfl)
    by_cases eh : u.locks[m].waiters.head? = some (.chan c)
    · rw [State.releaseLock_chan_head eh]
      obtain e | e := e
      · rw [e, Chan.granted_lockWait hw]
        exact .inr rfl
      · rw [e, Chan.granted_run]
        exact .inr rfl
    · rw [State.releaseLock_chan_other eh]
      exact e
  unfold State.grantee at hg
  split at hg
  · next hc =>
    have hh : (s.releases cond before).locks[l].waiters.head? = some (.chan c) := by
      rw [State.releases_other cond _ _ hb]
      exact hg
    have hr : ((s.releases cond before).releaseLock l).chans[c] = { s.chans[c] with state := .run } := by
      rw [State.releaseLock_chan_head hh]
      obtain e | e := hu
      · rw [e, Chan.granted_lockWait hw]
      · rw [e, Chan.granted_run]
    rw [State.releases_append, State.releases_cons, if_pos hc, State.releases_chan_run cond after (by rw [hr]), hr]
  · exact nomatch hg

/-- A controller whose port is granted no lock is as it was. -/
theorem State.releases_ctl_other (cond : LockId → Bool) {m : PortId} : ∀ (ls : List LockId) (s : State), ls.Nodup →
    (∀ l ∈ ls, s.grantee cond l ≠ some (.port m)) → (s.releases cond ls).ctls[m] = s.ctls[m]
  | [], _, _, _ => rfl
  | l :: ls, s, hd, h => by
    obtain ⟨hl, hd⟩ := List.nodup_cons.mp hd
    have hg := h l List.mem_cons_self
    unfold State.grantee at hg
    rw [State.releases_cons]
    split
    · next hc =>
      rw [if_pos hc] at hg
      rw [State.releases_ctl_other cond ls _ hd, State.releaseLock_ctl_other hg]
      intro k hk
      unfold State.grantee
      rw [s.releaseLock_other (fun e => hl (e ▸ hk) : l ≠ k)]
      exact h k (List.mem_cons_of_mem _ hk)
    · exact State.releases_ctl_other cond ls s hd fun k hk => h k (List.mem_cons_of_mem _ hk)

/-- An UP port that a lock is granted to is told by LOCK-GRANT: with the lock's number, where its slot was not pending and no lock
earlier in the list was granted to it (R101, R38). -/
theorem State.releases_notice (cond : LockId → Bool) {ls : List LockId} (s : State) (hd : ls.Nodup) {l : LockId} (h : l ∈ ls)
    {m : PortId} (hg : s.grantee cond l = some (.port m)) (hu : s.ports[m].state = .up) {i : SlotId} {b : Binding}
    (hb : s.ctls[m].slots[i].binding = some b) (hs : b.source = .lockGrant)
    (hn : ∀ j : SlotId, j ≠ i → ∀ d : Binding, s.ctls[m].slots[j].binding = some d → d.source ≠ .lockGrant)
    (hls : ls.Pairwise (· < ·)) :
    ∃ z : Notice, (s.releases cond ls).ctls[m].slots[i].notice = some z ∧
      (s.ctls[m].slots[i].notice = none → (∀ k : LockId, k < l → s.grantee cond k ≠ some (.port m)) →
        z.detail = BitVec.ofNat 16 l.val) := by
  obtain ⟨before, after, rfl, hbf, _⟩ := exists_split_of_mem hd h
  have hq : Quiet s (s.releases cond before) := State.releases_keeps cond (fun u k e => e.releaseLock k) before (.refl s)
  have hbind (j : SlotId) : (s.releases cond before).ctls[m].slots[j].binding = s.ctls[m].slots[j].binding :=
    ((hq.ctls m).2.2.2.2.2 j).1
  unfold State.grantee at hg
  split at hg
  case isFalse => exact nomatch hg
  next hc =>
  have hw : (s.releases cond before).locks[l].waiters.head? = some (.port m) := by
    rw [State.releases_other cond _ _ hbf]
    exact hg
  obtain ⟨rest, e⟩ := List.head?_eq_some_iff.mp hw
  obtain ⟨z, hz, hdet⟩ := State.deliver_latches
    (s := (s.releases cond before).modLock l fun _ => (s.releases cond before).lockHeldBy l (.port m) rest) (b := b)
    ((hq.ports m).1.trans hu) ((hbind i).trans hb) (fun j hj d hd' => hs ▸ hn j hj d ((hbind j).symm.trans hd'))
    (BitVec.ofNat 16 l.val)
  have hr : ((s.releases cond before).releaseLock l).ctls[m].slots[i].notice = some z := by
    rw [State.releaseLock_cons e]
    rw [hs] at hz
    exact hz
  obtain ⟨y, hy, hyd⟩ := KeepsNotices.releases cond after _ m i z hr
  rw [State.releases_append, State.releases_cons, if_pos hc]
  refine ⟨y, hy, fun h0 hk => hyd.trans (hdet ?_)⟩
  have hlt : ∀ k ∈ before, k < l := fun k hk => (List.pairwise_append.mp hls).2.2 k hk l List.mem_cons_self
  have hsame := State.releases_ctl_other cond (m := m) before s (List.nodup_append.mp hd).1 fun k hk' => hk k (hlt k hk')
  show (s.releases cond before).ctls[m].slots[i].notice = none
  rw [hsame]
  exact h0

/-! ## The queues -/

/-- The claimants that satisfy `out` leave the queue. -/
def Lock.queueLeft (k : Lock) (out : Claimant → Bool) : Lock := { k with waiters := k.waiters.filter fun c => !out c }

/-- The claimants that satisfy `out` have left every queue. -/
def State.queuesLeft (s : State) (out : Claimant → Bool) : State := allLocks.foldl (fun u l => u.dropWaiters l out) s

theorem State.queuesLeft_eq (s : State) (out : Claimant → Bool) :
    s.queuesLeft out = { s with locks := allLocks.foldl (fun v l => upd v l (·.queueLeft out)) s.locks } := by
  have key : ∀ (ls : List LockId) (u : State), ls.foldl (fun u l => u.dropWaiters l out) u =
      { u with locks := ls.foldl (fun v l => upd v l (·.queueLeft out)) u.locks } := by
    intro ls
    induction ls with
    | nil => intro u; rfl
    | cons l ls ih => intro u; rw [List.foldl_cons, ih]; rfl
  unfold State.queuesLeft
  rw [key]

theorem State.queuesLeft_lock (s : State) (out : Claimant → Bool) (l : LockId) :
    (s.queuesLeft out).locks[l] = (s.locks[l]).queueLeft out := by
  rw [State.queuesLeft_eq]
  show (allLocks.foldl (fun v m => upd v m (·.queueLeft out)) s.locks)[l] = _
  rw [foldl_upd (fun _ k => k.queueLeft out) allLocks s.locks l nodup_allLocks, if_pos (mem_allLocks l)]

/-- The lock unit's part of a teardown: the queues left, then the releases (R111). -/
theorem State.tearLocks_eq (s : State) (n : PortId) : s.tearLocks n =
    (s.queuesLeft (s.torn n)).releases (fun l => (s.locks[l].holder).any (s.torn n)) allLocks := rfl

end Sys2Proof.Machine

/-! PROOFS. The rings and the channels of a teardown (R92, R135): what goes with the port has left the rings before any of them
settles, and a channel that goes is stopped after it has nothing waiting anywhere. -/

namespace Sys2Proof.Machine

/-! ## Who goes -/

theorem State.torn_eq_goesWith (s : State) (n : PortId) : s.torn n = s.goesWith n := by
  funext x
  cases x with
  | port q => rfl
  | chan c => exact (Bool.decide_and _ _).symm

/-- Who goes with the port is seen from the run owners and from who is IDLE. -/
theorem State.goesWith_congr {s t : State} (n : PortId) (ho : ∀ c : ChanId, t.chans[c].owner = s.chans[c].owner)
    (hi : ∀ c : ChanId, t.chans[c].state = .idle ↔ s.chans[c].state = .idle) : t.goesWith n = s.goesWith n := by
  funext x
  cases x with
  | port q => rfl
  | chan c => exact decide_eq_decide.mpr (by rw [ho c, Ne, hi c])

theorem State.goesWith_chan (s : State) (n : PortId) (c : ChanId) :
    s.goesWith n (.chan c) = true ↔ s.chans[c].owner = some n ∧ s.chans[c].state ≠ .idle := decide_eq_true_iff

theorem State.goesWith_port (s : State) (n q : PortId) : s.goesWith n (.port q) = true ↔ q = n := decide_eq_true_iff

/-! ## The locks (R111) -/

/-- A teardown's locks: the part of the state that their releases change. -/
theorem State.tearLocks_frame (s : State) (n : PortId) : s.tearLocks n =
    { s with ctls := (s.tearLocks n).ctls, locks := (s.tearLocks n).locks, chans := (s.tearLocks n).chans } := by
  rw [State.tearLocks_eq, State.releases_eq, State.queuesLeft_eq]

theorem State.tearLocks_grantee (s : State) (n : PortId) (l : LockId) :
    (s.queuesLeft (s.torn n)).grantee (fun l => (s.locks[l].holder).any (s.torn n)) l = s.heir n l := by
  unfold State.grantee State.heir State.stayers
  rw [State.queuesLeft_lock, State.torn_eq_goesWith]
  rfl

/-- An heir stays. -/
theorem State.heir_stays {s : State} {n : PortId} {l : LockId} {x : Claimant} (h : s.heir n l = some x) :
    s.goesWith n x = false := by
  unfold State.heir at h
  split at h
  · have hm : x ∈ s.stayers n l := List.mem_of_head? h
    exact Bool.not_eq_true' _ ▸ (List.mem_filter.mp hm).2
  · exact nomatch h

theorem State.tearLocks_chan_other {s : State} {n : PortId} {c : ChanId} (h : ∀ l, s.heir n l ≠ some (.chan c)) :
    (s.tearLocks n).chans[c] = s.chans[c] := by
  have e : (s.queuesLeft (s.torn n)).chans = s.chans := by rw [State.queuesLeft_eq]
  have hg (l : LockId) := (s.tearLocks_grantee n l).symm ▸ h l
  rw [State.tearLocks_eq, State.releases_chan_other _ _ _ nodup_allLocks fun l _ => hg l, e]

theorem State.tearLocks_chan_heir {s : State} {n : PortId} {c : ChanId} {l : LockId} (h : s.heir n l = some (.chan c))
    (hw : s.chans[c].state = .lockWait) : (s.tearLocks n).chans[c] = { s.chans[c] with state := .run } := by
  have e : (s.queuesLeft (s.torn n)).chans = s.chans := by rw [State.queuesLeft_eq]
  rw [State.tearLocks_eq, State.releases_chan_granted _ _ nodup_allLocks (mem_allLocks l)
    ((s.tearLocks_grantee n l).trans h) (by rw [e]; exact hw), e]

theorem State.tearLocks_tasks (s : State) (n : PortId) : SameChans (fun k => (k.desc, k.owner)) s (s.tearLocks n) := by
  have h0 : SameChans (fun k => (k.desc, k.owner)) s (s.queuesLeft (s.torn n)) := by
    rw [State.queuesLeft_eq]
    exact fun _ => rfl
  rw [State.tearLocks_eq]
  exact State.releases_keeps _ (fun u l h => h.releaseLock (fun _ _ => rfl) l) _ h0

theorem State.tearLocks_idle (s : State) (n : PortId) (c : ChanId) :
    (s.tearLocks n).chans[c].state = .idle ↔ s.chans[c].state = .idle := by
  have e : (s.queuesLeft (s.torn n)).chans = s.chans := by rw [State.queuesLeft_eq]
  rw [State.tearLocks_eq]
  refine State.releases_keeps (P := fun u => u.chans[c].state = .idle ↔ s.chans[c].state = .idle) _
    (fun u l h => (u.releaseLock_idle l c).trans h) _ ?_
  rw [e]

theorem State.tearLocks_goesWith (s : State) (n : PortId) : (s.tearLocks n).goesWith n = s.goesWith n :=
  State.goesWith_congr n (fun c => congrArg Prod.snd (s.tearLocks_tasks n c)) (s.tearLocks_idle n)

/-- A channel that goes is granted nothing. -/
theorem State.tearLocks_chan_goes {s : State} {n : PortId} {c : ChanId} (h : s.goesWith n (.chan c) = true) :
    (s.tearLocks n).chans[c] = s.chans[c] :=
  State.tearLocks_chan_other fun _ e => Bool.noConfusion (h.symm.trans (State.heir_stays e))

/-- The lock after the teardown (R111, R101, R102). -/
def State.lockTorn (s : State) (n : PortId) (l : LockId) : Lock :=
  if (s.locks[l].holder).any (s.goesWith n) then s.handedTo l (s.stayers n l) else { s.locks[l] with waiters := s.stayers n l }

theorem State.tearLocks_lock (s : State) (n : PortId) (l : LockId) : (s.tearLocks n).locks[l] = s.lockTorn n l := by
  have hh : (s.queuesLeft (s.torn n)).handedOn l = s.handedTo l (s.stayers n l) := by
    have hw : (s.queuesLeft (s.torn n)).locks[l].waiters = s.stayers n l := by
      rw [State.queuesLeft_lock, State.torn_eq_goesWith]
      rfl
    have hx : (s.queuesLeft (s.torn n)).leases = s.leases := by rw [State.queuesLeft_eq]
    unfold State.handedOn State.handedTo State.lockHeldBy
    rw [hw, hx]
  rw [State.tearLocks_eq, State.releases_lock _ _ nodup_allLocks (mem_allLocks l), hh, State.queuesLeft_lock,
    State.torn_eq_goesWith]
  rfl

/-- A claimant that goes claims no lock afterwards. -/
theorem State.lockTorn_clears {s : State} {n : PortId} {x : Claimant} (h : s.goesWith n x = true) (l : LockId) :
    (s.lockTorn n l).Clears x := by
  have hs (y : Claimant) (hy : y ∈ s.stayers n l) : y ≠ x := fun e => by
    have := (List.mem_filter.mp hy).2
    rw [e, h] at this
    exact Bool.noConfusion this
  unfold State.lockTorn
  split
  · cases e : s.stayers n l with
    | nil => exact ⟨fun e => (nomatch e), List.not_mem_nil⟩
    | cons y rest =>
      rw [e] at hs
      exact ⟨fun e => hs y List.mem_cons_self (Option.some.inj e), fun m => hs x (List.mem_cons_of_mem _ m) rfl⟩
  · next hn =>
    exact ⟨fun e => hn (by rw [e]; exact h), fun m => hs x m rfl⟩

/-- An UP port among the heirs is told by LOCK-GRANT (R111, R101). -/
theorem State.tearLocks_notice {s : State} {n m : PortId} {l : LockId} (h : s.heir n l = some (.port m))
    (hu : s.ports[m].state = .up) {i : SlotId} {b : Binding} (hb : s.ctls[m].slots[i].binding = some b)
    (hs : b.source = .lockGrant)
    (hn : ∀ j : SlotId, j ≠ i → ∀ d : Binding, s.ctls[m].slots[j].binding = some d → d.source ≠ .lockGrant) :
    ∃ z : Notice, (s.tearLocks n).ctls[m].slots[i].notice = some z ∧
      (s.ctls[m].slots[i].notice = none → (∀ k : LockId, k < l → s.heir n k ≠ some (.port m)) →
        z.detail = BitVec.ofNat 16 l.val) := by
  have ec : (s.queuesLeft (s.torn n)).ctls = s.ctls := by rw [State.queuesLeft_eq]
  have ep : (s.queuesLeft (s.torn n)).ports = s.ports := by rw [State.queuesLeft_eq]
  have key := State.releases_notice (fun l => (s.locks[l].holder).any (s.torn n)) (s.queuesLeft (s.torn n)) nodup_allLocks
    (mem_allLocks l) ((s.tearLocks_grantee n l).trans h) (by rw [ep]; exact hu) (i := i) (b := b) (by rw [ec]; exact hb) hs
    (by rw [ec]; exact hn) (by decide)
  rw [State.tearLocks_eq]
  obtain ⟨z, hz, hd⟩ := key
  refine ⟨z, hz, fun h0 hk => hd (by rw [ec]; exact h0) fun k hlt => ?_⟩
  rw [State.tearLocks_grantee]
  exact hk k hlt

/-! ## The rings before any of them settles (R92 steps 1 to 4) -/

/-- What goes with `n` is gone from every ring. -/
def State.ringsTorn (s : State) (n : PortId) : State :=
  allRings.foldl (fun u r => u.modRing r fun k => k.tear n (s.torn n) (s.ringGranted r)) s

/-- The rings that `cond` picks settle, in order. -/
def State.ringsSettled (cond : RingId → Bool) (ls : List RingId) (s : State) : State :=
  ls.foldl (fun u r => if cond r then u.settleRing r else u) s

theorem nodup_allRings : allRings.Nodup := by decide

theorem Ring.discardPost_eq (k : Ring) (c : Claimant) : k.discardPost c = { k with
    postAsm := if k.ownsPost c then none else k.postAsm
    awaiting := if k.ownsPost c then none else k.awaiting } := by
  cases ho : k.ownsPost c with
  | true => exact Ring.discardPost_of_owner ho
  | false =>
    unfold Ring.discardPost
    split
    · next m hm =>
      refine if_neg fun e => ?_
      rw [(Ring.ownsPost_iff _ _).mpr ⟨m, hm, e⟩] at ho
      exact Bool.noConfusion ho
    · rfl

theorem Ring.dropAwaiting_eq (k : Ring) (out : Claimant → Bool) : k.dropAwaiting out = { k with
    postAsm := if k.losesAwaiting out then none else k.postAsm
    awaiting := if k.losesAwaiting out then none else k.awaiting } := by
  unfold Ring.dropAwaiting
  cases k.losesAwaiting out <;> rfl

theorem Ring.closeTake_eq (k : Ring) (p : PortId) : k.closeTake p = { k with
    takeAsm := if k.takeAsm.any (fun m => decide (m.owner = p)) then none else k.takeAsm } := by
  obtain ⟨_, _, _, _, takeAsm, _, _, _, _⟩ := k
  unfold Ring.closeTake
  cases takeAsm with
  | none => rfl
  | some m => by_cases e : m.owner = p <;> simp [e]

theorem Ring.dropFlight_eq (k : Ring) (p : PortId) (granted : Bool) : k.dropFlight p granted = { k with
    inFlight := if k.flightOf p then (if granted then k.inFlight.map fun f => { f with attached := false } else none)
      else k.inFlight } := by
  unfold Ring.dropFlight
  cases k.flightOf p <;> rfl

/-- The ring engine's part of a teardown at one ring, in the words of the specification (R92). -/
theorem Ring.tear_eq (s : State) (n : PortId) (r : RingId) (k : Ring) :
    k.tear n (s.torn n) (s.ringGranted r) = s.ringWithout n r k := by
  rw [State.torn_eq_goesWith]
  unfold Ring.tear
  rw [Ring.dropFlight_eq, Ring.closeTake_eq, Ring.dropAwaiting_eq, Ring.discardPost_eq]
  unfold State.ringWithout Ring.losesAwaiting Ring.flightOf Ring.ownsPost State.ringGranted
  cases k.postAsm.any fun m => decide (m.owner = .port n) with
  | true => rfl
  | false => cases ha : k.awaiting.any fun q => s.goesWith n q.who <;> simp [ha]

/-- What a ring is without what goes with the port is seen from who goes, and from the issuer of the access in progress. -/
theorem State.ringWithout_congr {s t : State} {n : PortId} (hg : t.goesWith n = s.goesWith n)
    (hp : t.inProg.map (·.req.issuer) = s.inProg.map (·.req.issuer)) (r : RingId) (k : Ring) :
    t.ringWithout n r k = s.ringWithout n r k := by
  have ha (u : State) : (u.inProg.any fun a => decide (a.req.issuer = .ring r)) =
      (u.inProg.map (·.req.issuer)).any fun i => decide (i = .ring r) := by
    cases u.inProg <;> rfl
  unfold State.ringWithout
  rw [hg, ha t, ha s, hp]

theorem State.ringsTorn_eq (s : State) (n : PortId) : s.ringsTorn n = { s with
    rings := allRings.foldl (fun v r => upd v r fun k => k.tear n (s.torn n) (s.ringGranted r)) s.rings } := by
  have key : ∀ (ls : List RingId) (u : State),
      ls.foldl (fun u r => u.modRing r fun k => k.tear n (s.torn n) (s.ringGranted r)) u =
      { u with rings := ls.foldl (fun v r => upd v r fun k => k.tear n (s.torn n) (s.ringGranted r)) u.rings } := by
    intro ls
    induction ls with
    | nil => intro u; rfl
    | cons r ls ih => intro u; rw [List.foldl_cons, ih]; rfl
  unfold State.ringsTorn
  rw [key]

theorem State.ringsTorn_ring (s : State) (n : PortId) (r : RingId) :
    (s.ringsTorn n).rings[r] = s.ringWithout n r s.rings[r] := by
  rw [State.ringsTorn_eq]
  show (allRings.foldl (fun v r => upd v r fun k => k.tear n (s.torn n) (s.ringGranted r)) s.rings)[r] = _
  rw [foldl_upd (fun r k => k.tear n (s.torn n) (s.ringGranted r)) allRings s.rings r nodup_allRings, if_pos (mem_allRings r),
    Ring.tear_eq]

/-- A claimant that goes has nothing left at the ring. -/
theorem State.ringWithout_clears {s : State} {n : PortId} {x : Claimant} (h : s.goesWith n x = true) (r : RingId) (k : Ring) :
    (s.ringWithout n r k).Clears x := by
  refine ⟨fun e he hx => ?_, fun i hi hx => ?_, fun q hq hx => ?_⟩
  · have := (List.mem_filter.mp he).2
    rw [hx, h] at this
    exact Bool.noConfusion this
  · have := (List.mem_filter.mp hi).2
    rw [hx, h] at this
    exact Bool.noConfusion this
  · unfold State.ringWithout at hq
    dsimp only at hq
    split at hq
    · exact nomatch hq
    · next hn =>
      refine hn (Bool.or_eq_true_iff.mpr (.inr ?_))
      rw [hq]
      show s.goesWith n q.who = true
      rw [hx]
      exact h

/-- The teardown takes no write of a channel out of flight. -/
theorem State.ringWithout_flight (s : State) (n : PortId) (r : RingId) (k : Ring) (c : ChanId) :
    (s.ringWithout n r k).postInFlight c = k.postInFlight c := by
  unfold Ring.postInFlight State.ringWithout
  dsimp only
  cases k.inFlight with
  | none => rfl
  | some f =>
    by_cases e : f.post.who = .port n
    · have hn : f.post.who ≠ .chan c := fun e' => (nomatch e.symm.trans e')
      have hp : ((some f).any fun (f : InFlight) => decide (f.post.who = .port n)) = true := decide_eq_true e
      rw [if_pos hp]
      split
      · rfl
      · exact (decide_eq_false hn).symm
    · have hp : ((some f).any fun (f : InFlight) => decide (f.post.who = .port n)) ≠ true :=
        fun e' => e (of_decide_eq_true e')
      rw [if_neg hp]

/-- The teardown gives nobody an assembly. -/
theorem State.ringWithout_owns {s : State} {n : PortId} {r : RingId} {k : Ring} {x : Claimant}
    (h : (s.ringWithout n r k).ownsPost x = true) : k.ownsPost x = true := by
  unfold Ring.ownsPost State.ringWithout at h
  dsimp only at h
  split at h
  · exact Bool.noConfusion h
  · exact h

theorem State.ringWithout_disowned (s : State) (n : PortId) (r : RingId) (k : Ring) :
    (s.ringWithout n r k).ownsPost (.port n) = false ∧ (s.ringWithout n r k).ownsTake n = false := by
  unfold Ring.ownsPost Ring.ownsTake State.ringWithout
  dsimp only
  constructor
  · cases hp : k.postAsm.any fun m => decide (m.owner = .port n) with
    | true => rfl
    | false => cases k.awaiting.any fun q => s.goesWith n q.who with
      | true => rfl
      | false => exact hp
  · cases hp : k.takeAsm.any fun m => decide (m.owner = n) with
    | true => rfl
    | false => exact hp

end Sys2Proof.Machine

/-! PROOFS. What a teardown withdraws and stops (R178): the locks handed on, the rings settled, the channels stopped, in the words
of the specification (O32). -/

namespace Sys2Proof.Machine

/-! ## Rings that settle -/

theorem State.unsettles_eq (s : State) (n : PortId) (k : Ring) :
    (k.ownsPost (.port n) || k.losesAwaiting (s.torn n) || k.flightOf n) = s.unsettles n k := by
  rw [State.torn_eq_goesWith]
  rfl

/-- The ring engine's part of a teardown: the withdrawals, and then the rings that go on (R92). -/
theorem State.tearRings_eq (s : State) (n : PortId) :
    s.tearRings n = (s.ringsTorn n).ringsSettled (fun r => s.unsettles n s.rings[r]) allRings := by
  have e : (fun r : RingId => s.unsettles n s.rings[r]) = fun r =>
      s.rings[r].ownsPost (.port n) || s.rings[r].losesAwaiting (s.torn n) || s.rings[r].flightOf n :=
    funext fun r => (s.unsettles_eq n s.rings[r]).symm
  rw [e]
  rfl

theorem Spares.ringsSettled {x : Claimant} {s t : State} (h : Spares x s t) (cond : RingId → Bool) (ls : List RingId) :
    Spares x s (t.ringsSettled cond ls) := by
  refine Spares.foldl (fun r k => ?_) ls h
  split
  · exact k.settleRing r
  · exact k

theorem Steady.ringsSettled {out : ChanId → Bool} {kept : RingId → Prop} {s : State} (hs : HoldsSound out s)
    {cond : RingId → Bool} : ∀ (ls : List RingId) {t : State}, Steady out kept s t →
      (∀ r ∈ ls, cond r = true → ¬kept r) → Steady out kept s (t.ringsSettled cond ls)
  | [], _, h, _ => h
  | r :: ls, t, h, hk => by
    have h' : Steady out kept s (if cond r then t.settleRing r else t) := by
      split
      · next hc => exact h.settleRing (hk r List.mem_cons_self hc) hs
      · exact h
    exact Steady.ringsSettled hs ls h' fun q hq => hk q (List.mem_cons_of_mem _ hq)

/-- A steady step leaves the hold lists sound. -/
theorem HoldsSound.steady {out : ChanId → Bool} {kept : RingId → Prop} {s t : State} (hs : HoldsSound out s)
    (h : Steady out kept s t) : HoldsSound out t := fun r q c hq hc => by
  obtain ⟨ho, he, hl⟩ := hs r q c (h.hold r _ hq) hc
  exact ⟨ho, by rw [h.recs]; exact he, fun hv hi => hl hv ((h.idle c ho).mp hi)⟩

/-- A ring that is not picked is as it was, and one that is picked is what it becomes by itself. -/
theorem State.ringsSettled_ring {out : ChanId → Bool} {s : State} (hs : HoldsSound out s) (cond : RingId → Bool) (r : RingId)
    (he : s.recs[r].enable = true) :
    (s.ringsSettled cond allRings).rings[r] = if cond r then (s.settleRing r).rings[r] else s.rings[r] := by
  split
  case isFalse hc =>
    have h := Steady.ringsSettled (kept := (· = r)) hs (cond := cond) allRings (.refl out _ s) fun q _ hq e => hc (e ▸ hq)
    exact h.rings r rfl
  next hc =>
    obtain ⟨before, after, e, hb, ha⟩ := exists_split_of_mem nodup_allRings (mem_allRings r)
    have hu : Steady out (· = r) s (s.ringsSettled cond before) :=
      Steady.ringsSettled hs before (.refl out _ s) fun q hq _ e => hb (e ▸ hq)
    have hsame : SameRing r s (s.ringsSettled cond before) := ⟨hu.rings r rfl, by rw [hu.recs]⟩
    have hsu : HoldsSound out ((s.ringsSettled cond before).settleRing r) :=
      (hs.steady hu).steady ((Steady.refl out (fun _ => False) _).settleRing id (hs.steady hu))
    have hw := Steady.ringsSettled (kept := (· = r)) hsu (cond := cond) after (.refl out _ _) fun q hq _ e => ha (e ▸ hq)
    have hsplit : s.ringsSettled cond allRings = ((s.ringsSettled cond before).settleRing r).ringsSettled cond after := by
      unfold State.ringsSettled
      rw [e, List.foldl_append, List.foldl_cons, if_pos hc]
    rw [hsplit, hw.rings r rfl]
    exact (hsame.settleRing he).1

/-! ## Channels that are stopped -/

/-- The transfer engine's part of a teardown at one channel (R135). -/
def State.tearChan (s : State) (n : PortId) (c : ChanId) : State :=
  if s.chans[c].owner = some n ∧ s.chans[c].state ≠ .idle then s.stopChan c .dropped else s

theorem State.tearChans_eq (s : State) (n : PortId) : s.tearChans n = allChans.foldl (fun u c => u.tearChan n c) s := rfl

theorem Spares.tearChan {x : Claimant} {s t : State} (h : Spares x s t) (n : PortId) {c : ChanId} (hc : x ≠ .chan c) :
    Spares x s (t.tearChan n c) := by
  unfold State.tearChan
  split
  · exact h.stopChan _ hc
  · exact h

theorem Spares.tearChansIn {x : Claimant} {s : State} (n : PortId) : ∀ (ls : List ChanId) {t : State}, Spares x s t →
    (∀ c ∈ ls, x ≠ .chan c) → Spares x s (ls.foldl (fun u c => u.tearChan n c) t)
  | [], _, h, _ => h
  | c :: ls, _, h, hx =>
    Spares.tearChansIn n ls (h.tearChan n (hx c List.mem_cons_self)) fun d hd => hx d (List.mem_cons_of_mem _ hd)

theorem State.Gone.tearChan {x : Claimant} {s : State} (h : s.Gone x) (n : PortId) (c : ChanId) : (s.tearChan n c).Gone x := by
  unfold State.tearChan
  split
  · exact h.stopChan c _
  · exact h

/-- What a stop leaves of the record of a channel that waits nowhere: a pending stop stands, one with an access presented becomes
pending, and otherwise the run is over (R130, R131, R133). -/
def State.stopped (s : State) (c : ChanId) (st : Status) : Chan :=
  if s.chans[c].stopPending.isSome then s.chans[c]
  else if s.chanPresented c then { s.chans[c] with stopPending := some st }
  else (s.chans[c]).over st

/-- State `t` is after a stop of the channel, taken in `s` where nothing of the channel waits: nothing of it waits, its record is
that of the stop, and if the run is over it owns no assembly. -/
structure StopTaken (s : State) (c : ChanId) (st : Status) (t : State) : Prop where
  gone : t.Gone (.chan c)
  chan : t.chans[c] = s.stopped c st
  disowned : s.chans[c].stopPending = none → s.chanPresented c = false →
    ∀ r : RingId, t.rings[r].ownsPost (.chan c) = false

/-- The write of a channel that is not presented is in flight nowhere. -/
theorem State.postInFlight_of_unpresented {s : State} {c : ChanId} (h : s.chanPresented c = false) (r : RingId) :
    s.rings[r].postInFlight c = false := Bool.eq_false_iff.mpr fun e => by
  obtain ⟨f, hf⟩ := (Ring.postInFlight_iff _ _).mp e
  exact Bool.eq_false_iff.mp h ((s.chanPresented_iff c).mpr (.inr (.inr ⟨r, f, hf⟩)))

theorem State.Gone.stopChan_self {s : State} {c : ChanId} (h : s.Gone (.chan c)) (st : Status)
    (hs : s.chans[c].state ≠ .idle) : StopTaken s c st (s.stopChan c st) := by
  suffices key : (s.stopChan c st).chans[c] = s.stopped c st ∧ (s.chans[c].stopPending = none → s.chanPresented c = false →
      ∀ r : RingId, (s.stopChan c st).rings[r].ownsPost (.chan c) = false) from ⟨h.stopChan c st, key.1, key.2⟩
  unfold State.stopped
  cases hp : s.chans[c].stopPending with
  | some x =>
    rw [State.stopChan_idle st (.inr (by rw [hp]; rfl))]
    exact ⟨rfl, fun e => nomatch e⟩
  | none =>
    cases hb : s.chanPresented c with
    | true =>
      rw [h.stopChan_pending st hs hp hb]
      exact ⟨(upd_get _ _ _ _).trans (if_pos rfl), fun _ e => nomatch e⟩
    | false =>
      rw [State.stopChan_running st hs hp, State.stopRun_now st hb, h.endRun st]
      have h0 := h.modChan c fun k => k.ended st
      have h1 := (Spares.refl h0).closeAssemblies c
      have h2 := ((Spares.refl h1.gone).deliverDone c st).finishLockFree c
      have hd := State.closeAssemblies_disowned h0 fun r => State.postInFlight_of_unpresented hb r
      refine ⟨?_, fun _ _ r => Bool.eq_false_iff.mpr fun e => Bool.eq_false_iff.mp (hd r) ((h2.rings r).post e)⟩
      rw [h2.chan c rfl, h1.chan c rfl]
      exact (upd_get _ _ _ _).trans (if_pos rfl)

theorem nodup_allChans : allChans.Nodup := by decide

/-- What a stop leaves of the channel, in terms of an earlier state in which the channel was the same. -/
theorem StopTaken.of_spares {s u t : State} {c : ChanId} {st : Status} (h : StopTaken u c st t) (hu : Spares (.chan c) s u) :
    StopTaken s c st t := by
  have hc := hu.chan c rfl
  have hp := hu.chanPresented rfl
  refine ⟨h.gone, h.chan.trans ?_, fun e1 e2 => h.disowned (by rw [hc]; exact e1) (hp.trans e2)⟩
  unfold State.stopped
  rw [hc, hp]

/-- What a stop leaves of the channel stands through what does not concern the channel. -/
theorem StopTaken.spares {s t w : State} {c : ChanId} {st : Status} (h : StopTaken s c st t) (hw : Spares (.chan c) t w) :
    StopTaken s c st w :=
  ⟨hw.gone, (hw.chan c rfl).trans h.chan, fun e1 e2 r => Bool.eq_false_iff.mpr fun e =>
    Bool.eq_false_iff.mp (h.disowned e1 e2 r) ((hw.rings r).post e)⟩

/-- The stops of a teardown take that of a channel that goes with the port, and has nothing waiting (R135). -/
theorem State.tearChans_torn {s : State} {n : PortId} {c : ChanId} (h : s.Gone (.chan c)) (ho : s.chans[c].owner = some n)
    (hs : s.chans[c].state ≠ .idle) : StopTaken s c .dropped (s.tearChans n) := by
  obtain ⟨before, after, e, hb, ha⟩ := exists_split_of_mem nodup_allChans (mem_allChans c)
  have hu := Spares.tearChansIn n before (.refl h) fun d hd e' => hb (Claimant.chan.inj e' ▸ hd)
  have hc := hu.chan c rfl
  have hv := (hu.gone.stopChan_self .dropped (by rw [hc]; exact hs)).of_spares hu
  have hw := Spares.tearChansIn n after (.refl hv.gone) fun d hd e' => ha (Claimant.chan.inj e' ▸ hd)
  have ht : (before.foldl (fun u c => u.tearChan n c) s).tearChan n c =
      (before.foldl (fun u c => u.tearChan n c) s).stopChan c .dropped :=
    if_pos (by rw [hc]; exact ⟨ho, hs⟩)
  rw [State.tearChans_eq, e, List.foldl_append, List.foldl_cons, ht]
  exact hv.spares hw

/-- Where every channel of the port that is not IDLE has nothing waiting, the stops of a teardown leave the locks, the rings where
those channels own nothing, and the other channels. -/
theorem Steady.tearChansIn {out : ChanId → Bool} {kept : RingId → Prop} {s : State} {n : PortId}
    (ho : ∀ c : ChanId, s.chans[c].owner = some n → s.chans[c].state ≠ .idle → out c = true)
    (hk : ∀ r : RingId, kept r → ∀ c : ChanId, out c = true → s.rings[r].ownsPost (.chan c) = false) :
    ∀ (ls : List ChanId) {t : State}, Steady out kept s t → Spares (.port n) s t →
      (∀ c : ChanId, out c = true → t.Gone (.chan c)) → Steady out kept s (ls.foldl (fun u c => u.tearChan n c) t)
  | [], _, h, _, _ => h
  | c :: ls, t, h, hw, hg => by
    have h' : Steady out kept s (t.tearChan n c) := by
      unfold State.tearChan
      split
      · next hc =>
        have hout : out c = true := by
          cases hf : out c with
          | true => rfl
          | false =>
            have hown : t.chans[c].owner = s.chans[c].owner := congrArg Prod.snd (hw.tasks c)
            exact hf ▸ ho c (hown.symm.trans hc.1) fun e => hc.2 ((h.idle c hf).mpr e)
        exact h.stopChan _ hout (hg c hout) fun r hr => hk r hr c hout
      · exact h
    exact Steady.tearChansIn ho hk ls h' (hw.tearChan n fun e => nomatch e) fun d hd => (hg d hd).tearChan n c

/-! ## The state that a teardown withdraws from -/

/-- State `s0` is `s` with the port taken down, and its controller cleared, before anything is withdrawn (R178, R63, R3): the
objects are as they were, and so is what the transfer engine has at the arbiter and at the memory port. -/
structure TakenDown (s : State) (n : PortId) (s0 : State) : Prop where
  same : s0 = { s with ports := s0.ports, ctls := s0.ctls, reqs := s0.reqs, inProg := s0.inProg }
  engine : s0.reqs[(4 : Fin 5)] = s.reqs[(4 : Fin 5)]
  issuer : s0.inProg.map (·.req.issuer) = s.inProg.map (·.req.issuer)
  ctls : ∀ m : PortId, m ≠ n → s0.ctls[m] = s.ctls[m]
  cleared : s0.ctls[n] = (s.ctls[n]).cleared
  states : ∀ m : PortId, m ≠ n → s0.ports[m].state = s.ports[m].state
  down : s0.ports[n].state = .down ∧ s0.ports[n].teardown.isSome = true
  clear : s0.ports[n].dropped = true ∧ s0.ports[n].refusal = none
  running : s0.part = .running
  unawaited : n = 0 → ∀ c : ChanId, s0.unawaited c

/-- Locks handed on and rings without what goes, before any ring settles. -/
def State.bared (s : State) (n : PortId) : State := (s.tearLocks n).ringsTorn n

/-- The withdrawals change controllers, locks, channels and rings. -/
theorem State.bared_frame (s : State) (n : PortId) : s.bared n = { s with
    ctls := (s.bared n).ctls, locks := (s.bared n).locks, chans := (s.bared n).chans, rings := (s.bared n).rings } := by
  unfold State.bared
  rw [State.ringsTorn_eq, State.tearLocks_frame]

theorem State.bared_chans (s : State) (n : PortId) : (s.bared n).chans = (s.tearLocks n).chans := by
  unfold State.bared
  rw [State.ringsTorn_eq]

theorem State.bared_ctls (s : State) (n : PortId) : (s.bared n).ctls = (s.tearLocks n).ctls := by
  unfold State.bared
  rw [State.ringsTorn_eq]

/-- The rings that the teardown unsettles have settled after the withdrawals. -/
def State.settledFrom (s s0 : State) (n : PortId) : State :=
  (s0.bared n).ringsSettled (fun r => s.unsettles n s.rings[r]) allRings

/-- Everything of the port withdrawn, and its channels stopped (R178). -/
def State.withdrawn (s : State) (n : PortId) : State := ((s.tearLocks n).tearRings n).tearChans n

section
variable {s s0 : State} {n : PortId} (h : TakenDown s n s0)
include h

theorem TakenDown.chans : s0.chans = s.chans := by rw [h.same]
theorem TakenDown.recs : s0.recs = s.recs := by rw [h.same]
theorem TakenDown.rings : s0.rings = s.rings := by rw [h.same]
theorem TakenDown.fault : s0.fault = s.fault := by rw [h.same]
theorem TakenDown.goesWith : s0.goesWith n = s.goesWith n := by rw [h.same]; rfl
theorem TakenDown.heir (l : LockId) : s0.heir n l = s.heir n l := by rw [h.same]; rfl
theorem TakenDown.lockTorn (l : LockId) : s0.lockTorn n l = s.lockTorn n l := by rw [h.same]; rfl

theorem TakenDown.bared_lock (l : LockId) : (s0.bared n).locks[l] = s.lockTorn n l := by
  have e : (s0.bared n).locks = (s0.tearLocks n).locks := by unfold State.bared; rw [State.ringsTorn_eq]
  rw [e, State.tearLocks_lock, h.lockTorn]

theorem TakenDown.bared_ring (r : RingId) : (s0.bared n).rings[r] = s.ringWithout n r s.rings[r] := by
  have hr : (s0.tearLocks n).rings = s.rings := by rw [State.tearLocks_frame]; exact h.rings
  have hp : (s0.tearLocks n).inProg = s0.inProg := by rw [State.tearLocks_frame]
  unfold State.bared
  rw [State.ringsTorn_ring, hr]
  exact State.ringWithout_congr ((s0.tearLocks_goesWith n).trans h.goesWith) (by rw [hp]; exact h.issuer) r _

/-- What the withdrawals pick for settling is what the teardown unsettles. -/
theorem TakenDown.withdrawn_eq : s0.withdrawn n = (s.settledFrom s0 n).tearChans n := by
  have hr : (s0.tearLocks n).rings = s.rings := by rw [State.tearLocks_frame]; exact h.rings
  have hc : (fun r : RingId => (s0.tearLocks n).unsettles n (s0.tearLocks n).rings[r]) = fun r => s.unsettles n s.rings[r] := by
    funext r
    unfold State.unsettles
    rw [hr, s0.tearLocks_goesWith n, h.goesWith]
  unfold State.withdrawn State.settledFrom State.bared
  rw [State.tearRings_eq, hc]

/-- What goes waits nowhere after the withdrawals. -/
theorem TakenDown.bared_gone {x : Claimant} (hx : s.goesWith n x = true) : (s0.bared n).Gone x := by
  refine ⟨fun r => ?_, fun l => ?_, fun e c => ?_⟩
  · rw [h.bared_ring]
    exact State.ringWithout_clears hx r _
  · rw [h.bared_lock]
    exact State.lockTorn_clears hx l
  · subst e
    have hn : (0 : PortId) = n := (s.goesWith_port n 0).mp hx
    have hu := h.unawaited hn.symm c
    rw [State.bared_frame]
    exact hu

theorem TakenDown.bared_idle (c : ChanId) : (s0.bared n).chans[c].state = .idle ↔ s.chans[c].state = .idle := by
  rw [State.bared_chans, State.tearLocks_idle, h.chans]

theorem TakenDown.bared_tasks : SameChans (fun k => (k.desc, k.owner)) s (s0.bared n) := fun c => by
  rw [State.bared_chans, State.tearLocks_tasks s0 n c, h.chans]

/-- A channel that goes is as it was, and an access of its is presented as before. -/
theorem TakenDown.bared_chan {c : ChanId} (hc : s.goesWith n (.chan c) = true) : (s0.bared n).chans[c] = s.chans[c] := by
  rw [State.bared_chans, State.tearLocks_chan_goes (by rw [h.goesWith]; exact hc), h.chans]

theorem TakenDown.bared_presented (c : ChanId) : (s0.bared n).chanPresented c = s.chanPresented c := by
  have ha (u : State) : (u.inProg.any fun a => a.req.ofChan c) = (u.inProg.map (·.req.issuer)).any fun i =>
      match i with | .chan d _ => decide (d = c) | _ => false := by
    cases u.inProg <;> rfl
  have hq : (s0.bared n).reqs = s0.reqs := by rw [State.bared_frame]
  have hp : (s0.bared n).inProg = s0.inProg := by rw [State.bared_frame]
  have hf : (s0.bared n).postIssued c = s.postIssued c := by
    unfold State.postIssued
    refine congrArg _ (funext fun r => ?_)
    rw [h.bared_ring, State.ringWithout_flight]
  unfold State.chanPresented
  rw [hf, hq, h.engine, ha, ha s, hp, h.issuer]

/-- What goes is spared by the settling of the rings. -/
theorem TakenDown.spares_settled {x : Claimant} (hx : s.goesWith n x = true) : Spares x (s0.bared n) (s.settledFrom s0 n) :=
  (Spares.refl (h.bared_gone hx)).ringsSettled _ _

/-- What the port has: spared by all that follows the withdrawals. -/
theorem TakenDown.spares_port : Spares (.port n) (s0.bared n) (s0.withdrawn n) := by
  rw [h.withdrawn_eq, State.tearChans_eq]
  exact Spares.tearChansIn n allChans (h.spares_settled ((s.goesWith_port n n).mpr rfl)) fun _ _ e => nomatch e

/-- The channels that go are stopped, after their places and posts are gone (R135, log 17). -/
theorem TakenDown.torn {c : ChanId} (hc : s.goesWith n (.chan c) = true) : StopTaken s c .dropped (s0.withdrawn n) := by
  obtain ⟨ho, hs⟩ := (s.goesWith_chan n c).mp hc
  have hr := h.spares_settled hc
  have hch := (hr.chan c rfl).trans (h.bared_chan hc)
  have hb : StopTaken (s0.bared n) c .dropped (s0.withdrawn n) := by
    rw [h.withdrawn_eq]
    exact (State.tearChans_torn hr.gone (by rw [hch]; exact ho) (by rw [hch]; exact hs)).of_spares hr
  refine ⟨hb.gone, hb.chan.trans ?_, fun e1 e2 => hb.disowned ?_ ((h.bared_presented c).trans e2)⟩
  case refine_2 =>
    rw [h.bared_chan hc]
    exact e1
  unfold State.stopped
  rw [h.bared_chan hc, h.bared_presented]

end

end Sys2Proof.Machine

/-! PROOFS. The teardown as a whole (R177 to R179): what it leaves, in the words of the specification, and its end (O32). -/

namespace Sys2Proof.Machine

/-! ## The controller and the records (R63, R22) -/

theorem Controller.cleared_slot (k : Controller) (i : SlotId) : (k.cleared).slots[i] = { k.slots[i] with notice := none } := by
  unfold Controller.cleared
  show (allSlots.foldl (fun sl i => upd sl i fun x => { x with notice := none }) k.slots)[i] = _
  rw [foldl_upd (fun _ x => { x with notice := none }) allSlots k.slots i (by decide), if_pos (mem_allSlots i)]

theorem Quiet.withdrawn {s t : State} (h : Quiet s t) (n : PortId) : Quiet s (t.withdrawn n) :=
  ((h.tearLocks n).tearRings n).tearChans n

theorem Ring.ownsTake_false {k : Ring} {p : PortId} (h : k.ownsTake p = false) : ∀ a, k.takeAsm = some a → a.owner ≠ p :=
  fun a ha e => by
    unfold Ring.ownsTake at h
    rw [ha] at h
    exact of_decide_eq_false h e

theorem Ring.ownsPost_ne {k : Ring} {x : Claimant} (h : k.ownsPost x = false) : ∀ m, k.postAsm = some m → m.owner ≠ x :=
  fun m hm e => Bool.eq_false_iff.mp h ((k.ownsPost_iff x).mpr ⟨m, hm, e⟩)

/-- The rings settle without a channel that stops. -/
theorem HoldsSound.steady_settled {s s0 : State} {n : PortId} (hs : HoldsSound (fun c => s.goesWith n (.chan c)) (s0.bared n)) :
    Steady (fun c => s.goesWith n (.chan c)) (fun _ => False) (s0.bared n) (s.settledFrom s0 n) :=
  Steady.ringsSettled hs allRings (.refl _ _ _) fun _ _ _ => id

section
variable {s s0 : State} {n : PortId} (h : TakenDown s n s0)
include h

theorem TakenDown.port : (s0.withdrawn n).ports[n] = s0.ports[n] ∧
    (s0.withdrawn n).reqs[reqOfPort n] = s0.reqs[reqOfPort n] ∧ (s0.withdrawn n).inProg = s0.inProg := by
  have hs := h.spares_port
  have e : (s0.bared n).ports = s0.ports ∧ (s0.bared n).reqs = s0.reqs ∧ (s0.bared n).inProg = s0.inProg := by
    rw [State.bared_frame]
    exact ⟨rfl, rfl, rfl⟩
  obtain ⟨ep, eq, ei⟩ := e
  exact ⟨(hs.port n rfl).1.trans (by rw [ep]), (hs.port n rfl).2.trans (by rw [eq]), hs.engine.2.trans ei⟩

/-- The DOWN port's controller takes nothing, and stays clear (R37). -/
theorem TakenDown.silent (i : SlotId) : (s0.withdrawn n).ctls[n].slots[i].notice = none := by
  have ht (src : Source) : s0.takesDelivery n src = false := by
    unfold State.takesDelivery
    rw [h.down.1, h.running]
    simp
  have h0 : s0.ctls[n].slots[i].notice = none := by
    rw [h.cleared, Controller.cleared_slot]
  obtain ⟨_, e | ⟨x, _, hx⟩⟩ := (((Quiet.refl s0).withdrawn n).ctls n).2.2.2.2.2 i
  · exact e.trans h0
  · exact absurd ((ht _).symm.trans hx) (by decide)

theorem TakenDown.holdsNothing : (s0.withdrawn n).holdsNothing n := by
  obtain ⟨h1, h2, h3, h4, h5, _⟩ := ((Quiet.refl s0).withdrawn n).ctls n
  have hs := h.spares_port
  rw [h.cleared] at h1 h2 h3 h4 h5
  obtain ⟨hd, hr⟩ := h.clear
  refine ⟨h3, h1, h2, h4, h5, h.silent, by rw [h.port.1, hr], by rw [h.port.1, hd], fun l => hs.gone.locks l, fun r => ?_⟩
  obtain ⟨hst, hh, _⟩ := hs.gone.rings r
  have hown : (s0.bared n).rings[r].ownsPost (.port n) = false ∧ (s0.bared n).rings[r].ownsTake n = false := by
    rw [h.bared_ring]
    exact s.ringWithout_disowned n r _
  exact ⟨hst, hh, Ring.ownsPost_ne (Bool.eq_false_iff.mpr fun e => Bool.eq_false_iff.mp hown.1 ((hs.rings r).post e)),
    Ring.ownsTake_false (Bool.eq_false_iff.mpr fun e => Bool.eq_false_iff.mp hown.2 ((hs.rings r).take n rfl e))⟩

theorem TakenDown.sameShadow : sameShadow s (s0.withdrawn n) := by
  have hq := (Quiet.refl s0).withdrawn n
  obtain ⟨_, _, _, _, h1, h2, h3, h4, _⟩ := hq.config
  rw [h.same] at h1 h2 h3 h4
  refine ⟨h.same ▸ h1, h.same ▸ h2, h.same ▸ h3, h.same ▸ h4, fun p i => ((hq.ctls p).2.2.2.2.2 i).1.trans ?_⟩
  by_cases e : p = n
  · subst e
    rw [h.cleared, Controller.cleared_slot]
  · rw [h.ctls p e]

theorem TakenDown.samePart : samePart s (s0.withdrawn n) := by
  obtain ⟨h1, h2, h3, h4, _, _, _, _, h5, _⟩ := ((Quiet.refl s0).withdrawn n).config
  exact ⟨h1.trans (by rw [h.same]), h2.trans (by rw [h.same]), h3.trans (by rw [h.same]), h4.trans (by rw [h.same]),
    h5.trans (by rw [h.same])⟩

theorem TakenDown.withdrawn_fault : (s0.withdrawn n).fault = s.fault := by
  have e : (s0.bared n).fault = s0.fault := by rw [State.bared_frame]
  exact h.spares_port.fault.trans (e.trans h.fault)

theorem TakenDown.tasks : SameChans (fun k => (k.desc, k.owner)) s (s0.withdrawn n) := fun c =>
  (h.spares_port.tasks c).trans (h.bared_tasks c)

/-! ## Locks and rings, where no ring holds a post that stops a channel -/

/-- The condition under which `TornDown` speaks of locks and rings. -/
theorem TakenDown.holdsSound (hh : ∀ r : RingId, ∀ i ∈ s.rings[r].hold, ∀ q : Post, i = .post q → ∀ c : ChanId,
    q.who = .chan c → s.recs[r].enable = true ∧ (q.live = true → s.chans[c].state ≠ .idle)) :
    HoldsSound (fun c => s.goesWith n (.chan c)) (s0.bared n) := by
  intro r q c hq hc
  have hr : (s0.bared n).recs = s.recs := by rw [State.bared_frame]; exact h.recs
  rw [h.bared_ring] at hq
  obtain ⟨hm, hg⟩ := List.mem_filter.mp hq
  obtain ⟨he, hl⟩ := hh r _ hm q rfl c hc
  refine ⟨?_, by rw [hr]; exact he, fun hv hi => hl hv ((h.bared_idle c).mp hi)⟩
  have hg' : (!s.goesWith n q.who) = true := hg
  rw [hc] at hg'
  exact Bool.not_eq_true' _ ▸ hg'

variable (hs : HoldsSound (fun c => s.goesWith n (.chan c)) (s0.bared n))
include hs

/-- The channels of the port that are not IDLE after that are those that go with it. -/
theorem TakenDown.settled_goes {c : ChanId} (ho : (s.settledFrom s0 n).chans[c].owner = some n)
    (hi : (s.settledFrom s0 n).chans[c].state ≠ .idle) : s.goesWith n (.chan c) = true := by
  by_contra hf
  have hf := Bool.eq_false_iff.mpr hf
  have h1 : (s.settledFrom s0 n).chans[c].owner = (s0.bared n).chans[c].owner :=
    congrArg Prod.snd ((h.spares_settled ((s.goesWith_port n n).mpr rfl)).tasks c)
  have h2 : (s0.bared n).chans[c].owner = s.chans[c].owner := congrArg Prod.snd (h.bared_tasks c)
  have hidle := (hs.steady_settled.idle c hf).trans (h.bared_idle c)
  have := (s.goesWith_chan n c).mpr ⟨(h1.trans h2).symm.trans ho, fun e => hi (hidle.mpr e)⟩
  exact Bool.noConfusion (hf.symm.trans this)

/-- The stops of a teardown leave the locks, the rings where no channel that goes owns an assembly, and the channels in RUN of
which no ring holds a post. -/
theorem TakenDown.steady_stops {kept : RingId → Prop} (hk : ∀ r : RingId, kept r → ∀ c : ChanId,
    s.goesWith n (.chan c) = true → (s.settledFrom s0 n).rings[r].ownsPost (.chan c) = false) :
    Steady (fun c => s.goesWith n (.chan c)) kept (s.settledFrom s0 n) (s0.withdrawn n) := by
  rw [h.withdrawn_eq, State.tearChans_eq]
  exact Steady.tearChansIn (n := n) (fun c ho hi => h.settled_goes hs ho hi) hk allChans (.refl _ _ _)
    (.refl (h.spares_settled ((s.goesWith_port n n).mpr rfl)).gone) fun c hc => (h.spares_settled hc).gone

theorem TakenDown.locks : (s0.withdrawn n).locks = (s0.bared n).locks :=
  (h.steady_stops hs (kept := fun _ => False) fun _ e => e.elim).locks.trans hs.steady_settled.locks

theorem TakenDown.chan_run {c : ChanId} (hc : s.goesWith n (.chan c) = false) (hr : (s0.bared n).chans[c].state = .run)
    (hn : (s0.bared n).unheld c) : (s0.withdrawn n).chans[c] = (s0.bared n).chans[c] := by
  have h1 := hs.steady_settled
  have h2 := h1.run c hc hr hn
  have h3 := (h.steady_stops hs (kept := fun _ => False) fun _ e => e.elim).run c hc (by rw [h2]; exact hr)
    fun r i hi => hn r i (h1.hold r i hi)
  exact h3.trans h2

theorem TakenDown.locksHandedOn : LocksHandedOn s n (s0.withdrawn n) := by
  intro l
  refine ⟨?_, fun m hm hu i b hb hsrc hn => ?_, fun d hd hw hn => ?_⟩
  · rw [h.locks hs, h.bared_lock]
    rfl
  · have hmn : m ≠ n := fun e => by
      have := State.heir_stays hm
      rw [(s.goesWith_port n m).mpr e] at this
      exact Bool.noConfusion this
    have hc : s0.ctls[m] = s.ctls[m] := h.ctls m hmn
    obtain ⟨z, hz, hdet⟩ := State.tearLocks_notice (s := s0) ((h.heir l).trans hm) ((h.states m hmn).trans hu)
      (i := i) (b := b) (by rw [hc]; exact hb) hsrc (by rw [hc]; exact hn)
    rw [← State.bared_ctls] at hz
    obtain ⟨y, hy, hyd⟩ := h.spares_port.notices m i z hz
    rw [hy]
    refine ⟨rfl, fun h0 hk => congrArg some (hyd.trans (hdet (by rw [hc]; exact h0) fun k hlt => ?_))⟩
    rw [h.heir]
    exact hk k hlt
  · have hb : (s0.bared n).chans[d] = { s.chans[d] with state := .run } := by
      rw [State.bared_chans, State.tearLocks_chan_heir ((h.heir l).trans hd) (by rw [h.chans]; exact hw), h.chans]
    rw [h.chan_run hs (State.heir_stays hd) (by rw [hb]) fun r i hi => ?_, hb]
    rw [h.bared_ring] at hi
    exact hn r i (List.mem_of_mem_filter hi)

theorem TakenDown.ringsGoOn : RingsGoOn s n (s0.withdrawn n) := by
  intro r he hno
  have hr : (s0.bared n).recs = s.recs := by rw [State.bared_frame]; exact h.recs
  have hown (c : ChanId) (hc : s.goesWith n (.chan c) = true) : (s.settledFrom s0 n).rings[r].ownsPost (.chan c) = false := by
    refine Bool.eq_false_iff.mpr fun e => ?_
    have e' := ((h.spares_settled hc).rings r).post e
    rw [h.bared_ring] at e'
    obtain ⟨m, hm, ho⟩ := (Ring.ownsPost_iff _ _).mp (State.ringWithout_owns e')
    exact (hno c hc).2 m hm ho
  have hstop : (s0.withdrawn n).rings[r] = (s.settledFrom s0 n).rings[r] :=
    (h.steady_stops hs (kept := (· = r)) fun q e c hc => e ▸ hown c hc).rings r rfl
  have hring : (s.settledFrom s0 n).rings[r] = _ :=
    State.ringsSettled_ring hs (fun r => s.unsettles n s.rings[r]) r (by rw [hr]; exact he)
  refine ⟨fun hu => ?_, fun hu u hopen v hgo => ?_⟩
  · rw [hstop, hring, hu, if_neg Bool.false_ne_true, h.bared_ring]
  · have hsame : SameRing r (s.modRing r (s.ringWithout n r)) (s0.bared n) :=
      ⟨by rw [h.bared_ring, State.modRing_ring_same], by rw [hr]; rfl⟩
    have hv : v = (s.modRing r (s.ringWithout n r)).settleRing r := by
      have e1 := Host.Outcome.next.inj hopen
      have e2 := Host.Outcome.next.inj hgo
      rw [← e2, ← e1]
      rfl
    rw [hstop, hring, hu, if_pos rfl, hv]
    exact (hsame.settleRing he).1

end

/-- What a teardown leaves before its end is waited for, in the words of the specification. -/
theorem TakenDown.tornDown {s s0 : State} {n : PortId} (h : TakenDown s n s0) : TornDown s n (s0.withdrawn n) := by
  have hq := (Quiet.refl s0).withdrawn n
  refine ⟨h.holdsNothing, h.sameShadow, h.samePart, h.withdrawn_fault,
    fun hh => ⟨h.locksHandedOn (h.holdsSound hh), h.ringsGoOn (h.holdsSound hh)⟩, fun m hm => ?_, fun c => ?_,
    fun c ho hs => ?_⟩
  · obtain ⟨h1, h2, h3, h4, h5, _⟩ := hq.ctls m
    rw [h.ctls m hm] at h1 h2 h3 h4 h5
    exact ⟨h1, h2, h3, h4, h5⟩
  · exact Prod.mk.inj (h.tasks c)
  · obtain ⟨hg, hc, hd⟩ := h.torn ((s.goesWith_chan n c).mpr ⟨ho, hs⟩)
    refine ⟨fun e1 e2 r => Ring.ownsPost_ne (hd e1 e2 r), fun l => hg.locks l, fun r => ?_, hc⟩
    obtain ⟨h1, h2, h3⟩ := hg.rings r
    exact ⟨h1, h2, h3⟩

end Sys2Proof.Machine

/-! PROOFS. DROP_PORT and PORT_RESET (R177 to R179): the start of a teardown, and its end where nothing keeps it waiting (O32). -/

namespace Sys2Proof.Machine

/-! ## The start (R178, R3) -/

/-- A teardown withdraws from the state in which the port is taken down. -/
def State.takenDown (s : State) (n : PortId) (cause : TeardownCause) : State :=
  (if cause = .drop ∧ n = 0 then s.modPort n (·.tornDown cause)
    else (s.modPort n (·.tornDown cause)).abandonCycle n).modCtl n (·.cleared)

theorem State.tearDown_eq (s : State) (n : PortId) (cause : TeardownCause) :
    s.tearDown n cause = ((s.takenDown n cause).withdrawn n).finishTeardown n := rfl

theorem Access.abandonFor_issuer (p : PortId) (a : Access) : (a.abandonFor p).req.issuer = a.req.issuer := by
  unfold Access.abandonFor
  split <;> rfl

theorem reqOfPort_ne_engine (p : PortId) : reqOfPort p ≠ 4 := (Fin.castSucc_lt_last p).ne

section
variable {n : PortId} {cause : TeardownCause} (hc : ¬(cause = .drop ∧ n = 0))
include hc

theorem State.takenDown_port (u : State) (m : PortId) : (u.takenDown n cause).ports[m] =
    if n = m then ((u.ports[m]).tornDown cause).abandonCycle else u.ports[m] := by
  unfold State.takenDown
  rw [if_neg hc]
  show (upd (upd u.ports n _) n _)[m] = _
  rw [upd_upd, upd_get]

theorem State.takenDown_eq (u : State) : u.takenDown n cause = { u with
    ports := (u.takenDown n cause).ports
    ctls := upd u.ctls n (·.cleared)
    reqs := upd u.reqs (reqOfPort n) fun _ => none
    inProg := u.inProg.map (·.abandonFor n) } := by
  unfold State.takenDown
  rw [if_neg hc]
  rfl

end

/-- P0 that drops itself keeps the cycle of its write (R9). -/
theorem State.takenDown_port_self (u : State) (m : PortId) : (u.takenDown 0 .drop).ports[m] =
    if 0 = m then (u.ports[m]).tornDown .drop else u.ports[m] := upd_get _ _ _ _

theorem State.takenDown_eq_self (u : State) : u.takenDown 0 .drop = { u with
    ports := (u.takenDown 0 .drop).ports, ctls := upd u.ctls 0 (·.cleared) } := by
  unfold State.takenDown
  rw [if_pos ⟨rfl, rfl⟩]
  rfl

section
variable {s u : State} {n : PortId} (hu : u = { s with ports := u.ports }) (hr : s.part = .running)
  (hs : ∀ m : PortId, m ≠ n → u.ports[m].state = s.ports[m].state)
include hu hr hs

/-- A port whose cycle is abandoned is taken down (R3, R178). -/
theorem State.takenDown_abandons {cause : TeardownCause} (hc : ¬(cause = .drop ∧ n = 0)) :
    TakenDown s n (u.takenDown n cause) := by
  have hpn := (State.takenDown_port hc u n).trans (if_pos rfl)
  have he : u.takenDown n cause = { s with
      ports := (u.takenDown n cause).ports
      ctls := upd s.ctls n (·.cleared)
      reqs := upd s.reqs (reqOfPort n) fun _ => none
      inProg := s.inProg.map (·.abandonFor n) } := by
    rw [State.takenDown_eq hc, hu]
  have hctl (m : PortId) : (u.takenDown n cause).ctls[m] = if n = m then (s.ctls[m]).cleared else s.ctls[m] := by
    rw [he]
    exact upd_get _ _ _ _
  refine ⟨?_, ?_, ?_, fun m hm => ?_, ?_, fun m hm => ?_, ?_, ?_, ?_, fun hn c k hk => ?_⟩
  · rw [he]
  · rw [he]
    exact upd_other s.reqs _ (reqOfPort_ne_engine n)
  · rw [he]
    cases s.inProg with
    | none => rfl
    | some a => exact congrArg some (a.abandonFor_issuer n)
  · rw [hctl, if_neg (Ne.symm hm)]
  · rw [hctl, if_pos rfl]
  · rw [State.takenDown_port hc, if_neg (Ne.symm hm)]
    exact hs m hm
  · rw [hpn]
    exact ⟨rfl, rfl⟩
  · rw [hpn]
    exact ⟨rfl, rfl⟩
  · rw [he]
    exact hr
  · subst hn
    rw [hpn] at hk
    exact nomatch hk

/-- P0 that drops itself is taken down, its write waiting for no stop of its own (R9). -/
theorem State.takenDown_keeps {k : Cycle} (hn : n = 0) (hk : u.ports[(0 : PortId)].cycle = some k)
    (hw : ∀ c : ChanId, k.wait ≠ .lockFree c) : TakenDown s n (u.takenDown n .drop) := by
  subst hn
  have hp0 := (u.takenDown_port_self 0).trans (if_pos rfl)
  have he : u.takenDown 0 .drop = { s with ports := (u.takenDown 0 .drop).ports, ctls := upd s.ctls 0 (·.cleared) } := by
    rw [State.takenDown_eq_self, hu]
  have hctl (m : PortId) : (u.takenDown 0 .drop).ctls[m] = if 0 = m then (s.ctls[m]).cleared else s.ctls[m] := by
    rw [he]
    exact upd_get _ _ _ _
  refine ⟨?_, ?_, ?_, fun m hm => ?_, ?_, fun m hm => ?_, ?_, ?_, ?_, fun _ c x hx => ?_⟩
  · rw [he]
  · rw [he]
  · rw [he]
  · rw [hctl, if_neg (Ne.symm hm)]
  · rw [hctl, if_pos rfl]
  · rw [State.takenDown_port_self, if_neg (Ne.symm hm)]
    exact hs m hm
  · rw [hp0]
    exact ⟨rfl, rfl⟩
  · rw [hp0]
    exact ⟨rfl, rfl⟩
  · rw [he]
    exact hr
  · rw [hp0] at hx
    exact Option.some.inj (hk.symm.trans hx) ▸ hw c

/-- The abandoned cycle of a port that is taken down stays abandoned (R3). -/
theorem State.withdrawn_abandoned {cause : TeardownCause} (hc : ¬(cause = .drop ∧ n = 0))
    (hcy : u.ports[n].cycle = s.ports[n].cycle) (hl : u.ports[n].last = s.ports[n].last) :
    CycleAbandoned s n ((u.takenDown n cause).withdrawn n) := by
  obtain ⟨hp, hq, hi⟩ := (State.takenDown_abandons hu hr hs hc).port
  have hp' := hp.trans ((State.takenDown_port hc u n).trans (if_pos rfl))
  have hq' : (u.takenDown n cause).reqs = upd u.reqs (reqOfPort n) fun _ => none := by rw [State.takenDown_eq hc]
  have hi' : (u.takenDown n cause).inProg = s.inProg.map (·.abandonFor n) := by rw [State.takenDown_eq hc, hu]
  refine ⟨by rw [hp']; rfl, by rw [hp']; rfl, ?_, ?_, fun x hx hcode => ?_⟩
  · rw [hq, hq']
    exact (upd_get _ _ _ _).trans (if_pos rfl)
  · rw [hp', ← hcy, ← hl]
    rfl
  · rw [hi, hi', hx]
    exact congrArg some (if_pos hcode)

end

/-! ## The end (R178, R9) -/

theorem State.endDrop_frame (s : State) (n : PortId) : s.endDrop n =
    { s with ports := (s.endDrop n).ports, reqs := (s.endDrop n).reqs, inProg := (s.endDrop n).inProg } := by
  unfold State.endDrop
  split
  · split <;> rfl
  · rfl

/-- The end of a DROP_PORT write changes nothing of another port, nor of another port's access. -/
theorem State.endDrop_other (s : State) (n : PortId) {m : PortId} (hm : m ≠ 0) : (s.endDrop n).ports[m] = s.ports[m] ∧
    (s.endDrop n).reqs[reqOfPort m] = s.reqs[reqOfPort m] ∧
    ∀ x : Access, s.inProg = some x → x.req.code = m.val → (s.endDrop n).inProg = some x := by
  have hp (f : Port → Port) : (s.modPort 0 f).ports[m] = s.ports[m] := State.modPort_port_other s f (Ne.symm hm)
  unfold State.endDrop
  split
  · split
    · exact ⟨hp _, rfl, fun x hx _ => hx⟩
    · refine ⟨hp _, upd_other s.reqs _ fun e => hm (Fin.castSucc_injective _ e).symm, fun x hx hc => ?_⟩
      show s.inProg.map (·.abandonFor 0) = some x
      rw [hx]
      refine congrArg some (if_neg fun e => hm (Fin.ext ?_))
      exact hc.symm.trans e
  · exact ⟨rfl, rfl, fun x hx _ => hx⟩

theorem State.endDrop_refusal (s : State) (n m : PortId) : (s.endDrop n).ports[m].refusal = s.ports[m].refusal := by
  have hp (f : Port → Port) (hf : ∀ pt, (f pt).refusal = pt.refusal) :
      (s.modPort 0 f).ports[m].refusal = s.ports[m].refusal := by
    rw [State.modPort_port]
    split
    · exact hf _
    · rfl
  unfold State.endDrop
  split
  · split
    · exact hp _ fun pt => by cases pt.cycle <;> rfl
    · exact hp _ fun _ => rfl
  · rfl

/-- The DROP_PORT write that waits for the teardown comes to its end: it completes, or is abandoned where P0 is not UP (R9). -/
theorem State.endDrop_ends {s : State} {n : PortId} {k : Cycle} (hk : s.ports[(0 : PortId)].cycle = some k)
    (hw : k.wait = .control n) : (s.endDrop n).ports[(0 : PortId)].cycle = none ∧
      (s.endDrop n).ports[(0 : PortId)].last = some (if s.ports[(0 : PortId)].state = .up then .write else .abandoned) := by
  have hany : (s.ports[(0 : PortId)].cycle).any (fun c => decide (c.wait = .control n)) = true := by
    rw [hk]
    exact decide_eq_true hw
  unfold State.endDrop
  rw [if_pos hany]
  by_cases hs : s.ports[(0 : PortId)].state = .up
  · rw [if_pos hs, if_pos hs, State.completeWrite_of_cycle hk, State.modPort_port_same]
    exact ⟨rfl, rfl⟩
  · have hp : (s.abandonCycle 0).ports[(0 : PortId)] = (s.ports[(0 : PortId)]).abandonCycle :=
      State.modPort_port_same s 0 (·.abandonCycle)
    rw [if_neg hs, if_neg hs, hp]
    unfold Port.abandonCycle
    rw [hk]
    exact ⟨rfl, rfl⟩

/-- A teardown ends where no stop is waited for. -/
theorem State.finishTeardown_ends {s : State} {n : PortId} (h : s.ports[n].teardown.isSome = true)
    (hw : s.teardownWaits n = false) : s.finishTeardown n = (s.modPort n (·.afterTeardown)).endDrop n := if_pos ⟨h, hw⟩

theorem State.finishTeardown_waits {s : State} {n : PortId} (hw : s.teardownWaits n = true) : s.finishTeardown n = s :=
  if_neg fun e => Bool.noConfusion (hw.symm.trans e.2)

theorem State.finishTeardown_frame (s : State) (n : PortId) : s.finishTeardown n = { s with
    ports := (s.finishTeardown n).ports, reqs := (s.finishTeardown n).reqs, inProg := (s.finishTeardown n).inProg } := by
  unfold State.finishTeardown
  split
  · rw [State.endDrop_frame]
    rfl
  · rfl

/-- The end of a teardown keeps the flag and the empty record (R22). -/
theorem State.finishTeardown_records (s : State) (n : PortId) : (s.finishTeardown n).ports[n].refusal = s.ports[n].refusal ∧
    (s.finishTeardown n).ports[n].dropped = s.ports[n].dropped ∧ (s.finishTeardown n).ports[n].prstn = s.ports[n].prstn := by
  unfold State.finishTeardown
  split
  · obtain ⟨_, h2, h3, _⟩ := ((Quiet.refl (s.modPort n (·.afterTeardown))).endDrop n).ports n
    rw [State.endDrop_refusal, h2, h3, State.modPort_port_same]
    exact ⟨rfl, rfl, rfl⟩
  · exact ⟨rfl, rfl, rfl⟩

/-- The port's state by whether its teardown has ended (R177, R179, log 9). -/
theorem State.finishTeardown_state {s : State} {n : PortId} (h : s.ports[n].teardown.isSome = true)
    (hd : s.ports[n].state = .down) : (s.finishTeardown n).ports[n].state =
      if (s.finishTeardown n).ports[n].teardown = none ∧ s.ports[n].prstn = true then .up else .down := by
  cases hw : s.teardownWaits n with
  | true =>
    rw [State.finishTeardown_waits hw, if_neg fun e => ?_, hd]
    rw [e.1] at h
    exact Bool.noConfusion h
  | false =>
    obtain ⟨h1, _, _, h4⟩ := ((Quiet.refl (s.modPort n (·.afterTeardown))).endDrop n).ports n
    rw [State.finishTeardown_ends h hw, h1, h4, State.modPort_port_same]
    unfold Port.afterTeardown
    cases s.ports[n].prstn <;> rfl

/-- The end of a teardown changes nothing of what has been withdrawn. -/
theorem TornDown.finish {s t : State} {n : PortId} (h : TornDown s n t) : TornDown s n (t.finishTeardown n) := by
  obtain ⟨hr, hd, _⟩ := t.finishTeardown_records n
  obtain ⟨hn, h2, h3, h4, h5, h6, h7, h8⟩ := h
  obtain ⟨c1, c2, c3, c4, c5, c6, r1, r2, hl, hk⟩ := hn
  have hn' : (t.finishTeardown n).holdsNothing n := by
    unfold State.holdsNothing
    rw [hr, hd, State.finishTeardown_frame]
    exact ⟨c1, c2, c3, c4, c5, c6, r1, r2, hl, hk⟩
  refine ⟨hn', ?_⟩
  rw [State.finishTeardown_frame]
  exact ⟨h2, h3, h4, h5, h6, h7, h8⟩

/-- The cycle stays abandoned through the end of the teardown. -/
theorem CycleAbandoned.finish {s t : State} {n : PortId} (h : CycleAbandoned s n t) :
    CycleAbandoned s n (t.finishTeardown n) := by
  obtain ⟨h1, h2, h3, h4, h5⟩ := h
  unfold State.finishTeardown
  split
  case isFalse => exact ⟨h1, h2, h3, h4, h5⟩
  have hp : (t.modPort n (·.afterTeardown)).ports[n] = (t.ports[n]).afterTeardown := State.modPort_port_same _ _ _
  by_cases hn : n = 0
  · subst hn
    have he : (t.modPort 0 (·.afterTeardown)).endDrop 0 = t.modPort 0 (·.afterTeardown) := by
      unfold State.endDrop
      rw [hp]
      refine if_neg ?_
      show ¬((t.ports[(0 : PortId)].cycle).any _ = true)
      rw [h1]
      exact Bool.false_ne_true
    rw [he]
    refine ⟨?_, ?_, h3, ?_, h5⟩
    · rw [hp]; exact h1
    · rw [hp]; exact h2
    · rw [hp]; exact h4
  · obtain ⟨e1, e2, e3⟩ := (t.modPort n (·.afterTeardown)).endDrop_other n hn
    rw [hp] at e1
    refine ⟨?_, ?_, e2.trans h3, ?_, fun x hx hc => e3 _ (h5 x hx hc) hc⟩
    · rw [e1]; exact h1
    · rw [e1]; exact h2
    · rw [e1]; exact h4

/-! ## A quiet teardown -/

/-- Where nothing waits at a ring, it has nothing to go on with. -/
theorem State.settleRing_quiet {s : State} {r : RingId} (hst : s.rings[r].stall = []) (hh : s.rings[r].hold = [])
    (ha : s.rings[r].awaiting = none) : s.settleRing r = s := by
  have ho : s.openHead r = s := by
    unfold State.openHead
    rw [hst]
    exact ite_self _
  unfold State.settleRing State.resumeRing
  rw [ho, ha, hh]
  exact ite_self _

theorem State.ringsSettled_quiet {s : State} (h : ∀ r : RingId, s.settleRing r = s) (cond : RingId → Bool) :
    ∀ ls : List RingId, s.ringsSettled cond ls = s
  | [] => rfl
  | r :: ls => by
    have e : (if cond r then s.settleRing r else s) = s := by rw [h r, ite_self]
    show (if cond r then s.settleRing r else s).ringsSettled cond ls = s
    rw [e]
    exact State.ringsSettled_quiet h cond ls

theorem State.tearChansIn_quiet {s : State} {n : PortId} (h : ∀ c : ChanId, s.tearChan n c = s) :
    ∀ ls : List ChanId, ls.foldl (fun u c => u.tearChan n c) s = s
  | [] => rfl
  | c :: ls => by rw [List.foldl_cons, h c, State.tearChansIn_quiet h ls]

theorem State.tearLocks_stopPending (s : State) (n : PortId) : SameChans (·.stopPending) s (s.tearLocks n) := by
  have h0 : SameChans (·.stopPending) s (s.queuesLeft (s.torn n)) := by
    rw [State.queuesLeft_eq]
    exact fun _ => rfl
  rw [State.tearLocks_eq]
  exact State.releases_keeps _ (fun u l h => h.releaseLock (fun _ _ => rfl) l) _ h0

section
variable {s s0 : State} {n : PortId} (h : TakenDown s n s0) (hq : s.quietFor n)
include h hq

/-- With quiet rings and no run owned nothing follows the withdrawals. -/
theorem TakenDown.withdrawn_quiet : s0.withdrawn n = s0.bared n := by
  have hr (r : RingId) : (s0.bared n).settleRing r = s0.bared n := by
    obtain ⟨h1, h2, h3⟩ := hq.2 r
    refine State.settleRing_quiet ?_ ?_ ?_
    · rw [h.bared_ring]
      unfold State.ringWithout
      dsimp only
      rw [h1, List.filter_nil]
    · rw [h.bared_ring]
      unfold State.ringWithout
      dsimp only
      rw [h2, List.filter_nil]
    · rw [h.bared_ring]
      unfold State.ringWithout
      dsimp only
      rw [h3, ite_self]
  have hc (c : ChanId) : (s0.bared n).tearChan n c = s0.bared n := by
    refine if_neg fun ⟨ho, hi⟩ => hi ((h.bared_idle c).mpr (hq.1 c ?_).1)
    exact (show (s0.bared n).chans[c].owner = s.chans[c].owner from (Prod.mk.inj (h.bared_tasks c)).2).symm.trans ho
  rw [h.withdrawn_eq]
  unfold State.settledFrom
  rw [State.ringsSettled_quiet hr, State.tearChans_eq, State.tearChansIn_quiet hc]

/-- The ports are as they were taken down, and no stop is waited for. -/
theorem TakenDown.quiet_ports : (s0.withdrawn n).ports = s0.ports := by
  rw [h.withdrawn_quiet hq, State.bared_frame]

theorem TakenDown.quiet_waits : (s0.withdrawn n).teardownWaits n = false := by
  rw [h.withdrawn_quiet hq]
  refine Bool.eq_false_iff.mpr fun e => ?_
  obtain ⟨c, _, hc⟩ := List.any_eq_true.mp e
  obtain ⟨ho, hp⟩ := Bool.and_eq_true_iff.mp hc
  have hown : (s0.bared n).chans[c].owner = s.chans[c].owner := (Prod.mk.inj (h.bared_tasks c)).2
  have hstop : (s0.bared n).chans[c].stopPending = s.chans[c].stopPending := by
    rw [State.bared_chans]
    exact (s0.tearLocks_stopPending n c).trans (by rw [h.chans])
  rw [hstop, (hq.1 c (hown.symm.trans (of_decide_eq_true ho))).2] at hp
  exact Bool.noConfusion hp

/-- A quiet teardown ends at once. -/
theorem TakenDown.quiet_ends : (s0.withdrawn n).finishTeardown n = ((s0.withdrawn n).modPort n (·.afterTeardown)).endDrop n :=
  State.finishTeardown_ends (by rw [h.quiet_ports hq]; exact h.down.2) (h.quiet_waits hq)

theorem TakenDown.quiet_teardown : ((s0.withdrawn n).finishTeardown n).ports[n].teardown = none := by
  obtain ⟨_, _, _, h4⟩ := ((Quiet.refl ((s0.withdrawn n).modPort n (·.afterTeardown))).endDrop n).ports n
  rw [h.quiet_ends hq, h4, State.modPort_port_same]
  rfl

end

/-! ## The commands -/

theorem controlOf_dropPort (n : PortId) : controlOf (Control.dropPort n).word = some (.dropPort n) := by
  revert n
  decide

/-- A DROP_PORT write of P0 reaches start-up control (R9). -/
theorem exec_dropPort {s : State} (h : s.ready 0) (n : PortId) : exec (.dropPort 0 n) s =
    .next ((s.taking 0 .write 0x3FDFD#18 (Control.dropPort n).word).doDropPort n) := by
  rw [exec_portWord h (i := .dropPort 0 n) rfl 13 rfl, State.portWindow_write _ _ rfl (.inr rfl)]
  show Host.Outcome.next (State.writeControl 0 (Control.dropPort n).word _) = _
  unfold State.writeControl
  rw [controlOf_dropPort]
  rfl

/-- P0 with the DROP_PORT write in progress that waits for the teardown of `n`. -/
def State.dropping (s : State) (n : PortId) : State :=
  s.modPort 0 fun pt => pt.holding .write 0x3FDFD#18 (Control.dropPort n).word (.control n)

theorem exec_dropPort_up {s : State} (h : s.ready 0) {n : PortId} (hn : s.ports[n].state = .up) :
    exec (.dropPort 0 n) s = .next ((s.dropping n).tearDown n .drop) := by
  have hw : (s.taking 0 .write 0x3FDFD#18 (Control.dropPort n).word).setWait 0 (.control n) = s.dropping n :=
    State.modPort_modPort _ _ _ _
  rw [exec_dropPort h]
  unfold State.doDropPort
  rw [State.taking_port_state, if_pos hn, hw]

theorem exec_dropPort_down {s : State} (h : s.ready 0) {n : PortId} (hn : s.ports[n].state = .down) :
    exec (.dropPort 0 n) s = .next (s.written 0) := by
  rw [exec_dropPort h]
  unfold State.doDropPort
  rw [State.taking_port_state, if_neg (by rw [hn]; decide), State.completeWrite_accept]

/-- PRSTN of the port is low. -/
def State.pinLow (s : State) (n : PortId) : State := s.modPort n fun pt => { pt with prstn := false }

/-- PRSTN low at a port that is UP while RUNNING (R177). -/
theorem exec_portReset_up {s : State} {n : PortId} (hr : s.part = .running) (hn : s.ports[n].state = .up) :
    exec (.portReset n) s = .next ((s.pinLow n).tearDown n .prstn) := by
  show Host.Outcome.next (s.prstnFalls n) = _
  unfold State.prstnFalls
  rw [if_pos ⟨hr, hn⟩]
  rfl

theorem exec_portReset_pin {s : State} {n : PortId} (h : s.part ≠ .running ∨ s.ports[n].state ≠ .up) :
    exec (.portReset n) s = .next (s.modPort n fun pt => { pt with prstn := false }) := by
  show Host.Outcome.next (s.prstnFalls n) = _
  unfold State.prstnFalls
  rw [if_neg fun e => h.elim (fun k => k e.1) fun k => k e.2]

/-! ## The DROP_PORT write at the end of a quiet teardown -/

theorem State.takenDown_prstn (u : State) (n : PortId) (cause : TeardownCause) :
    (u.takenDown n cause).ports[n].prstn = u.ports[n].prstn := by
  by_cases hc : cause = .drop ∧ n = 0
  · obtain ⟨rfl, rfl⟩ := hc
    rw [State.takenDown_port_self, if_pos rfl]
    rfl
  · rw [State.takenDown_port hc, if_pos rfl]
    rfl

theorem State.dropping_prstn (s : State) (n : PortId) : (s.dropping n).ports[n].prstn = s.ports[n].prstn := by
  unfold State.dropping
  rw [State.modPort_port]
  split <;> rfl

theorem State.dropping_state (s : State) (n m : PortId) : (s.dropping n).ports[m].state = s.ports[m].state :=
  State.modPort_state s 0 m (fun pt => pt.holding .write 0x3FDFD#18 (Control.dropPort n).word (.control n)) fun _ => rfl

theorem State.dropping_cycle (s : State) (n : PortId) : (s.dropping n).ports[(0 : PortId)].cycle =
    some { dir := .write, addr := 0x3FDFD#18, data := (Control.dropPort n).word, strobe := true, wait := .control n } := by
  unfold State.dropping
  rw [State.modPort_port_same]
  rfl

/-- P0 has dropped another port: the write completes. -/
theorem dropPort_other_ends {s w : State} {n : PortId} (hn : n ≠ 0) (hu : s.ports[(0 : PortId)].state = .up)
    (hw : w.ports = ((s.dropping n).takenDown n .drop).ports) :
    ((w.modPort n (·.afterTeardown)).endDrop n).ports[(0 : PortId)].cycle = none ∧
    ((w.modPort n (·.afterTeardown)).endDrop n).ports[(0 : PortId)].last =
      some (if n = 0 ∧ s.ports[n].prstn = false then .abandoned else .write) := by
  have hp : (w.modPort n (·.afterTeardown)).ports[(0 : PortId)] = (s.dropping n).ports[(0 : PortId)] := by
    rw [State.modPort_port_other w _ hn, hw, State.takenDown_port (fun e => hn e.2), if_neg hn]
  have hs : (s.dropping n).ports[(0 : PortId)].state = .up := (s.dropping_state n 0).trans hu
  obtain ⟨h1, h2⟩ := State.endDrop_ends ((congrArg Port.cycle hp).trans (s.dropping_cycle n)) rfl
  rw [hp, hs, if_pos rfl] at h2
  exact ⟨h1, h2.trans (by rw [if_neg fun e => hn e.1])⟩

/-- P0 has dropped itself: the write completes where its PRSTN is high, and is abandoned where it is low (R9). -/
theorem dropPort_self_ends {s w : State} {n : PortId} (hn : n = 0) (hw : w.ports = ((s.dropping n).takenDown n .drop).ports) :
    ((w.modPort n (·.afterTeardown)).endDrop n).ports[(0 : PortId)].cycle = none ∧
    ((w.modPort n (·.afterTeardown)).endDrop n).ports[(0 : PortId)].last =
      some (if n = 0 ∧ s.ports[n].prstn = false then .abandoned else .write) := by
  subst hn
  have hp : (w.modPort 0 (·.afterTeardown)).ports[(0 : PortId)] =
      (((s.dropping 0).ports[(0 : PortId)]).tornDown .drop).afterTeardown := by
    rw [State.modPort_port_same, hw, State.takenDown_port_self, if_pos rfl]
  have hs : (((s.dropping 0).ports[(0 : PortId)]).tornDown .drop).afterTeardown.state =
      if s.ports[(0 : PortId)].prstn then .up else .down := by
    rw [← s.dropping_prstn 0]
    rfl
  obtain ⟨h1, h2⟩ := State.endDrop_ends ((congrArg Port.cycle hp).trans (s.dropping_cycle 0)) rfl
  rw [hp, hs] at h2
  refine ⟨h1, h2.trans ?_⟩
  cases s.ports[(0 : PortId)].prstn <;> rfl

/-! ## O32: teardowns -/

section
variable {s : State} {n : PortId} (hr : s.part = .running) (hn : s.ports[n].state = .up)
include hr hn

theorem portReset_tearsDown : ∃ t : State, exec (.portReset n) s = .next t ∧ t.ports[n].state = .down ∧
    t.ports[n].prstn = false ∧ TornDown s n t ∧ CycleAbandoned s n t ∧ (s.quietFor n → t.ports[n].teardown = none) := by
  have hc : ¬(TeardownCause.prstn = .drop ∧ n = 0) := fun e => nomatch e.1
  have hu : s.pinLow n = { s with ports := (s.pinLow n).ports } := rfl
  have hs (m : PortId) (hm : m ≠ n) : (s.pinLow n).ports[m].state = s.ports[m].state :=
    congrArg Port.state (State.modPort_port_other s _ (Ne.symm hm))
  have hpn : (s.pinLow n).ports[n] = { s.ports[n] with prstn := false } := State.modPort_port_same s n _
  have h := State.takenDown_abandons hu hr hs hc
  have hp := h.port.1
  have hprstn : (((s.pinLow n).takenDown n .prstn).withdrawn n).ports[n].prstn = false := by
    rw [hp, State.takenDown_port hc, if_pos rfl, hpn]
    rfl
  refine ⟨_, exec_portReset_up hr hn, ?_, ?_, h.tornDown.finish, ?_, fun hq => h.quiet_teardown hq⟩
  · rw [State.tearDown_eq, State.finishTeardown_state (by rw [hp]; exact h.down.2) (by rw [hp]; exact h.down.1), hprstn,
      if_neg fun e => Bool.noConfusion e.2]
  · rw [State.tearDown_eq, (State.finishTeardown_records _ n).2.2, hprstn]
  · exact (State.withdrawn_abandoned hu hr hs hc (by rw [hpn]) (by rw [hpn])).finish

theorem dropPort_tearsDown (h0 : s.ready 0) : ∃ t : State, exec (.dropPort 0 n) s = .next t ∧
    t.ports[n].state = (if t.ports[n].teardown = none ∧ s.ports[n].prstn = true then PortState.up else PortState.down) ∧
    TornDown s n t ∧ (n ≠ 0 → CycleAbandoned s n t) ∧
    (s.quietFor n → t.ports[n].teardown = none ∧ t.ports[(0 : PortId)].cycle = none ∧
      t.ports[(0 : PortId)].last = some (if n = 0 ∧ s.ports[n].prstn = false then .abandoned else .write)) := by
  have hu : s.dropping n = { s with ports := (s.dropping n).ports } := rfl
  have hs := s.dropping_state n
  have h : TakenDown s n ((s.dropping n).takenDown n .drop) := by
    by_cases e : n = 0
    · exact State.takenDown_keeps hu hr (fun m _ => hs m) e (s.dropping_cycle n) fun c e => nomatch e
    · exact State.takenDown_abandons hu hr (fun m _ => hs m) fun e' => e e'.2
  have hp := h.port.1
  have hpin := ((s.dropping n).takenDown_prstn n .drop).trans (s.dropping_prstn n)
  refine ⟨_, exec_dropPort_up h0 hn, ?_, h.tornDown.finish, fun e => ?_, fun hq => ⟨h.quiet_teardown hq, ?_⟩⟩
  · rw [State.tearDown_eq, State.finishTeardown_state (by rw [hp]; exact h.down.2) (by rw [hp]; exact h.down.1), hp, hpin]
  · have hd : (s.dropping n).ports[n] = s.ports[n] := State.modPort_port_other s _ (Ne.symm e)
    exact (State.withdrawn_abandoned hu hr (fun m _ => hs m) (fun e' => e e'.2) (by rw [hd]) (by rw [hd])).finish
  · rw [State.tearDown_eq, h.quiet_ends hq]
    by_cases e : n = 0
    · exact dropPort_self_ends e (h.quiet_ports hq)
    · exact dropPort_other_ends e h0.1 (h.quiet_ports hq)

end

/-- Settles O32: a DOWN or OFF port has nothing torn down, and an UP port's teardown is `TakenDown.tornDown` and its end. -/
theorem teardowns : Obligations.Teardowns := by
  intro s n hr
  refine ⟨fun h0 hd => exec_dropPort_down h0 hd, fun hn => exec_portReset_pin (.inr hn),
    fun u hu => exec_portReset_pin (.inl hu), fun hn => ⟨portReset_tearsDown hr hn, dropPort_tearsDown hr hn⟩⟩

end Sys2Proof.Machine

/-! PROOFS. The watch unit's judgement of a port's completed access (O20), its look-up for channel writes, and the transfer
engine's choice of a channel with the access that it then presents (O50). -/

namespace Sys2Proof.Machine

/-! ## O20 -/

/-- Settles O20: each line of Table 3-1 is a case of `ReadJudged` or `WriteJudged`. -/
theorem watchJudged : Obligations.WatchJudged := by
  intro s x p c g v h hi hw ha hc
  refine ⟨fun t hj => exec_portRead h hi ha hc hj, fun hk hb => ?_, fun hk => ?_, fun o hk ho => ?_, fun o hk ho => ?_⟩
  · refine exec_portRead h hi ha hc ⟨_, rfl, hk, .inr ⟨g, hw, ?_⟩⟩
    rw [hb, if_neg Bool.false_ne_true]
  · exact exec_portWrite h hi ha hc ⟨_, rfl, .inr (.inl ⟨g, hk, hw, rfl⟩)⟩ 0
  · exact exec_portWrite h hi ha hc ⟨_, rfl, .inr (.inr ⟨g, o, false, hk, hw, ho, (if_neg Bool.false_ne_true).symm⟩)⟩ 0
  · exact exec_portWrite h hi ha hc ⟨_, rfl, .inr (.inr ⟨g, o, true, hk, hw, ho, (if_pos rfl).symm⟩)⟩ 0

/-! ## The first of all objects that passes a test -/

/-- A search through a numbered list finds the entry that passes the test where none before it does. -/
theorem find?_finRange_map {α : Type} {n : Nat} (f : Fin n → α) {p : α → Bool} (k : Fin n) (hk : p (f k) = true)
    (hb : ∀ m : Fin n, m.val < k.val → p (f m) = false) : ((List.finRange n).map f).find? p = some (f k) := by
  refine List.find?_eq_some_iff_getElem.mpr ⟨hk, k.val, by simp, by simp, fun j hj => ?_⟩
  simp [hb ⟨j, hj.trans k.isLt⟩ hj]

theorem allRings_eq : allRings = (List.finRange 8).map id := by decide

/-- The order of R126: from the channel after the last access's under H2's rotate flag, else from C0. -/
theorem State.chanOrder_eq (s : State) : s.chanOrder = (List.finRange 4).map fun k =>
    (if (s.header[(2 : Fin 4)]).getLsbD 0 then s.lastChan + 1 else 0) + k := by
  show (if (s.header[(2 : Fin 4)]).getLsbD 0 then _ else _) = _
  split
  · rfl
  · decide

/-! ## Issued FEED posts that are not yet presented (R126) -/

/-- The ring's access in flight is a post write of the channel that is issued and not yet presented. -/
def Ring.postUnpresented (k : Ring) (c : ChanId) : Bool :=
  k.inFlight.any fun f => decide (f.post.who = .chan c) && !f.presented

theorem State.unpresentedPost_eq (s : State) (c : ChanId) :
    s.unpresentedPost c = allRings.find? fun r => s.rings[r].postUnpresented c := by
  unfold State.unpresentedPost
  congr 1
  funext r
  unfold Ring.postUnpresented
  cases s.rings[r].inFlight <;> rfl

theorem Ring.postUnpresented_iff (k : Ring) (c : ChanId) : k.postUnpresented c = true ↔
    ∃ f : InFlight, k.inFlight = some f ∧ f.post.who = .chan c ∧ f.presented = false := by
  simp [Ring.postUnpresented, Option.any_eq_true]

/-- Every post of the channel in flight at the ring, if there is one, has been presented. -/
theorem Ring.postUnpresented_eq_false {k : Ring} {c : ChanId}
    (h : ∀ g : InFlight, k.inFlight = some g → g.post.who = .chan c → g.presented = true) : k.postUnpresented c = false := by
  refine Bool.eq_false_iff.mpr fun e => ?_
  obtain ⟨f, hf, hc, hp⟩ := (k.postUnpresented_iff c).mp e
  exact Bool.false_ne_true (hp.symm.trans (h f hf hc))

theorem State.unpresentedPost_isSome_iff (s : State) (c : ChanId) : (s.unpresentedPost c).isSome = true ↔
    ∃ (r : RingId) (f : InFlight), s.rings[r].inFlight = some f ∧ f.post.who = .chan c ∧ f.presented = false := by
  rw [State.unpresentedPost_eq, List.find?_isSome]
  exact ⟨fun ⟨r, _, h⟩ => ⟨r, (Ring.postUnpresented_iff _ _).mp h⟩,
    fun ⟨r, h⟩ => ⟨r, mem_allRings r, (Ring.postUnpresented_iff _ _).mpr h⟩⟩

theorem State.unpresentedPost_none {s : State} {c : ChanId}
    (h : ∀ (r : RingId) (g : InFlight), s.rings[r].inFlight = some g → g.post.who = .chan c → g.presented = true) :
    s.unpresentedPost c = none := by
  rw [State.unpresentedPost_eq]
  exact List.find?_eq_none.mpr fun r _ => Bool.eq_false_iff.mp (Ring.postUnpresented_eq_false (h r))

/-- The lower ring goes first (log 18). -/
theorem State.unpresentedPost_some {s : State} {c : ChanId} {r : RingId} {f : InFlight} (hf : s.rings[r].inFlight = some f)
    (hc : f.post.who = .chan c) (hp : f.presented = false)
    (hl : ∀ (q : RingId) (g : InFlight), q < r → s.rings[q].inFlight = some g → g.post.who = .chan c → g.presented = true) :
    s.unpresentedPost c = some r := by
  rw [State.unpresentedPost_eq, allRings_eq]
  exact find?_finRange_map id r ((Ring.postUnpresented_iff _ _).mpr ⟨f, hf, hc, hp⟩)
    fun q hq => Ring.postUnpresented_eq_false fun g => hl q g hq

/-! ## Channels that need an access, and the busy engine (R126) -/

theorem State.needsAccess_iff (s : State) (c : ChanId) : s.needsAccess c = true ↔
    (∃ (r : RingId) (f : InFlight), s.rings[r].inFlight = some f ∧ f.post.who = .chan c ∧ f.presented = false) ∨
    s.chans[c].stopPending = none ∧ s.chans[c].nextStep.isSome = true := by
  unfold State.needsAccess
  rw [Bool.or_eq_true, Bool.and_eq_true, Option.isNone_iff_eq_none, State.unpresentedPost_isSome_iff]

theorem State.engineBusy_iff (s : State) : s.engineBusy = true ↔ s.reqs[(4 : Fin 5)].isSome = true ∨
    ∃ x : Access, s.inProg = some x ∧ ((∃ (d : ChanId) (y : ChanStep), x.req.issuer = .chan d y) ∨
      (∃ r : RingId, x.req.issuer = .ring r) ∧ 4 ≤ x.req.code) := by
  unfold State.engineBusy
  rw [Bool.or_eq_true, Option.any_eq_true]
  refine or_congr_right (exists_congr fun x => and_congr_right fun _ => ?_)
  cases x.req.issuer <;> simp

/-! ## The access that a channel's state and operation call for (R121 to R124, R127) -/

section
variable {k : Chan} (h : k.state = .run)
include h

theorem Chan.nextStep_copy (ho : k.desc.op = some .copy) :
    k.nextStep = some (if k.holding = none then .srcRead else .dstWrite) := by
  simp [Chan.nextStep, h, ho]

theorem Chan.nextStep_verify (ho : k.desc.op = some .verify) :
    k.nextStep = some (if k.holding = none then .srcRead else .dstRead) := by
  simp [Chan.nextStep, h, ho]

theorem Chan.nextStep_fill (ho : k.desc.op = some .fill) : k.nextStep = some .dstWrite := by
  simp [Chan.nextStep, h, ho]

theorem Chan.nextStep_sum (ho : k.desc.op = some .sum) :
    k.nextStep = some (if k.desc.count = 0 ∧ 0 < k.wordsDone then .sumWrite else .srcRead) := by
  simp [Chan.nextStep, h, ho, Nat.pos_iff_ne_zero]

theorem Chan.nextStep_feed (ho : k.desc.op = some .feed) :
    k.nextStep = if k.holding = none then some .srcRead else none := by
  simp [Chan.nextStep, h, ho]

theorem Chan.nextStep_unknown (ho : k.desc.op = none) : k.nextStep = none := by
  simp [Chan.nextStep, h, ho]

end

theorem Chan.nextStep_fetch {k : Chan} (h : k.state = .fetch) :
    k.nextStep = if k.fetchBuf.length < 7 then some .fetchRead else none := by
  unfold Chan.nextStep
  rw [h]

theorem Chan.nextStep_eq_none {k : Chan} (h : k.state = .idle ∨ k.state = .lockWait ∨ k.state = .stall) : k.nextStep = none := by
  unfold Chan.nextStep
  rcases h with h | h | h <;> rw [h]

/-! ## The presented request (R28 to R30, R126) -/

theorem State.presentChan_post {s : State} {c : ChanId} {r : RingId} {f : InFlight} (h : s.unpresentedPost c = some r)
    (hf : s.rings[r].inFlight = some f) : s.presentChan c =
      ({ s with lastChan := c, reqs := upd s.reqs 4 fun _ => some (feedRequest c r f) }).modRing r fun k =>
        { k with inFlight := some { f with presented := true } } := by
  unfold State.presentChan
  rw [h]
  dsimp only
  rw [hf]
  rfl

theorem State.presentChan_step {s : State} {c : ChanId} {y : ChanStep} (h : s.unpresentedPost c = none)
    (hy : s.chans[c].nextStep = some y) : s.presentChan c =
      { s with lastChan := c, reqs := upd s.reqs 4 fun _ => some (s.chanRequest c y) } := by
  unfold State.presentChan
  rw [h]
  dsimp only
  rw [hy]
  rfl

/-! ## The choice (R126) -/

theorem exec_channelPick_idle {s : State} (h : s.engineBusy = true ∨ ∀ c : ChanId, s.needsAccess c = false) :
    exec .channelPick s = .next s := by
  show Host.Outcome.next s.pickChan = _
  unfold State.pickChan
  rcases h with h | h
  · rw [if_pos h]
  · rw [List.find?_eq_none.mpr fun c _ => Bool.eq_false_iff.mp (h c), ite_self]

/-- The first channel in the order that needs an access is picked. -/
theorem exec_channelPick_first {s : State} {n c first : ChanId} (hb : s.engineBusy = false)
    (hf : first = if (s.header[(2 : Fin 4)]).getLsbD 0 then s.lastChan + 1 else 0) (hc : c = first + n)
    (hn : ∀ m : ChanId, m.val < n.val → s.needsAccess (first + m) = false) (h : s.needsAccess c = true) :
    exec .channelPick s = .next (s.presentChan c) := by
  subst hc
  have hp : s.chanOrder.find? s.needsAccess = some (first + n) := by
    rw [State.chanOrder_eq, ← hf]
    exact find?_finRange_map (first + ·) n h hn
  show Host.Outcome.next s.pickChan = _
  unfold State.pickChan
  rw [hb, if_neg Bool.false_ne_true, hp]

/-! ## The look-up of channel writes (R29) -/

theorem State.watchLookup_disabled {s : State} (h : s.header[(0 : Fin 4)].getLsbD 0 = false) (a : Nat) :
    s.watchLookup a = none := by
  unfold State.watchLookup
  rw [show s.headerEnable = false from h, if_neg Bool.false_ne_true]

theorem State.watchLookup_outside {s : State} {a : Nat} (h : s.windowAt a = none) : s.watchLookup a = none := by
  unfold State.watchLookup
  rw [h, ite_self]

theorem WinCtl.winKind_watch_iff (k : WinCtl) : k.winKind = some .watch ↔ k.kind = 2 := by
  rw [WinCtl.winKind_eq]
  split_ifs with h1 h2
  · simp [h1]
  · simp [h2]
  all_goals exact ⟨nofun, fun e => absurd e h2⟩

theorem State.watchLookup_inside {s : State} {a : Nat} {w : WinId} (he : s.header[(0 : Fin 4)].getLsbD 0 = true)
    (h : s.windowAt a = some w) : s.watchLookup a = if s.windows[w].ctl.kind = 2 then some (s.watchTag w a) else none := by
  unfold State.watchLookup
  rw [show s.headerEnable = true from he, if_pos rfl, h]
  simp only [WinCtl.winKind_watch_iff]

theorem State.windowAt_outside {s : State} {a : Nat} (h : ∀ w : WinId, s.windows[w].valid = true →
    winBase s.windows[w].data ≤ a → winBase s.windows[w].data + winLen s.windows[w].data ≤ a) : s.windowAt a = none :=
  State.windowAt_none fun w hv => Range.has_false (h w hv)

theorem State.windowAt_only {s : State} {a : Nat} {w : WinId} (hv : s.windows[w].valid = true)
    (hl : winBase s.windows[w].data ≤ a) (hu : a < winBase s.windows[w].data + winLen s.windows[w].data)
    (ho : ∀ v : WinId, v ≠ w → s.windows[v].valid = true → winBase s.windows[v].data ≤ a →
      winBase s.windows[v].data + winLen s.windows[v].data ≤ a) : s.windowAt a = some w :=
  State.windowAt_some hv ((Range.has_iff _ _).mpr ⟨hl, hu⟩) fun v hvw hvv => Range.has_false (ho v hvw hvv)

/-! ## O50 -/

/-- Settles O50: the choice by `exec_channelPick_first`, the access by `State.presentChan_post` and `State.presentChan_step`. -/
theorem channelPick : Obligations.ChannelPick := by
  refine ⟨fun s => ⟨exec_channelPick_idle, fun n c first hb hf hc hn => ⟨fun r f hr hw hp hl => ?_,
      fun hq hs => ⟨fun y a hy ha => ?_, fun y v g hy hv hg => ?_⟩⟩⟩,
    fun s a => ⟨fun h => State.watchLookup_disabled h a, fun h => State.watchLookup_outside (State.windowAt_outside h),
      fun w he hv hl hu ho => State.watchLookup_inside he (State.windowAt_only hv hl hu ho)⟩,
    fun s c => ⟨s.needsAccess_iff c, s.engineBusy_iff⟩,
    fun k => ⟨fun h => ?_, Chan.nextStep_fetch, Chan.nextStep_eq_none⟩⟩
  · rw [exec_channelPick_first hb hf hc hn ((s.needsAccess_iff c).mpr (.inl ⟨r, f, hr, hw, hp⟩)),
      State.presentChan_post (State.unpresentedPost_some hr hw hp hl) hr]
    rfl
  · rw [exec_channelPick_first hb hf hc hn ((s.needsAccess_iff c).mpr (.inr ⟨hs, by rw [hy]; rfl⟩)),
      State.presentChan_step (State.unpresentedPost_none hq) hy]
    rcases ha with ⟨rfl, rfl⟩ | ⟨rfl, rfl⟩ | ⟨rfl, rfl⟩ <;> rfl
  · rw [exec_channelPick_first hb hf hc hn ((s.needsAccess_iff c).mpr (.inr ⟨hs, by rw [hy]; rfl⟩)),
      State.presentChan_step (State.unpresentedPost_none hq) hy]
    have hreq : s.chanRequest c y = s.chanWriteReq c y s.chans[c].desc.dst v := by
      rcases hv with ⟨rfl, ho, rfl⟩ | ⟨rfl, ho, hh⟩ | ⟨rfl, rfl⟩
      · exact congrArg (s.chanWriteReq c .dstWrite s.chans[c].desc.dst) (if_pos ho)
      · refine congrArg (s.chanWriteReq c .dstWrite s.chans[c].desc.dst) ((if_neg ho).trans ?_)
        rw [hh]
      · rfl
    rw [hreq]
    unfold State.chanWriteReq
    rw [← hg]
    cases g <;> rfl
  · cases ho : k.desc.op with
    | none => exact Chan.nextStep_unknown h ho
    | some o =>
      cases o with
      | copy => exact Chan.nextStep_copy h ho
      | verify => exact Chan.nextStep_verify h ho
      | fill => exact Chan.nextStep_fill h ho
      | sum => exact Chan.nextStep_sum h ho
      | feed => exact Chan.nextStep_feed h ho

end Sys2Proof.Machine

/-! PROOFS. What a step is made of: calm changes, which leave the shadow and the ports' states and change controllers by deliveries
alone, and moves, each of a named kind. Every command is a chain of them, so that a law of the shadow or of the controllers is
kept by every step if it is kept by each (O22, O59, O60). -/

namespace Sys2Proof.Machine

/-! ## Calm changes -/

/-- The header, the windows, the ring records and the lease values are the same. -/
def SameTable (s t : State) : Prop :=
  t.header = s.header ∧ t.windows = s.windows ∧ t.recs = s.recs ∧ t.leases = s.leases

theorem SameTable.trans {s t u : State} (h : SameTable s t) (k : SameTable t u) : SameTable s u := by
  obtain ⟨hh, hw, hr, hl⟩ := h
  obtain ⟨kh, kw, kr, kl⟩ := k
  exact ⟨kh.trans hh, kw.trans hw, kr.trans hr, kl.trans hl⟩

/-- The part's and the ports' states are the same, and controllers have changed by deliveries alone. -/
structure CtlCalm (s t : State) : Prop where
  part : t.part = s.part
  states : ∀ p : PortId, t.ports[p].state = s.ports[p].state
  ctls : ∀ p : PortId, KeepsCtl (s.takesDelivery p) s.ctls[p] t.ctls[p]

/-- The table words are the same too. Unlike `Quiet`, it leaves the memory, the pins and the ticks open. -/
structure Calm (s t : State) : Prop extends CtlCalm s t where
  table : SameTable s t

theorem Quiet.calm {s t : State} (h : Quiet s t) : Calm s t := by
  obtain ⟨hp, -, -, -, hh, hw, hr, hl, -⟩ := h.config
  exact ⟨⟨hp, fun p => (h.ports p).1, h.ctls⟩, hh, hw, hr, hl⟩

theorem Calm.refl (s : State) : Calm s s := (Quiet.refl s).calm

theorem CtlCalm.takes {s t : State} (h : CtlCalm s t) (p : PortId) : t.takesDelivery p = s.takesDelivery p := by
  funext src
  unfold State.takesDelivery
  rw [h.states p, h.part]

theorem CtlCalm.trans {s t u : State} (h : CtlCalm s t) (k : CtlCalm t u) : CtlCalm s u :=
  ⟨k.part.trans h.part, fun p => (k.states p).trans (h.states p), fun p => (h.ctls p).trans (h.takes p ▸ k.ctls p)⟩

theorem Calm.trans {s t u : State} (h : Calm s t) (k : Calm t u) : Calm s u :=
  ⟨h.toCtlCalm.trans k.toCtlCalm, h.table.trans k.table⟩

/-- A change of nothing that controllers and ports' states depend on. -/
theorem CtlCalm.same {s t : State} (part : t.part = s.part := by rfl) (ports : t.ports = s.ports := by rfl)
    (ctls : t.ctls = s.ctls := by rfl) : CtlCalm s t :=
  ⟨part, fun p => by rw [ports], fun p => ctls ▸ .refl _ _⟩

/-- A change of nothing but the objects, the memory and its port, the pins and the ticks. -/
theorem Calm.same {s t : State} (part : t.part = s.part := by rfl) (table : SameTable s t := by exact ⟨rfl, rfl, rfl, rfl⟩)
    (ports : t.ports = s.ports := by rfl) (ctls : t.ctls = s.ctls := by rfl) : Calm s t :=
  ⟨.same part ports ctls, table⟩

/-- A change of a port's record that keeps its state. -/
theorem Calm.modPort (s : State) (p : PortId) (f : Port → Port) (hf : ∀ pt, (f pt).state = pt.state) : Calm s (s.modPort p f) :=
  ⟨⟨rfl, fun q => State.modPort_state s p q f hf, fun _ => .refl _ _⟩, rfl, rfl, rfl, rfl⟩

/-! ## Moves -/

/-- The kinds of moves. -/
inductive MoveKind where
  /-- A port goes UP. -/
  | rise
  /-- A port goes DOWN and its controller is cleared, in a teardown or at the end of start-up. -/
  | fall
  /-- A teardown comes to its end at a port that may be in any state. -/
  | ended
  /-- A port that is UP uses its controller's own words. -/
  | own
  /-- The table unit takes up a word. -/
  | table
  /-- A part reset. -/
  | reset

/-- Falling levels and different slots (R51): the law of one in-service set. -/
def Falling (es : List InService) : Prop := es.Pairwise fun a b => b.level < a.level ∧ a.slot ≠ b.slot

/-- A port's use of its controller's words keeps the bindings and the law of the in-service set. -/
structure OwnUse (a b : Controller) : Prop where
  bindings : ∀ i : SlotId, b.slots[i].binding = a.slots[i].binding
  falling : Falling a.inService → Falling b.inService

/-- One move of a kind from a state to the next. -/
inductive Move : MoveKind → State → State → Prop
  | rise {s t : State} (table : SameTable s t) (ctls : t.ctls = s.ctls) (part : t.part = s.part)
      (states : ∀ q : PortId, t.ports[q].state = .up ∨ t.ports[q].state = s.ports[q].state) : Move .rise s t
  | fall {s t : State} (table : SameTable s t)
      (ports : ∀ q : PortId, t.ctls[q] = (s.ctls[q]).cleared ∨ t.ctls[q] = s.ctls[q] ∧
        (t.ports[q].state = .up ∨ t.part = s.part ∧ t.ports[q].state = s.ports[q].state)) : Move .fall s t
  | ended {s t : State} (table : SameTable s t) (ctls : t.ctls = s.ctls) : Move .ended s t
  | own {s : State} {p : PortId} {f : Controller → Controller} (up : s.ports[p].state = .up)
      (use : OwnUse s.ctls[p] (f s.ctls[p])) : Move .own s (s.modCtl p f)
  | applied (s : State) (k : TableWord) (v : Word) : Move .table s (s.applyTable k v)
  | damaged (s : State) (k : TableWord) : Move .table s (s.damageTable k)
  | reset {s t : State} (windows : t.windows = State.reset.windows) (recs : t.recs = State.reset.recs)
      (ctls : t.ctls = State.reset.ctls) : Move .reset s t

/-- A chain of calm changes and of moves of the kinds in `K`. -/
def Chain (K : MoveKind → Prop) : State → State → Prop :=
  Relation.ReflTransGen fun s t => Calm s t ∨ ∃ k, K k ∧ Move k s t

/-- What calm changes and the moves keep, a chain keeps. -/
theorem Chain.keeps {K : MoveKind → Prop} {P : State → Prop} (calm : ∀ s t, Calm s t → P s → P t)
    (move : ∀ k s t, K k → Move k s t → P s → P t) {s t : State} (h : Chain K s t) (hs : P s) : P t := by
  induction h with
  | refl => exact hs
  | tail _ st ih =>
    rcases st with c | ⟨k, hk, m⟩
    · exact calm _ _ c ih
    · exact move k _ _ hk m ih

section
variable {K : MoveKind → Prop} {s t : State} (h : Chain K s t)
include h

theorem Chain.calm {u : State} (c : Calm t u) : Chain K s u := h.tail (.inl c)
theorem Chain.quiet {u : State} (q : Quiet t u) : Chain K s u := h.calm q.calm
theorem Chain.move {u : State} {k : MoveKind} (hk : K k) (m : Move k t u) : Chain K s u := h.tail (.inr ⟨k, hk, m⟩)

end

theorem Chain.refl (K : MoveKind → Prop) (s : State) : Chain K s s := Relation.ReflTransGen.refl
theorem Calm.chain {s t : State} (h : Calm s t) (K : MoveKind → Prop) : Chain K s t := (Chain.refl K s).calm h
theorem Quiet.chain {s t : State} (h : Quiet s t) (K : MoveKind → Prop) : Chain K s t := h.calm.chain K

theorem Chain.foldl {K : MoveKind → Prop} {α : Type} {f : State → α → State}
    (hf : ∀ {s t : State} (a : α), Chain K s t → Chain K s (f t a)) :
    ∀ (l : List α) {s t : State}, Chain K s t → Chain K s (l.foldl f t)
  | [], _, _, h => h
  | a :: l, _, _, h => Chain.foldl hf l (hf a h)

/-! ## Pending slots and eligible slots -/

theorem State.eligible_iff (s : State) (p : PortId) (i : SlotId) : s.eligible p i = true ↔
    ∃ b : Binding, s.ctls[p].slots[i].binding = some b ∧ s.slotPending p i = true ∧
      (s.ctls[p].mask).getLsbD i.val = false ∧ (∀ e ∈ s.ctls[p].inService, e.slot ≠ i) ∧
      b.level.val < (s.ctls[p].threshold).val ∧ ∀ e ∈ s.ctls[p].inService, b.level < e.level := by
  unfold State.eligible
  cases hb : s.ctls[p].slots[i].binding with
  | none => simp
  | some b => simp [belowInService, bit, and_assoc]

/-- The slot that TAKE and PEEK select is eligible at its level (R45). -/
theorem State.selected_eligibleAt {s : State} {p : PortId} {i : SlotId} (h : s.selected p = some i) :
    ∃ l : Level, s.eligibleAt p l i = true := by
  unfold State.selected at h
  obtain ⟨l, -, hl⟩ := List.exists_of_findSome?_eq_some h
  exact ⟨l, List.find?_some hl⟩

theorem State.eligibleAt_iff (s : State) (p : PortId) (l : Level) (i : SlotId) :
    s.eligibleAt p l i = true ↔ s.eligible p i = true ∧ s.slotLevel p i = l.val := by
  have hnone : s.ctls[p].slots[i].binding = none → s.eligible p i = false := fun hb => by
    unfold State.eligible
    rw [hb]
  unfold State.eligibleAt State.slotLevel
  cases hb : s.ctls[p].slots[i].binding with
  | none => simp [hnone hb]
  | some b => simp [Fin.ext_iff]

theorem State.selected_eligible {s : State} {p : PortId} {i : SlotId} (h : s.selected p = some i) : s.eligible p i = true := by
  obtain ⟨l, hl⟩ := State.selected_eligibleAt h
  exact ((s.eligibleAt_iff p l i).1 hl).1

/-! ## The controller's own words -/

/-- A slot taken loses its notice and no binding (R46). -/
theorem Controller.accept_binding (k : Controller) (i j : SlotId) (b : Binding) (d : Word) (x : Bool) :
    (k.accept i b d x).slots[j].binding = k.slots[j].binding := by
  unfold Controller.accept
  dsimp only
  split
  · rfl
  · rw [upd_get]
    split <;> rfl

/-- An eligible slot's level is below all that are in service (R43 condition 6), so the in-service set keeps its law (R51). -/
theorem State.takeNotice_use {s : State} {p : PortId} {i : SlotId} {b : Binding} (he : s.eligible p i = true)
    (hb : s.ctls[p].slots[i].binding = some b) (d : Word) (x : Bool) :
    OwnUse s.ctls[p] ((s.ctls[p]).accept i b d x) := by
  refine ⟨fun j => Controller.accept_binding _ i j b d x, fun hf => ?_⟩
  obtain ⟨c, hc, -, -, hslot, -, hlevel⟩ := (s.eligible_iff p i).1 he
  cases hb.symm.trans hc
  unfold Controller.accept
  dsimp only
  split
  · exact hf
  · refine List.pairwise_append.2 ⟨hf, List.pairwise_singleton _ _, fun e he y hy => ?_⟩
    rw [List.mem_singleton] at hy
    subst hy
    exact ⟨hlevel e he, hslot e he⟩

/-- An end takes entries from the in-service set (R52, R53). -/
theorem OwnUse.filter (k : Controller) (f : InService → Bool) : OwnUse k { k with inService := k.inService.filter f } :=
  ⟨fun _ => rfl, fun h => List.Pairwise.filter f h⟩

/-- PEND_CLEAR, slot by slot (R40). -/
theorem clearMarked_get (v : Word) (slots : Vector Slot 16) (i : SlotId) :
    (clearMarked v slots)[i] = if bit v i.val then (slots[i]).pendCleared else slots[i] := by
  have hf : (fun (sl : Vector Slot 16) (i : SlotId) => if bit v i.val then upd sl i (·.pendCleared) else sl) =
      fun sl i => upd sl i fun x => if bit v i.val then x.pendCleared else x := by
    funext sl i
    split
    · rfl
    · exact (upd_id sl i (fun x => x) rfl).symm
  unfold clearMarked
  rw [hf, foldl_upd (fun i x => if bit v i.val then x.pendCleared else x) allSlots slots i (by decide),
    if_pos (mem_allSlots i)]

/-- A slot cleared keeps its binding, and only a bound one loses a notice. -/
theorem Slot.pendCleared_keeps (sl : Slot) : sl.pendCleared.binding = sl.binding ∧
    (sl.pendCleared.notice = sl.notice ∨ ∃ b, sl.binding = some b) := by
  unfold Slot.pendCleared
  cases hb : sl.binding with
  | none => exact ⟨hb, .inl rfl⟩
  | some b =>
    dsimp only
    split
    · exact ⟨hb, .inl rfl⟩
    · exact ⟨hb.symm ▸ rfl, .inr ⟨b, rfl⟩⟩

section
variable {s : State} {p : PortId} (up : s.ports[p].state = .up)
include up

theorem State.takesDelivery_up (src : Source) : s.takesDelivery p src = true := by
  unfold State.takesDelivery
  rw [up]
  rfl

/-- PEND_CLEAR changes notices alone, at a port that takes deliveries. -/
theorem Calm.writePending (v : Word) : Calm s (s.writePending p v) := by
  refine Calm.trans (t := s.modCtl p fun k => { k with slots := clearMarked v k.slots })
    ⟨⟨rfl, fun _ => rfl, fun q => ?_⟩, rfl, rfl, rfl, rfl⟩ ((Quiet.refl _).completeWrite p).calm
  show KeepsCtl _ _ (upd s.ctls p _)[q]
  rw [upd_get]
  split
  · next e =>
    subst e
    refine ⟨rfl, rfl, rfl, rfl, rfl, fun i => ?_⟩
    rw [clearMarked_get]
    split
    · obtain ⟨hb, hn⟩ := (s.ctls[p].slots[i]).pendCleared_keeps
      exact ⟨hb, hn.imp id fun ⟨b, e⟩ => ⟨b, e, State.takesDelivery_up up _⟩⟩
    · exact ⟨rfl, .inl rfl⟩
  · exact .refl _ _

end

theorem Calm.writeSignal (s : State) (p : PortId) (v : Word) : Calm s (s.writeSignal p v) := by
  unfold State.writeSignal
  split
  · exact (((Quiet.refl s).deliver _ _ _).completeWrite p).calm
  · exact ((Quiet.refl s).refuse _ _).calm

/-- A read of IDENT clears the dropped flag of the port (R180). -/
theorem Calm.readIdent (s : State) (p : PortId) : Calm s (s.readIdent p) :=
  (Calm.modPort s p (fun pt => { pt with dropped := false }) fun _ => rfl).trans ((Quiet.refl _).completeRead p _).calm

theorem Calm.readRefusalB (s : State) (p : PortId) : Calm s (s.readRefusalB p) :=
  (Calm.modPort s p (fun pt => { pt with refusal := none }) fun _ => rfl).trans ((Quiet.refl _).completeRead p _).calm

/-- Every read of the port window but TAKE is calm. -/
theorem Calm.readPortWord (s : State) (p : PortId) {k : Fin 16} (hk : k ≠ 0) : Calm s (s.readPortWord p k) := by
  unfold State.readPortWord
  split
  case h_1 e => exact absurd (Fin.ext e) hk
  case h_10 => exact Calm.readRefusalB s p
  case h_11 => exact Calm.readIdent s p
  case h_13 => exact (((Quiet.refl s).withFault none).completeRead p _).calm
  case h_14 => exact ((Quiet.refl s).refuse _ _).calm
  all_goals exact ((Quiet.refl s).completeRead p _).calm

/-- CONTROL commands but DROP_PORT, and refused CONTROL words, are calm. -/
theorem Calm.writeControl (s : State) (p : PortId) {v : Word} (hv : ∀ n, controlOf v ≠ some (.dropPort n)) :
    Calm s (s.writeControl p v) := by
  unfold State.writeControl
  split
  · next c hc =>
    cases c with
    | dropPort n => exact absurd hc (hv n)
    | ringReset r => exact ((Quiet.refl s).doRingReset r).calm
    | lockFree l => exact ((Quiet.refl s).doLockFree l).calm
    | clearFault => exact (Quiet.refl s).doClearFault.calm
  · exact ((Quiet.refl s).refuse _ _).calm

/-! ## Teardowns -/

/-- The port is DOWN and its controller cleared (R178, R63). -/
theorem State.takenDown_fall (s : State) (n : PortId) (cause : TeardownCause) : Move .fall s (s.takenDown n cause) := by
  have hctl (q : PortId) : (s.takenDown n cause).ctls[q] = if n = q then (s.ctls[q]).cleared else s.ctls[q] := by
    unfold State.takenDown
    split <;> exact upd_get s.ctls n q (·.cleared)
  have hstate {q : PortId} (e : n ≠ q) : (s.takenDown n cause).ports[q].state = s.ports[q].state := by
    unfold State.takenDown
    split
    · exact congrArg Port.state (State.modPort_port_other s _ e)
    · show (((s.modPort n (·.tornDown cause)).modPort n (·.abandonCycle)).ports[q]).state = _
      rw [State.modPort_port_other _ _ e, State.modPort_port_other _ _ e]
  refine .fall ?_ fun q => ?_
  · unfold State.takenDown
    split <;> exact ⟨rfl, rfl, rfl, rfl⟩
  · rw [hctl]
    by_cases e : n = q
    · exact .inl (if_pos e)
    · refine .inr ⟨if_neg e, .inr ⟨?_, hstate e⟩⟩
      unfold State.takenDown
      split <;> rfl

theorem State.takenDown_state (s : State) (n : PortId) (cause : TeardownCause) :
    (s.takenDown n cause).ports[n].state = .down := by
  unfold State.takenDown
  split
  · exact congrArg Port.state (State.modPort_port_same s n _)
  · show (((s.modPort n (·.tornDown cause)).modPort n (·.abandonCycle)).ports[n]).state = _
    rw [State.modPort_port_same, State.modPort_port_same]
    rfl

/-- A teardown that comes to its end leaves the shadow and the controllers; the port goes UP or is DOWN (R177, R179). -/
theorem State.afterTeardown_rise {s : State} {n : PortId} (h : s.ports[n].state = .down) :
    Move .rise s (s.modPort n (·.afterTeardown)) := by
  refine .rise ⟨rfl, rfl, rfl, rfl⟩ rfl rfl fun q => ?_
  rw [State.modPort_port]
  split
  · next e =>
    subst e
    unfold Port.afterTeardown
    dsimp only
    split
    · exact .inl rfl
    · exact .inr h.symm
  · exact .inr rfl

section
variable {K : MoveKind → Prop} {s t : State} (h : Chain K s t)
include h

theorem Chain.finishTeardown {p : PortId}
    (hp : K .ended ∨ K .rise ∧ (t.ports[p].teardown.isSome = true → t.ports[p].state = .down)) :
    Chain K s (t.finishTeardown p) := by
  unfold State.finishTeardown
  split
  · next ht =>
    refine Chain.quiet (t := t.modPort p (·.afterTeardown)) ?_ ((Quiet.refl _).endDrop p)
    rcases hp with hk | ⟨hk, hd⟩
    · exact h.move hk (.ended ⟨rfl, rfl, rfl, rfl⟩ rfl)
    · exact h.move hk (State.afterTeardown_rise (hd ht.1))
  · exact h

theorem Chain.tearDown (hf : K .fall) (hr : K .rise) (p : PortId) (c : TeardownCause) : Chain K s (t.tearDown p c) := by
  have q : Quiet (t.takenDown p c) ((t.takenDown p c).withdrawn p) := (Quiet.refl _).withdrawn p
  rw [State.tearDown_eq]
  refine ((h.move hf (t.takenDown_fall p c)).quiet q).finishTeardown (.inr ⟨hr, fun _ => ?_⟩)
  rw [(q.ports p).1, State.takenDown_state]

theorem Chain.doDropPort (hf : K .fall) (hr : K .rise) (n : PortId) : Chain K s (t.doDropPort n) := by
  unfold State.doDropPort
  split
  · exact (h.quiet ((Quiet.refl t).setWait 0 (.control n))).tearDown hf hr n .drop
  · exact h.quiet ((Quiet.refl t).completeWrite 0)

/-! ## The port window -/

theorem Chain.takeNotice (ho : K .own) {p : PortId} (up : t.ports[p].state = .up) : Chain K s (t.takeNotice p) := by
  unfold State.takeNotice
  split
  · exact h
  · next i hi =>
    split
    · next b hb => exact h.move ho (.own up (State.takeNotice_use (State.selected_eligible hi) hb _ _))
    · exact h

/-- A change of the controller's words that completes its write. -/
theorem Chain.ownWrite (ho : K .own) {p : PortId} (up : t.ports[p].state = .up) {f : Controller → Controller}
    (use : OwnUse t.ctls[p] (f t.ctls[p])) : Chain K s ((t.modCtl p f).completeWrite p) :=
  (h.move ho (.own up use)).quiet ((Quiet.refl _).completeWrite p)

theorem Chain.refuse (p : PortId) (r : Reason) : Chain K s (t.refuse p r) := h.quiet ((Quiet.refl t).refuse p r)

theorem Chain.writeEnd (ho : K .own) {p : PortId} (up : t.ports[p].state = .up) (v : Word) : Chain K s (t.writeEnd p v) := by
  unfold State.writeEnd State.endUrgent State.endSlot
  repeat' split
  all_goals first | exact h.refuse _ _ | exact h.ownWrite ho up (OwnUse.filter _ _)

theorem Chain.writeThreshold (ho : K .own) {p : PortId} (up : t.ports[p].state = .up) (v : Word) :
    Chain K s (t.writeThreshold p v) := by
  unfold State.writeThreshold
  split
  · exact h.ownWrite ho up ⟨fun _ => rfl, id⟩
  · exact h.refuse _ _

theorem Chain.readPortWord (ho : K .own) {p : PortId} (up : t.ports[p].state = .up) (k : Fin 16) :
    Chain K s (t.readPortWord p k) := by
  by_cases hk : k = 0
  · subst hk
    exact (h.takeNotice ho up).quiet ((Quiet.refl _).completeRead p _)
  · exact h.calm (Calm.readPortWord t p hk)

theorem Chain.writeControl (hf : K .fall) (hr : K .rise) (p : PortId) (v : Word) : Chain K s (t.writeControl p v) := by
  by_cases hv : ∃ n, controlOf v = some (.dropPort n)
  · obtain ⟨n, hn⟩ := hv
    unfold State.writeControl
    rw [hn]
    exact h.doDropPort hf hr n
  · exact h.calm (Calm.writeControl t p fun n hn => hv ⟨n, hn⟩)

theorem Chain.writePortWord (ho : K .own) (hf : K .fall) (hr : K .rise) {p : PortId} (up : t.ports[p].state = .up)
    (k : Fin 16) (v : Word) : Chain K s (t.writePortWord p k v) := by
  unfold State.writePortWord
  split
  · exact h.writeEnd ho up v
  · exact h.calm (Calm.writePending up v)
  · exact h.ownWrite ho up ⟨fun _ => rfl, id⟩
  · exact h.ownWrite ho up ⟨fun _ => rfl, id⟩
  · exact h.writeThreshold ho up v
  · exact h.calm (Calm.writeSignal t p v)
  · exact h.writeControl hf hr p v
  · exact h.refuse _ _

theorem Chain.portWindow (ho : K .own) (hf : K .fall) (hr : K .rise) {p : PortId} (up : t.ports[p].state = .up)
    (k : Fin 16) (d : Dir) (v : Word) : Chain K s (t.portWindow p k d v) := by
  unfold State.portWindow
  repeat' split
  all_goals first | exact h.refuse _ _ | exact h.readPortWord ho up k | exact h.writePortWord ho hf hr up k v

/-! ## The arrival and the presentation of a cycle -/

/-- A cycle at the table area, where the table unit takes up a word or the word is memory alone (R10, R152). -/
theorem Chain.tableCycle {p : PortId} {o : Nat} {d : Dir} (ht : K .table ∨ (d = .write → p = 0 → tableWordOf o = .plain))
    (a : Addr) (v : Word) : Chain K s (t.tableCycle p o d a v) := by
  unfold State.tableCycle
  split
  · exact h.quiet ((Quiet.refl t).toMemory _ _ _ _)
  · split
    · next hp =>
      refine Chain.quiet (t := t.applyTable (tableWordOf o) v) ?_ ((Quiet.refl _).toMemory _ _ _ _)
      rcases ht with hk | hplain
      · exact h.move hk (.applied t _ v)
      · rw [hplain rfl hp]
        exact h
    · exact h.refuse _ _

/-- A cycle that reaches the access path: what it does at the port window and at the table area is the two hypotheses. -/
theorem Chain.arriveBy {p : PortId} {d : Dir} {a : Addr} {v : Word}
    (hw : ∀ k, portWordOf a = some k → Chain K s (t.portWindow p k d v))
    (ht : K .table ∨ ∀ o, tableOffsetOf a = some o → d = .write → p = 0 → tableWordOf o = .plain) :
    Chain K s (t.arrive p d a v) := by
  unfold State.arrive
  cases hc : t.classify a with
  | portWord k =>
    refine hw k ?_
    unfold State.classify at hc
    repeat' split at hc
    all_goals first | (cases hc; assumption) | cases hc
  | table o =>
    refine h.tableCycle (ht.imp id fun hp => hp o ?_) a v
    unfold State.classify at hc
    repeat' split at hc
    all_goals first | (cases hc; assumption) | cases hc
  | storage => exact h.refuse _ _
  | window w => exact h.quiet ((Quiet.refl t).windowCycle _ _ _ _ _)
  | memory => exact h.quiet ((Quiet.refl t).toMemory _ _ _ _)

theorem Chain.arrive (ho : K .own) (hf : K .fall) (hr : K .rise) (ht : K .table) {p : PortId}
    (up : t.ports[p].state = .up) (d : Dir) (a : Addr) (v : Word) : Chain K s (t.arrive p d a v) :=
  h.arriveBy (fun k _ => h.portWindow ho hf hr up k d v) (.inl ht)

/-- A presented cycle reaches the access path only at a port that is UP (R1). -/
theorem Chain.presentBy {p : PortId} {d : Dir} {a : Addr} {v : Word}
    (ha : Chain K s (t.taking p d a v) → (t.taking p d a v).ports[p].state = .up →
      Chain K s ((t.taking p d a v).arrive p d a v)) : Chain K s (t.present p d a v) := by
  unfold State.present
  split
  · exact h
  · split
    · exact h
    · exact h.calm (Calm.modPort t p (fun pt => pt.accept d a v .unclassified) fun _ => rfl)
    · next hu =>
      exact ha (h.calm (Calm.modPort t p (fun pt => pt.accept d a v .arriving) fun _ => rfl))
        ((State.taking_port_state t p p d a v).trans hu)

theorem Chain.present (ho : K .own) (hf : K .fall) (hr : K .rise) (ht : K .table) (p : PortId) (d : Dir) (a : Addr)
    (v : Word) : Chain K s (t.present p d a v) := h.presentBy fun k up => k.arrive ho hf hr ht up d a v

/-! ## Start-up -/

theorem Chain.arriveHeld (ho : K .own) (hf : K .fall) (hr : K .rise) (ht : K .table) (p : PortId) :
    Chain K s (t.arriveHeld p) := by
  unfold State.arriveHeld
  split
  · exact h
  · split
    · next hu =>
      have q : Quiet t (t.setWait p .arriving) := (Quiet.refl t).setWait p .arriving
      exact (h.quiet q).arrive ho hf hr ht ((q.ports p).1.trans hu.1) _ _ _
    · exact h

theorem Chain.arriveAll (ho : K .own) (hf : K .fall) (hr : K .rise) (ht : K .table) : Chain K s t.arriveAll := by
  unfold State.arriveAll
  split
  · exact Chain.foldl (fun p k => k.arriveHeld ho hf hr ht p) _ h
  · exact Chain.foldl (fun p k => k.arriveHeld ho hf hr ht p) _ (t := { t with freeUse := t.freeUse + 1 }) (h.calm .same)

end

/-! ### The ports leave OFF (R171) -/

theorem State.leaveOff_port (s : State) (p q : PortId) :
    (s.leaveOff p).ports[q] = if p = q then (s.ports[q]).leaveOff else s.ports[q] := by
  unfold State.leaveOff
  dsimp only
  split <;> exact State.modPort_port s p q _

theorem State.leaveOff_ctl (s : State) (p q : PortId) :
    (s.leaveOff p).ctls[q] = if p = q ∧ s.ports[q].prstn = false then (s.ctls[q]).cleared else s.ctls[q] := by
  unfold State.leaveOff
  dsimp only
  split
  · next hp =>
    refine (if_neg fun h => ?_).symm
    obtain ⟨e, hq⟩ := h
    subst e
    exact Bool.false_ne_true (hq.symm.trans hp)
  · next hp =>
    show (upd s.ctls p (·.cleared))[q] = _
    rw [upd_get]
    by_cases e : p = q
    · subst e
      rw [if_pos rfl, if_pos ⟨rfl, Bool.eq_false_iff.2 hp⟩]
    · rw [if_neg e, if_neg fun h => e h.1]

theorem State.leaveOff_table (s : State) (p : PortId) : SameTable s (s.leaveOff p) := by
  unfold State.leaveOff
  dsimp only
  split <;> exact ⟨rfl, rfl, rfl, rfl⟩

/-- A port that leaves OFF is UP with its controller as it was, or has its controller cleared (R171). -/
theorem State.leaveOff_same (s : State) (p : PortId) : (s.leaveOff p).ctls[p] = (s.ctls[p]).cleared ∨
    (s.leaveOff p).ctls[p] = s.ctls[p] ∧ (s.leaveOff p).ports[p].state = .up := by
  rw [State.leaveOff_ctl, State.leaveOff_port, if_pos rfl]
  by_cases hp : s.ports[p].prstn = true
  · refine .inr ⟨if_neg fun h => Bool.false_ne_true (h.2.symm.trans hp), ?_⟩
    unfold Port.leaveOff
    rw [if_pos hp]
  · exact .inl (if_pos ⟨rfl, Bool.eq_false_iff.2 hp⟩)

/-- The ports of a list leave OFF one after another; the others stay. -/
theorem State.leaveOff_fold : ∀ (l : List PortId) (s : State), l.Nodup →
    SameTable s (l.foldl (fun u p => u.leaveOff p) s) ∧
    (∀ q ∉ l, (l.foldl (fun u p => u.leaveOff p) s).ports[q] = s.ports[q] ∧
      (l.foldl (fun u p => u.leaveOff p) s).ctls[q] = s.ctls[q]) ∧
    (∀ q ∈ l, (l.foldl (fun u p => u.leaveOff p) s).ctls[q] = (s.ctls[q]).cleared ∨
      (l.foldl (fun u p => u.leaveOff p) s).ctls[q] = s.ctls[q] ∧
        (l.foldl (fun u p => u.leaveOff p) s).ports[q].state = .up)
  | [], s, _ => ⟨⟨rfl, rfl, rfl, rfl⟩, fun _ _ => ⟨rfl, rfl⟩, fun _ h => nomatch h⟩
  | p :: l, s, hd => by
    obtain ⟨hpl, hl⟩ := List.nodup_cons.1 hd
    obtain ⟨ht, hout, hin⟩ := State.leaveOff_fold l (s.leaveOff p) hl
    have other {q : PortId} (e : q ≠ p) : (s.leaveOff p).ports[q] = s.ports[q] ∧ (s.leaveOff p).ctls[q] = s.ctls[q] := by
      rw [State.leaveOff_port, State.leaveOff_ctl, if_neg (Ne.symm e), if_neg fun h => e h.1.symm]
      exact ⟨rfl, rfl⟩
    refine ⟨(s.leaveOff_table p).trans ht, fun q hq => ?_, fun q hq => ?_⟩
    · rw [List.mem_cons, not_or] at hq
      obtain ⟨hp, hc⟩ := hout q hq.2
      exact ⟨hp.trans (other hq.1).1, hc.trans (other hq.1).2⟩
    · rw [List.foldl_cons]
      rcases List.mem_cons.1 hq with e | hql
      · subst e
        obtain ⟨hp, hc⟩ := hout q hpl
        rw [hp, hc]
        exact s.leaveOff_same q
      · have h := hin q hql
        rw [(other fun e => hpl (e ▸ hql)).2] at h
        exact h

theorem mem_allPorts (p : PortId) : p ∈ allPorts := by revert p; decide

section
variable {K : MoveKind → Prop} {s t : State} (h : Chain K s t)
include h

/-- The end of start-up: every port is UP, or DOWN with its controller cleared; then the held cycles arrive (R171). -/
theorem Chain.endStartUp (ho : K .own) (hf : K .fall) (hr : K .rise) (ht : K .table) : Chain K s t.endStartUp := by
  obtain ⟨htab, -, hin⟩ := State.leaveOff_fold allPorts { t with part := .running } (by decide)
  refine (h.move hf (.fall htab fun q => ?_)).arriveAll ho hf hr ht
  exact (hin q (mem_allPorts q)).imp id fun k => ⟨k.1, .inl k.2⟩

theorem Chain.warmReset (hk : K .reset) : Chain K s t.warmReset := by
  rw [State.warmReset_eq]
  exact h.move hk (.reset rfl rfl rfl)

theorem Chain.powerDown (hk : K .reset) : Chain K s t.powerDown := by
  unfold State.powerDown
  split
  · exact h.move hk (.reset rfl rfl rfl)
  · exact h

theorem Chain.rstnFalls (hk : K .reset) : Chain K s t.rstnFalls := by
  unfold State.rstnFalls
  repeat' split
  · exact h.calm .same
  · exact Chain.warmReset (t := { t with rstn := false }) (h.calm .same) hk
  · exact h

end

theorem Calm.powerUp (s : State) : Calm s s.powerUp := by
  unfold State.powerUp
  split <;> exact .same

theorem Calm.beginSweep (s : State) : Calm s s.beginSweep := by
  unfold State.beginSweep
  split <;> exact .same

theorem Calm.rstnRises (s : State) : Calm s s.rstnRises := by
  unfold State.rstnRises
  split
  · exact .refl s
  · exact Calm.trans (t := { s with rstn := true }) .same (Calm.beginSweep _)

/-! ## Accesses -/

theorem Calm.memUpset (s : State) (a : Addr) (u : Upset) : Calm s (s.memUpset a u) := by
  unfold State.memUpset
  repeat' split
  all_goals exact .same

theorem Calm.memEffect (s : State) (q : Request) (u : Upset) : Calm s (s.memEffect q u) := by
  unfold State.memEffect
  split
  · exact Calm.memUpset s _ u
  · exact .same
  · exact .same

theorem Calm.staleDone (s : State) (a : Access) (u : Upset) : Calm s (s.staleDone a u) :=
  (((Calm.same (t := { s with inProg := none })).trans (Calm.memEffect _ a.req u)).trans
    ((Quiet.refl _).withFault none).calm).trans (Calm.beginSweep _)

/-- What a granted access passes on, every block takes up calmly (R137). -/
theorem Calm.grantedDone (s : State) (a : Access) (u : Upset) : Calm s (s.grantedDone a u) :=
  ((Calm.same (t := { s with inProg := none })).trans (Calm.memEffect _ a.req u)).trans
    ((((Quiet.refl _).reportIf _ _ _).judge _ _ _).passResult _ _ _).calm

theorem Calm.grant (s : State) (u : Upset) : Calm s (s.grant u) := by
  have begins (q : Fin 5) (r : Request) : Calm s (s.beginAccess q r u) := by
    unfold State.beginAccess
    dsimp only
    split
    · exact ((Calm.same (t := { s.modReq q fun _ => none with lastGrant := q })).trans (Calm.memUpset _ r.addr u)).trans .same
    · exact .same
  unfold State.grant
  repeat' split
  all_goals first | exact begins _ _ | exact .refl s

/-- The access in progress is not one of start-up control. -/
def State.carriesNoStartUp (s : State) : Prop :=
  ∀ x : Access, s.inProg = some x → (∀ k, x.req.issuer ≠ .clear k) ∧ ∀ k, x.req.issuer ≠ .sweep k

/-- The completion of an access that is not one of start-up control is calm. -/
theorem Calm.completeAccess {s : State} (h : s.carriesNoStartUp) (u : Upset) : Calm s (s.completeAccess u) := by
  unfold State.completeAccess
  cases hi : s.inProg with
  | none => exact .refl s
  | some x =>
    obtain ⟨hc, hs⟩ := h x hi
    dsimp only
    cases e : x.req.issuer with
    | clear k => exact absurd e (hc k)
    | sweep k => exact absurd e (hs k)
    | stale => exact Calm.staleDone s x u
    | port p => exact Calm.grantedDone s x u
    | ring r => exact Calm.grantedDone s x u
    | chan c k => exact Calm.grantedDone s x u

theorem Calm.completeStop {s : State} (h : s.carriesNoStartUp) (c : ChanId) (u : Upset) : Calm s (s.completeStop c u) := by
  unfold State.completeStop
  repeat' split
  · exact .refl s
  · exact Calm.completeAccess h u
  · exact ((Quiet.refl s).settleStop c).calm

/-- A word of the sweep is taken up or rejected (R167, R175). -/
theorem Chain.takeSwept {K : MoveKind → Prop} (ht : K .table) {s t : State} (h : Chain K s t) (o : Nat) (c : MemCell) :
    Chain K s (t.takeSwept o c) := by
  unfold State.takeSwept
  split
  · exact ((h.quiet ((Quiet.refl t).reportParity _ _)).move ht (.damaged _ _)).quiet ((Quiet.refl _).rejectTable _ _)
  · exact h.move ht (.applied t _ _)

section
variable {K : MoveKind → Prop} (ho : K .own) (hf : K .fall) (hr : K .rise) (ht : K .table) {s t : State} (h : Chain K s t)
include ho hf hr ht h

theorem Chain.sweepDone (i : Nat) (a : Addr) (u : Upset) : Chain K s (t.sweepDone i a u) := by
  have k : Chain K s (({ t with inProg := none } : State).memUpset a u) :=
    (h.calm (.same (t := { t with inProg := none }))).calm (Calm.memUpset _ a u)
  unfold State.sweepDone
  dsimp only
  split
  · exact (k.takeSwept ht _ _).calm .same
  · exact (k.takeSwept ht _ _).endStartUp ho hf hr ht

theorem Chain.clearDone (hk : K .reset) (i : Nat) (a : Addr) : Chain K s (t.clearDone i a) := by
  have k : Chain K s (({ t with inProg := none } : State).memWrite a 0) := h.calm .same
  unfold State.clearDone
  dsimp only
  repeat' split
  · exact k.calm .same
  · exact k.endStartUp ho hf hr ht
  · exact k.warmReset hk

theorem Chain.completeAccess (hk : K .reset) (u : Upset) : Chain K s (t.completeAccess u) := by
  unfold State.completeAccess
  split
  · exact h
  · next x _ =>
    split
    · exact Chain.clearDone ho hf hr ht h hk _ _
    · exact Chain.sweepDone ho hf hr ht h _ _ u
    · exact h.calm (Calm.staleDone t x u)
    all_goals exact h.calm (Calm.grantedDone t x u)

theorem Chain.completeClear (hk : K .reset) : Chain K s t.completeClear := by
  unfold State.completeClear
  repeat' split
  all_goals first | exact Chain.clearDone ho hf hr ht h hk _ _ | exact h

theorem Chain.completeSweep (u : Upset) : Chain K s (t.completeSweep u) := by
  unfold State.completeSweep
  repeat' split
  all_goals first | exact Chain.sweepDone ho hf hr ht h _ _ u | exact h.calm (Calm.staleDone t _ u) | exact h

theorem Chain.completeStop (hk : K .reset) (c : ChanId) (u : Upset) : Chain K s (t.completeStop c u) := by
  unfold State.completeStop
  repeat' split
  · exact h
  · exact Chain.completeAccess ho hf hr ht h hk u
  · exact h.quiet ((Quiet.refl t).settleStop c)

end

/-! ## Ticks and pins -/

theorem Calm.withTick {s t : State} (h : Calm s t) (n : Nat) : Calm s { t with tick := n } := h.trans .same

theorem Calm.boundary (s : State) : Calm s s.boundary := by
  unfold State.boundary
  split
  · exact (Quiet.settleDue (Quiet.refl s)).countDown.calm.withTick 0
  · exact .refl s

theorem Calm.clockPeriod (s : State) : Calm s s.clockPeriod := by
  have hq : Calm s s.settleDue := (Quiet.settleDue (Quiet.refl s)).calm
  unfold State.clockPeriod
  dsimp only
  repeat' split
  · exact hq.trans (Calm.boundary _)
  · exact hq.withTick _
  · exact .refl s

theorem Calm.strobeNegated (s : State) (p : PortId) : Calm s (s.modPort p (·.strobeNegated)) := by
  refine Calm.modPort s p _ fun pt => ?_
  unfold Port.strobeNegated
  split <;> rfl

/-- A port whose PRSTN goes high goes UP or keeps its state (R172, R177). -/
theorem State.prstnRises_rise (s : State) (p : PortId) (b : Bool) : Move .rise s (s.modPort p fun pt => pt.prstnRises b) := by
  refine .rise ⟨rfl, rfl, rfl, rfl⟩ rfl rfl fun q => ?_
  rw [State.modPort_port]
  split
  · unfold Port.prstnRises
    split
    · exact .inl rfl
    · exact .inr rfl
  · exact .inr rfl

theorem Chain.prstnFalls {K : MoveKind → Prop} (hf : K .fall) (hr : K .rise) {s t : State} (h : Chain K s t) (p : PortId) :
    Chain K s (t.prstnFalls p) := by
  have k : Chain K s (t.modPort p fun pt => { pt with prstn := false }) := h.calm (Calm.modPort t p _ fun _ => rfl)
  unfold State.prstnFalls
  dsimp only
  split
  · exact k.tearDown hf hr p .prstn
  · exact k

/-! ## Every command, and every step -/

/-- A command that is no cycle, no reset, no fall of a PRSTN and no end of an access of start-up control is a chain of calm changes
and of ports that go UP. -/
theorem exec_chain_of_event {K : MoveKind → Prop} (hr : K .rise) {i : Instr} {s t : State} (h : exec i s = .next t)
    (hcy : cycleOf i = none) (hx : s.carriesNoStartUp ∨ ∀ c u, i ≠ .memoryAccessComplete u ∧ i ≠ .stopPendingComplete c u)
    (h1 : i ≠ .ponnLow) (h2 : i ≠ .rstnLow) (h3 : i ≠ .coldClearWriteComplete) (h4 : ∀ u, i ≠ .sweepReadComplete u)
    (h5 : ∀ p, i ≠ .portReset p)
    (hend : K .ended ∨ ∀ p : PortId, s.ports[p].teardown.isSome = true → s.ports[p].state = .down) : Chain K s t := by
  cases i with
  | ponnLow => exact absurd rfl h1
  | ponnHigh => cases h; exact (Calm.powerUp s).chain K
  | coldClearWriteComplete => exact absurd rfl h3
  | rstnLow => exact absurd rfl h2
  | sweepStart => cases h; exact (Calm.rstnRises s).chain K
  | sweepReadComplete u => exact absurd rfl (h4 u)
  | portReset p => exact absurd rfl (h5 p)
  | teardownComplete p =>
    cases h
    exact (Chain.refl K s).finishTeardown (hend.imp id fun hd => ⟨hr, hd p⟩)
  | portUp p => cases h; exact (Chain.refl K s).move hr (s.prstnRises_rise p _)
  | strobeNegated p => cases h; exact (Calm.strobeNegated s p).chain K
  | holdListTakeUp r => cases h; exact ((Quiet.refl s).resumeRing r).chain K
  | stalledPostOpen r => cases h; exact ((Quiet.refl s).openHead r).chain K
  | stallLimitExpiry r p => cases h; exact ((Quiet.refl s).stallExpires r p).chain K
  | lockHandover l =>
    cases h
    split
    · exact ((Quiet.refl s).releaseLock l).chain K
    · exact .refl K s
  | leaseExpiry l => cases h; exact ((Quiet.refl s).leaseExpires l).chain K
  | tickBoundary => cases h; exact (Calm.boundary s).chain K
  | stopPendingComplete c u =>
    cases h
    rcases hx with hx | hx
    · exact (Calm.completeStop hx c u).chain K
    · exact absurd rfl (hx c u).2
  | channelPick => cases h; exact (Quiet.refl s).pickChan.chain K
  | arbiterGrant u => cases h; exact (Calm.grant s u).chain K
  | memoryAccessComplete u =>
    cases h
    rcases hx with hx | hx
    · exact (Calm.completeAccess hx u).chain K
    · exact absurd rfl (hx 0 u).1
  | _ => cases hcy

/-- Every command is a chain of moves. An `ended` move is needed only where a teardown is in progress at a port that is not
DOWN. -/
theorem exec_chain {K : MoveKind → Prop} (hK : ∀ k, k ≠ .ended → K k) {s : State}
    (hend : K .ended ∨ ∀ p : PortId, s.ports[p].teardown.isSome = true → s.ports[p].state = .down) {i : Instr} {t : State}
    (h : exec i s = .next t) : Chain K s t := by
  have ho : K .own := hK _ (fun e => nomatch e)
  have hf : K .fall := hK _ (fun e => nomatch e)
  have hr : K .rise := hK _ (fun e => nomatch e)
  have ht : K .table := hK _ (fun e => nomatch e)
  have hk : K .reset := hK _ (fun e => nomatch e)
  have k : Chain K s s := .refl K s
  cases hcy : cycleOf i with
  | some x =>
    obtain ⟨p, d, a, v⟩ := x
    rw [exec_of_cycleOf hcy] at h
    cases h
    exact k.present ho hf hr ht p d a v
  | none =>
    by_cases h1 : i = .ponnLow
    · subst h1; cases h; exact k.powerDown hk
    by_cases h2 : i = .rstnLow
    · subst h2; cases h; exact k.rstnFalls hk
    by_cases h3 : i = .coldClearWriteComplete
    · subst h3; cases h; exact Chain.completeClear ho hf hr ht k hk
    by_cases h4 : ∃ u, i = .sweepReadComplete u
    · obtain ⟨u, rfl⟩ := h4; cases h; exact Chain.completeSweep ho hf hr ht k u
    by_cases h5 : ∃ p, i = .portReset p
    · obtain ⟨p, rfl⟩ := h5; cases h; exact Chain.prstnFalls hf hr k p
    by_cases h6 : ∃ u, i = .memoryAccessComplete u
    · obtain ⟨u, rfl⟩ := h6; cases h; exact Chain.completeAccess ho hf hr ht k hk u
    by_cases h7 : ∃ c u, i = .stopPendingComplete c u
    · obtain ⟨c, u, rfl⟩ := h7; cases h; exact Chain.completeStop ho hf hr ht k hk c u
    exact exec_chain_of_event hr h hcy (.inr fun c u => ⟨fun e => h6 ⟨u, e⟩, fun e => h7 ⟨c, u, e⟩⟩) h1 h2 h3
      (fun u e => h4 ⟨u, e⟩) (fun p e => h5 ⟨p, e⟩) hend

/-- A step keeps what calm changes and the moves keep, and what does not look at the queue. -/
theorem step_keeps {K : MoveKind → Prop} (hK : ∀ k, k ≠ .ended → K k) {P : State → Prop}
    (calm : ∀ s t, Calm s t → P s → P t) (move : ∀ k s t, K k → Move k s t → P s → P t) {s t : State}
    (hend : K .ended ∨ ∀ p : PortId, s.ports[p].teardown.isSome = true → s.ports[p].state = .down)
    (h : step s = .next t) (hs : P s) : P t := by
  unfold step at h
  split at h
  · cases h
    exact calm _ _ (Calm.clockPeriod s) hs
  · next c rest _ =>
    have h0 : P { s with pending := rest } := calm s _ .same hs
    exact (exec_chain (s := { s with pending := rest }) hK hend h).keeps calm move h0

end Sys2Proof.Machine

/-! PROOFS. The laws that every step keeps: of windows, ring storages and bindings (O59), and of ports that are not UP and of the
in-service sets (O60). -/

namespace Sys2Proof.Machine

/-! ## Ranges -/

theorem Range.meets_comm (g h : Range) : g.meets h = h.meets g := by
  unfold Range.meets
  ac_rfl

/-- A range is free for window `w`: no other VALID window and no storage of an enabled ring meets it (R157 check 5). -/
theorem State.winRangeFree_iff (s : State) (w : WinId) (g : Range) : s.winRangeFree w g = true ↔
    (∀ v : WinId, v ≠ w → s.windows[v].valid = true → (winRange s.windows[v].data).meets g = false) ∧
    ∀ r : RingId, s.recs[r].enable = true → (s.recs[r].storage).meets g = false := by
  unfold State.winRangeFree
  simp only [Bool.and_eq_true, List.all_eq_true, Bool.or_eq_true, decide_eq_true_eq, Bool.not_eq_true',
    Bool.and_eq_false_imp, mem_allWins, mem_allRings, true_imp_iff]
  simp only [or_iff_not_imp_left, ne_eq]

/-- No other VALID window of the kind maps an object of the candidate (R157 check 6). -/
theorem State.notMapped_iff (s : State) (w : WinId) (k : WinKind) (c : WinCtl) : s.notMapped w k c = true ↔
    ∀ v : WinId, v ≠ w → s.windows[v].valid = true → s.windows[v].ctl.winKind = some k →
      (mapped k s.windows[v].ctl).meets (mapped k c) = false := by
  unfold State.notMapped
  simp only [Bool.and_eq_true, List.all_eq_true, Bool.or_eq_true, decide_eq_true_eq, Bool.not_eq_true',
    Bool.and_eq_false_imp, mem_allWins, true_imp_iff, and_imp]
  simp only [or_iff_not_imp_left, ne_eq]

/-- A range is free for the storage of ring `r`: no VALID window and no storage of another enabled ring meets it (R160 check 3). -/
theorem State.storageFree_iff (s : State) (r : RingId) (g : Range) : s.storageFree r g = true ↔
    (∀ v : WinId, s.windows[v].valid = true → (winRange s.windows[v].data).meets g = false) ∧
    ∀ q : RingId, q ≠ r → s.recs[q].enable = true → (s.recs[q].storage).meets g = false := by
  unfold State.storageFree
  simp only [Bool.and_eq_true, List.all_eq_true, Bool.or_eq_true, decide_eq_true_eq, Bool.not_eq_true',
    Bool.and_eq_false_imp, mem_allWins, mem_allRings, true_imp_iff]
  simp only [or_iff_not_imp_left, ne_eq]

/-- An accepted window candidate has a kind, lies in the span, and meets and maps nothing that another window has (R157). -/
theorem State.winReject_none {s : State} {w : WinId} {d : Vector Word 3} {c : WinCtl} (h : s.winReject w d c = none) :
    ∃ k, c.winKind = some k ∧ (winRange d).inSpan = true ∧ s.winRangeFree w (winRange d) = true ∧ s.notMapped w k c = true := by
  unfold State.winReject at h
  split at h
  · cases h
  · next k hk =>
    refine ⟨k, hk, ?_⟩
    repeat' split at h
    all_goals simp_all

/-- An accepted ring candidate's storage lies in the span and meets nothing (R160). -/
theorem State.ringReject_none {s : State} {r : RingId} {d : Vector Word 7} (h : s.ringReject r d = none) :
    (recOf d).storage.inSpan = true ∧ s.storageFree r (recOf d).storage = true := by
  unfold State.ringReject at h
  dsimp only at h
  repeat' split at h
  all_goals simp_all

/-! ## The law of ranges and mappings (R158) -/

/-- The laws of windows and storages together. -/
def State.placeLaw (s : State) : Prop := s.rangeLaw ∧ s.mapLaw

/-- The live parts of the window entries and ring records are the same: staged words and marks of damage may differ. -/
structure SameLive (s t : State) : Prop where
  valid : ∀ w : WinId, t.windows[w].valid = s.windows[w].valid
  data : ∀ w : WinId, t.windows[w].data = s.windows[w].data
  ctl : ∀ w : WinId, t.windows[w].ctl = s.windows[w].ctl
  enable : ∀ r : RingId, t.recs[r].enable = s.recs[r].enable
  record : ∀ r : RingId, t.recs[r].data = s.recs[r].data

theorem SameLive.of_eq {s t : State} (hw : t.windows = s.windows) (hr : t.recs = s.recs) : SameLive s t :=
  ⟨fun _ => by rw [hw], fun _ => by rw [hw], fun _ => by rw [hw], fun _ => by rw [hr], fun _ => by rw [hr]⟩

/-- A ring's storage is read out of its data words (R65). -/
theorem RingRec.storage_congr {a b : RingRec} (h : a.data = b.data) : a.storage = b.storage := by
  unfold RingRec.storage RingRec.base RingRec.capacity RingRec.entrySize
  rw [h]

theorem SameLive.placeLaw {s t : State} (h : SameLive s t) (hs : s.placeLaw) : t.placeLaw := by
  have hst (r : RingId) : t.recs[r].storage = s.recs[r].storage := RingRec.storage_congr (h.record r)
  unfold State.placeLaw State.rangeLaw State.mapLaw
  simp only [h.valid, h.data, h.ctl, h.enable, hst]
  exact hs

theorem SameLive.modWin (s : State) (w : WinId) (f : WinEntry → WinEntry) (hv : ∀ e, (f e).valid = e.valid)
    (hd : ∀ e, (f e).data = e.data) (hc : ∀ e, (f e).ctl = e.ctl) : SameLive s (s.modWin w f) := by
  have hget (v : WinId) : (s.modWin w f).windows[v] = if w = v then f s.windows[v] else s.windows[v] := upd_get _ _ _ _
  refine ⟨fun v => ?_, fun v => ?_, fun v => ?_, fun _ => rfl, fun _ => rfl⟩ <;> rw [hget] <;> split
  · exact hv _
  · rfl
  · exact hd _
  · rfl
  · exact hc _
  · rfl

theorem SameLive.modRec (s : State) (r : RingId) (f : RingRec → RingRec) (he : ∀ e, (f e).enable = e.enable)
    (hd : ∀ e, (f e).data = e.data) : SameLive s (s.modRec r f) := by
  have hget (q : RingId) : (s.modRec r f).recs[q] = if r = q then f s.recs[q] else s.recs[q] := upd_get _ _ _ _
  refine ⟨fun _ => rfl, fun _ => rfl, fun _ => rfl, fun q => ?_, fun q => ?_⟩ <;> rw [hget] <;> split
  · exact he _
  · rfl
  · exact hd _
  · rfl

theorem Calm.sameLive {s t : State} (h : Calm s t) : SameLive s t := by
  obtain ⟨-, hw, hr, -⟩ := h.table
  exact .of_eq hw hr

/-- A window entry installed that is INVALID, or that is free and maps nothing mapped (R156 to R158). -/
theorem State.placeLaw_setWin {s : State} (hs : s.placeLaw) (w : WinId) (e : WinEntry)
    (he : e.valid = true → (winRange e.data).inSpan = true ∧ s.winRangeFree w (winRange e.data) = true ∧
      ∀ k, e.ctl.winKind = some k → s.notMapped w k e.ctl = true) : (s.modWin w fun _ => e).placeLaw := by
  obtain ⟨⟨hspan, hrec, hww, hwr, hrr⟩, hmap⟩ := hs
  have hget (v : WinId) : (s.modWin w fun _ => e).windows[v] = if w = v then e else s.windows[v] := upd_get _ _ _ _
  have hsame : (s.modWin w fun _ => e).windows[w] = e := (hget w).trans (if_pos rfl)
  have hother {v : WinId} (hv : v ≠ w) : (s.modWin w fun _ => e).windows[v] = s.windows[v] :=
    (hget v).trans (if_neg (Ne.symm hv))
  refine ⟨⟨fun v => ?_, hrec, fun v x hvx => ?_, fun v r => ?_, hrr⟩, fun v x k hvx => ?_⟩
  · by_cases hv : v = w
    · subst hv
      rw [hsame]
      exact fun h => (he h).1
    · rw [hother hv]
      exact hspan v
  · by_cases hv : v = w
    · subst hv
      rw [hsame, hother (Ne.symm hvx), Range.meets_comm]
      exact fun h hx => ((s.winRangeFree_iff v _).1 (he h).2.1).1 x (Ne.symm hvx) hx
    · by_cases hx : x = w
      · subst hx
        rw [hsame, hother hv]
        exact fun hv' h => ((s.winRangeFree_iff x _).1 (he h).2.1).1 v hv hv'
      · rw [hother hv, hother hx]
        exact hww v x hvx
  · show _ → s.recs[r].enable = true → Range.meets _ s.recs[r].storage = false
    by_cases hv : v = w
    · subst hv
      rw [hsame, Range.meets_comm]
      exact fun h hr => ((s.winRangeFree_iff v _).1 (he h).2.1).2 r hr
    · rw [hother hv]
      exact hwr v r
  · by_cases hv : v = w
    · subst hv
      rw [hsame, hother (Ne.symm hvx), Range.meets_comm]
      exact fun h hx hk hxk => (s.notMapped_iff v k _).1 ((he h).2.2 k hk) x (Ne.symm hvx) hx hxk
    · by_cases hx : x = w
      · subst hx
        rw [hsame, hother hv]
        exact fun hv' h hvk hk => (s.notMapped_iff x k _).1 ((he h).2.2 k hk) v hv hv' hvk
      · rw [hother hv, hother hx]
        exact hmap v x k hvx

/-- A ring record installed that is disabled, or whose storage is free (R158, R160). -/
theorem State.placeLaw_setRec {s : State} (hs : s.placeLaw) (r : RingId) (e : RingRec)
    (he : e.enable = true → e.storage.inSpan = true ∧ s.storageFree r e.storage = true) :
    (s.modRec r fun _ => e).placeLaw := by
  obtain ⟨⟨hspan, hrec, hww, hwr, hrr⟩, hmap⟩ := hs
  have hget (q : RingId) : (s.modRec r fun _ => e).recs[q] = if r = q then e else s.recs[q] := upd_get _ _ _ _
  have hsame : (s.modRec r fun _ => e).recs[r] = e := (hget r).trans (if_pos rfl)
  have hother {q : RingId} (hq : q ≠ r) : (s.modRec r fun _ => e).recs[q] = s.recs[q] :=
    (hget q).trans (if_neg (Ne.symm hq))
  refine ⟨⟨hspan, fun q => ?_, hww, fun v q => ?_, fun q x hqx => ?_⟩, hmap⟩
  · by_cases hq : q = r
    · subst hq
      rw [hsame]
      exact fun h => (he h).1
    · rw [hother hq]
      exact hrec q
  · show s.windows[v].valid = true → _ → Range.meets (winRange s.windows[v].data) _ = false
    by_cases hq : q = r
    · subst hq
      rw [hsame]
      exact fun hv h => ((s.storageFree_iff q _).1 (he h).2).1 v hv
    · rw [hother hq]
      exact hwr v q
  · by_cases hq : q = r
    · subst hq
      rw [hsame, hother (Ne.symm hqx), Range.meets_comm]
      exact fun h hx => ((s.storageFree_iff q _).1 (he h).2).2 x (Ne.symm hqx) hx
    · by_cases hx : x = r
      · subst hx
        rw [hsame, hother hq]
        exact fun hq' h => ((s.storageFree_iff x _).1 (he h).2).2 q hq hq'
      · rw [hother hq, hother hx]
        exact hrr q x hqx

theorem Quiet.placeLaw {s t : State} (h : Quiet s t) (hs : s.placeLaw) : t.placeLaw := h.calm.sameLive.placeLaw hs

theorem State.placeLaw_commitWin {s : State} (hs : s.placeLaw) (w : WinId) (v : Word) : (s.commitWin w v).placeLaw := by
  have hreject (r : TableReason) : ((s.modWin w (·.unstage)).rejectTable (winIndex w 3) r).placeLaw :=
    ((Quiet.refl _).rejectTable _ r).placeLaw
      (SameLive.placeLaw (SameLive.modWin s w _ (fun _ => rfl) (fun _ => rfl) fun _ => rfl) hs)
  unfold State.commitWin
  dsimp only
  split
  · exact hreject .parity
  · split
    · exact State.placeLaw_setWin hs w _ fun h => nomatch h
    · split
      · next hn =>
        obtain ⟨k, hk, hspan, hfree, hmap⟩ := State.winReject_none hn
        refine State.placeLaw_setWin hs w _ fun _ => ⟨hspan, hfree, fun j hj => ?_⟩
        cases hk.symm.trans hj
        exact hmap
      · exact hreject _

theorem State.placeLaw_installRing {s : State} (hs : s.placeLaw) (r : RingId) (d : Vector Word 7) (en : Bool)
    (h : en = true → s.ringReject r d = none) : (s.installRing r d en).placeLaw := by
  have q : Quiet s (s.resetRing r) := (Quiet.refl s).resetRing r
  obtain ⟨-, -, -, -, -, hw, hr, -⟩ := q.config
  refine State.placeLaw_setRec (q.placeLaw hs) r _ fun he => ?_
  obtain ⟨hspan, hfree⟩ := State.ringReject_none (h he)
  refine ⟨hspan, ?_⟩
  unfold State.storageFree
  rw [hw, hr]
  exact hfree

theorem State.placeLaw_commitRing {s : State} (hs : s.placeLaw) (r : RingId) (v : Word) : (s.commitRing r v).placeLaw := by
  have hreject (x : TableReason) : ((s.modRec r (·.unstage)).rejectTable (ringIndex r 7) x).placeLaw :=
    ((Quiet.refl _).rejectTable _ x).placeLaw (SameLive.placeLaw (SameLive.modRec s r _ (fun _ => rfl) fun _ => rfl) hs)
  unfold State.commitRing
  dsimp only
  split
  · exact hreject .parity
  · split
    · exact State.placeLaw_installRing hs r _ false fun h => nomatch h
    · split
      · next hn => exact State.placeLaw_installRing hs r _ true fun _ => hn
      · exact hreject _

theorem State.writeBinding_tables (s : State) (p : PortId) (i : SlotId) (v : Word) :
    (s.writeBinding p i v).windows = s.windows ∧ (s.writeBinding p i v).recs = s.recs := by
  unfold State.writeBinding
  split
  · exact ⟨rfl, rfl⟩
  · have q := (Quiet.refl (s.setBinding p i none)).rejectTable (bindingIndex p i) ‹_›
    obtain ⟨-, -, -, -, -, hw, hr, -⟩ := q.config
    exact ⟨hw, hr⟩

theorem State.placeLaw_applyTable {s : State} (hs : s.placeLaw) (k : TableWord) (v : Word) : (s.applyTable k v).placeLaw := by
  cases k with
  | header n => exact hs
  | winData w k => exact SameLive.placeLaw (SameLive.modWin s w _ (fun _ => rfl) (fun _ => rfl) fun _ => rfl) hs
  | winCtl w => exact State.placeLaw_commitWin hs w v
  | ringData r k => exact SameLive.placeLaw (SameLive.modRec s r _ (fun _ => rfl) fun _ => rfl) hs
  | ringCtl r => exact State.placeLaw_commitRing hs r v
  | lease l => exact hs
  | binding p i =>
    obtain ⟨hw, hr⟩ := s.writeBinding_tables p i v
    exact (SameLive.of_eq hw hr).placeLaw hs
  | plain => exact hs

theorem State.placeLaw_damageTable {s : State} (hs : s.placeLaw) (k : TableWord) : (s.damageTable k).placeLaw := by
  cases k with
  | winData w k => exact SameLive.placeLaw (SameLive.modWin s w _ (fun _ => rfl) (fun _ => rfl) fun _ => rfl) hs
  | winCtl w => exact SameLive.placeLaw (SameLive.modWin s w _ (fun _ => rfl) (fun _ => rfl) fun _ => rfl) hs
  | ringData r k => exact SameLive.placeLaw (SameLive.modRec s r _ (fun _ => rfl) fun _ => rfl) hs
  | ringCtl r => exact SameLive.placeLaw (SameLive.modRec s r _ (fun _ => rfl) fun _ => rfl) hs
  | _ => exact hs

/-- With every window INVALID and every ring disabled there is nothing to meet. -/
theorem State.placeLaw_reset : State.reset.placeLaw := by
  have hv (w : WinId) : State.reset.windows[w].valid ≠ true := by rw [State.reset_window]; decide
  have he (r : RingId) : State.reset.recs[r].enable ≠ true := by rw [State.reset_rec]; decide
  exact ⟨⟨fun w h => absurd h (hv w), fun r h => absurd h (he r), fun v _ _ h => absurd h (hv v),
    fun w _ h => absurd h (hv w), fun q _ _ h => absurd h (he q)⟩, fun v _ _ _ h => absurd h (hv v)⟩

theorem Move.placeLaw {k : MoveKind} {s t : State} (m : Move k s t) (hs : s.placeLaw) : t.placeLaw := by
  have same (h : SameTable s t) : t.placeLaw := by
    obtain ⟨-, hw, hr, -⟩ := h
    exact (SameLive.of_eq hw hr).placeLaw hs
  cases m with
  | rise table => exact same table
  | fall table => exact same table
  | ended table => exact same table
  | own => exact hs
  | applied _ k v => exact State.placeLaw_applyTable hs k v
  | damaged _ k => exact State.placeLaw_damageTable hs k
  | reset hw hr => exact (SameLive.of_eq hw hr).placeLaw State.placeLaw_reset

/-! ## The law of the bindings (R57) -/

/-- Every slot's binding is the same. -/
def SameBindings (s t : State) : Prop := ∀ (p : PortId) (i : SlotId), t.ctls[p].slots[i].binding = s.ctls[p].slots[i].binding

theorem SameBindings.of_eq {s t : State} (h : t.ctls = s.ctls) : SameBindings s t := fun _ _ => by rw [h]

theorem SameBindings.trans {s t u : State} (h : SameBindings s t) (k : SameBindings t u) : SameBindings s u :=
  fun p i => (k p i).trans (h p i)

/-- A cleared controller keeps its bindings (R63). -/
theorem SameBindings.of_cleared {s t : State} (h : ∀ q : PortId, t.ctls[q] = (s.ctls[q]).cleared ∨ t.ctls[q] = s.ctls[q]) :
    SameBindings s t := fun q i => by
  rcases h q with h | h
  · rw [h, Controller.cleared_slot]
  · rw [h]

theorem OwnUse.sameBindings {s : State} {p : PortId} {f : Controller → Controller} (h : OwnUse s.ctls[p] (f s.ctls[p])) :
    SameBindings s (s.modCtl p f) := fun q i => by
  show (upd s.ctls p f)[q].slots[i].binding = _
  rw [upd_get]
  split
  · next e => exact e ▸ h.bindings i
  · rfl

theorem CtlCalm.sameBindings {s t : State} (h : CtlCalm s t) : SameBindings s t := fun p i => by
  obtain ⟨-, -, -, -, -, hb⟩ := h.ctls p
  exact (hb i).1

theorem SameBindings.bindingLaw {s t : State} (h : SameBindings s t) (hs : s.bindingLaw) : t.bindingLaw := by
  intro p i j b c hb hc
  rw [h] at hb hc
  exact hs p i j b c hb hc

theorem State.setBinding_binding (s : State) (p q : PortId) (i j : SlotId) (b : Option Binding) :
    (s.setBinding p i b).ctls[q].slots[j].binding = if p = q ∧ i = j then b else s.ctls[q].slots[j].binding := by
  have hre (sl : Slot) : (sl.rebind b).binding = b := by
    unfold Slot.rebind
    split
    · assumption
    · rfl
  show (upd s.ctls p _)[q].slots[j].binding = _
  rw [upd_get]
  by_cases hp : p = q
  · rw [if_pos hp]
    show ((upd s.ctls[q].slots i fun sl => sl.rebind b)[j]).binding = _
    rw [upd_get]
    by_cases hi : i = j
    · rw [if_pos hi, if_pos ⟨hp, hi⟩, hre]
    · rw [if_neg hi, if_neg fun h => hi h.2]
  · rw [if_neg hp, if_neg fun h => hp h.1]

/-- An unbound slot, or one bound to a source that no other slot of its port has (R163 check 3). -/
theorem State.bindingLaw_setBinding {s : State} (hs : s.bindingLaw) (p : PortId) (i : SlotId) (b : Option Binding)
    (hb : ∀ x, b = some x → s.boundElsewhere p i x.source = false) : (s.setBinding p i b).bindingLaw := by
  have alone {j : SlotId} (hj : j ≠ i) {x c : Binding} (hx : b = some x) (hc : s.ctls[p].slots[j].binding = some c) :
      c.source ≠ x.source := fun e =>
    Bool.false_ne_true ((hb x hx).symm.trans ((s.boundElsewhere_iff p i x.source).2 ⟨j, c, hj, hc, e⟩))
  intro q j k x c hx hc e
  rw [State.setBinding_binding] at hx hc
  by_cases hp : p = q
  · subst hp
    by_cases hj : i = j
    · by_cases hk : i = k
      · exact hj.symm.trans hk
      · rw [if_pos ⟨rfl, hj⟩] at hx
        rw [if_neg fun h => hk h.2] at hc
        exact absurd e.symm (alone (Ne.symm hk) hx hc)
    · rw [if_neg fun h => hj h.2] at hx
      by_cases hk : i = k
      · rw [if_pos ⟨rfl, hk⟩] at hc
        exact absurd e (alone (Ne.symm hj) hc hx)
      · rw [if_neg fun h => hk h.2] at hc
        exact hs p j k x c hx hc e
  · rw [if_neg fun h => hp h.1] at hx hc
    exact hs q j k x c hx hc e

/-- A binding word that is accepted names a source that no other slot has (R163). -/
theorem State.checkBinding_some {s : State} {p : PortId} {i : SlotId} {v : Word} {x : Binding}
    (h : s.checkBinding p i v = .ok (some x)) : s.boundElsewhere p i x.source = false := by
  unfold State.checkBinding at h
  repeat' split at h
  · cases h
  · cases h
  · cases h
  · next hb =>
    cases h
    exact Bool.eq_false_iff.2 hb

theorem Quiet.bindingLaw {s t : State} (h : Quiet s t) (hs : s.bindingLaw) : t.bindingLaw :=
  h.calm.sameBindings.bindingLaw hs

theorem State.bindingLaw_writeBinding {s : State} (hs : s.bindingLaw) (p : PortId) (i : SlotId) (v : Word) :
    (s.writeBinding p i v).bindingLaw := by
  unfold State.writeBinding
  split
  · next hc => exact State.bindingLaw_setBinding hs p i _ fun x e => State.checkBinding_some (e ▸ hc)
  · exact ((Quiet.refl _).rejectTable _ _).bindingLaw (State.bindingLaw_setBinding hs p i none fun x e => nomatch e)

/-! ### What the table unit does to the controllers -/

theorem State.commitWin_ctlCalm (s : State) (w : WinId) (v : Word) : CtlCalm s (s.commitWin w v) := by
  have hreject (r : TableReason) : CtlCalm s ((s.modWin w (·.unstage)).rejectTable (winIndex w 3) r) :=
    (CtlCalm.same (t := s.modWin w (·.unstage))).trans ((Quiet.refl _).rejectTable _ r).calm.toCtlCalm
  unfold State.commitWin
  dsimp only
  repeat' split
  all_goals first | exact hreject _ | exact .same

theorem State.commitRing_ctlCalm (s : State) (r : RingId) (v : Word) : CtlCalm s (s.commitRing r v) := by
  have hreject (x : TableReason) : CtlCalm s ((s.modRec r (·.unstage)).rejectTable (ringIndex r 7) x) :=
    (CtlCalm.same (t := s.modRec r (·.unstage))).trans ((Quiet.refl _).rejectTable _ x).calm.toCtlCalm
  have hinstall (d : Vector Word 7) (en : Bool) : CtlCalm s (s.installRing r d en) :=
    ((Quiet.refl s).resetRing r).calm.toCtlCalm.trans .same
  unfold State.commitRing
  dsimp only
  repeat' split
  all_goals first | exact hreject _ | exact hinstall _ _

/-- A law that calm changes of the controllers keep, and bindings set or discarded, the table unit keeps. -/
theorem State.applyTable_keeps {P : State → Prop} (calm : ∀ s t, CtlCalm s t → P s → P t) {s : State} (hs : P s)
    (write : ∀ p i v, P (s.writeBinding p i v)) (k : TableWord) (v : Word) : P (s.applyTable k v) := by
  cases k with
  | winCtl w => exact calm s _ (s.commitWin_ctlCalm w v) hs
  | ringCtl r => exact calm s _ (s.commitRing_ctlCalm r v) hs
  | binding p i => exact write p i v
  | _ => exact calm s _ .same hs

theorem State.damageTable_keeps {P : State → Prop} (calm : ∀ s t, CtlCalm s t → P s → P t) {s : State} (hs : P s)
    (discard : ∀ p i, P (s.setBinding p i none)) (k : TableWord) : P (s.damageTable k) := by
  cases k with
  | binding p i => exact discard p i
  | _ => exact calm s _ .same hs

theorem State.reset_binding (p : PortId) (i : SlotId) : State.reset.ctls[p].slots[i].binding = none := by
  rw [State.reset_ctl, Controller.reset_slot]
  rfl

theorem State.bindingLaw_reset : State.reset.bindingLaw := fun p i j b c hb => by
  rw [State.reset_binding] at hb
  exact nomatch hb

theorem Move.bindingLaw {k : MoveKind} {s t : State} (m : Move k s t) (hs : s.bindingLaw) : t.bindingLaw := by
  have calm (s t : State) (h : CtlCalm s t) : s.bindingLaw → t.bindingLaw := h.sameBindings.bindingLaw
  cases m with
  | rise _ ctls => exact (SameBindings.of_eq ctls).bindingLaw hs
  | fall _ ports => exact (SameBindings.of_cleared fun q => (ports q).imp id (·.1)).bindingLaw hs
  | ended _ ctls => exact (SameBindings.of_eq ctls).bindingLaw hs
  | own _ use => exact use.sameBindings.bindingLaw hs
  | applied _ k v => exact State.applyTable_keeps calm hs (State.bindingLaw_writeBinding hs) k v
  | damaged _ k =>
    exact State.damageTable_keeps calm hs (fun p i => State.bindingLaw_setBinding hs p i none fun x e => nomatch e) k
  | reset _ _ ctls => exact (SameBindings.of_eq ctls).bindingLaw State.bindingLaw_reset

/-! ## O59 -/

/-- Settles O59: each law is kept by calm changes and by every kind of move. -/
theorem windowLawKept : Obligations.WindowLawKept := by
  intro s t h
  refine ⟨fun hr hm => ?_, ?_⟩
  · exact step_keeps (K := fun _ => True) (P := State.placeLaw) (fun _ _ => trivial) (fun _ _ c => c.sameLive.placeLaw)
      (fun _ _ _ _ m => m.placeLaw) (.inl trivial) h ⟨hr, hm⟩
  · exact step_keeps (K := fun _ => True) (P := State.bindingLaw) (fun _ _ => trivial)
      (fun _ _ c => c.sameBindings.bindingLaw) (fun _ _ _ _ m => m.bindingLaw) (.inl trivial) h

/-! ## The laws of ports that are not UP and of the in-service sets (R64, R51) -/

/-- Both laws of the notice controllers. -/
def State.controllerLaw (s : State) : Prop := s.noticeLaw ∧ s.inServiceLaw

/-- A delivery is latched only by a port that is UP, or as a TABLE event by P0 during the sweep (R37, R176). -/
theorem CtlCalm.controllerLaw {s t : State} (h : CtlCalm s t) (hs : s.controllerLaw) : t.controllerLaw := by
  obtain ⟨hn, hi⟩ := hs
  refine ⟨fun p hp => ?_, fun p => ?_⟩
  · rw [h.states p] at hp
    obtain ⟨-, -, hserv, -, -, hslots⟩ := h.ctls p
    obtain ⟨hempty, hlatched⟩ := hn p hp
    refine ⟨hserv.trans hempty, fun i hx => ?_⟩
    obtain ⟨hb, hsame | ⟨x, hbx, htakes⟩⟩ := hslots i
    · rw [hb, h.part]
      exact hlatched i (hsame ▸ hx)
    · rw [hb, h.part, hbx]
      unfold State.takesDelivery at htakes
      simp only [decide_eq_false hp, Bool.false_or, Bool.and_eq_true, decide_eq_true_eq] at htakes
      obtain ⟨⟨hp0, hsrc⟩, hpart⟩ := htakes
      exact ⟨hp0, hpart, congrArg some hsrc⟩
  · obtain ⟨-, -, hserv, -⟩ := h.ctls p
    rw [hserv]
    exact hi p

/-- A slot that takes a binding keeps its notice only with the binding it had (R59). -/
theorem State.controllerLaw_setBinding {s : State} (hs : s.controllerLaw) (p : PortId) (i : SlotId) (b : Option Binding) :
    (s.setBinding p i b).controllerLaw := by
  have hserv (q : PortId) : (s.setBinding p i b).ctls[q].inService = s.ctls[q].inService := by
    show ((upd s.ctls p _)[q]).inService = _
    rw [upd_get]
    split <;> rfl
  have hslot (q : PortId) (j : SlotId) : (s.setBinding p i b).ctls[q].slots[j] = s.ctls[q].slots[j] ∨
      (s.setBinding p i b).ctls[q].slots[j].notice = none := by
    show ((upd s.ctls p _)[q]).slots[j] = _ ∨ (((upd s.ctls p _)[q]).slots[j]).notice = none
    rw [upd_get]
    split
    · show (upd s.ctls[q].slots i _)[j] = _ ∨ ((upd s.ctls[q].slots i _)[j]).notice = none
      rw [upd_get]
      split
      · unfold Slot.rebind
        split
        · exact .inl rfl
        · exact .inr rfl
      · exact .inl rfl
    · exact .inl rfl
  obtain ⟨hn, hi⟩ := hs
  refine ⟨fun q hq => ⟨(hserv q).trans (hn q hq).1, fun j hx => ?_⟩, fun q => ?_⟩
  · rcases hslot q j with h | h
    · rw [h] at hx ⊢
      exact (hn q hq).2 j hx
    · rw [h] at hx
      exact nomatch hx
  · rw [hserv]
    exact hi q

theorem State.controllerLaw_writeBinding {s : State} (hs : s.controllerLaw) (p : PortId) (i : SlotId) (v : Word) :
    (s.writeBinding p i v).controllerLaw := by
  unfold State.writeBinding
  split
  · exact State.controllerLaw_setBinding hs p i _
  · exact ((Quiet.refl _).rejectTable _ _).calm.controllerLaw (State.controllerLaw_setBinding hs p i none)

/-- Port by port: the laws hold where each port is UP with a lawful in-service set, or is as it was, or has a cleared
controller. -/
theorem State.controllerLaw_of_ports {s t : State} (hs : s.controllerLaw)
    (h : ∀ q : PortId, t.ctls[q] = (s.ctls[q]).cleared ∨ t.ports[q].state = .up ∧ Falling t.ctls[q].inService ∨
      t.ctls[q] = s.ctls[q] ∧ t.part = s.part ∧ t.ports[q].state = s.ports[q].state) : t.controllerLaw := by
  obtain ⟨hn, hi⟩ := hs
  refine ⟨fun q hq => ?_, fun q => ?_⟩
  · rcases h q with hc | ⟨hup, -⟩ | ⟨hc, hpart, hst⟩
    · rw [hc]
      refine ⟨rfl, fun i hx => ?_⟩
      rw [Controller.cleared_slot] at hx
      exact nomatch hx
    · exact absurd hup hq
    · rw [hc, hpart]
      rw [hst] at hq
      exact hn q hq
  · rcases h q with hc | ⟨-, hf⟩ | ⟨hc, -⟩
    · rw [hc]
      exact .nil
    · exact hf
    · rw [hc]
      exact hi q

/-- Controllers at their power-on values are lawful, whatever the ports' states (R61). -/
theorem State.controllerLaw_of_reset {s : State} (h : s.ctls = State.reset.ctls) : s.controllerLaw := by
  have hc (q : PortId) : s.ctls[q] = Controller.reset := by rw [h, State.reset_ctl]
  refine ⟨fun q _ => ?_, fun q => ?_⟩ <;> rw [hc]
  · refine ⟨rfl, fun i hx => ?_⟩
    rw [Controller.reset_slot] at hx
    exact nomatch hx
  · exact .nil

/-- Every move but the end of a teardown at a port in any state keeps the laws of the controllers. -/
theorem Move.controllerLaw {k : MoveKind} {s t : State} (hk : k ≠ .ended) (m : Move k s t) (hs : s.controllerLaw) :
    t.controllerLaw := by
  have calm (s t : State) (h : CtlCalm s t) : s.controllerLaw → t.controllerLaw := h.controllerLaw
  have falling (q : PortId) : Falling s.ctls[q].inService := hs.2 q
  cases m with
  | rise _ ctls part states =>
    refine State.controllerLaw_of_ports hs fun q => .inr ?_
    rw [ctls]
    exact (states q).imp (fun up => ⟨up, falling q⟩) fun same => ⟨rfl, part, same⟩
  | fall _ ports =>
    refine State.controllerLaw_of_ports hs fun q => (ports q).imp id fun ⟨hc, h⟩ => ?_
    exact h.imp (fun up => ⟨up, hc ▸ falling q⟩) fun same => ⟨hc, same⟩
  | ended => exact absurd rfl hk
  | @own _ p f up use =>
    refine State.controllerLaw_of_ports hs fun q => .inr ?_
    show _ ∧ Falling (upd s.ctls p f)[q].inService ∨ (upd s.ctls p f)[q] = _ ∧ _
    rw [upd_get]
    split
    · next e => exact .inl ⟨e ▸ up, e ▸ use.falling (falling p)⟩
    · exact .inr ⟨rfl, rfl, rfl⟩
  | applied _ k v => exact State.applyTable_keeps calm hs (State.controllerLaw_writeBinding hs) k v
  | damaged _ k => exact State.damageTable_keeps calm hs (fun p i => State.controllerLaw_setBinding hs p i none) k
  | reset _ _ ctls => exact State.controllerLaw_of_reset ctls

/-! ## O60 -/

/-- Settles O60: a teardown that is in progress ends at a port that is DOWN, so that no port with a notice leaves UP uncleared. -/
theorem noticeLawKept : Obligations.NoticeLawKept := by
  intro s t hp hn hi h
  exact step_keeps (K := (· ≠ .ended)) (P := State.controllerLaw) (fun _ => id) (fun _ _ c => c.controllerLaw)
    (fun _ _ _ hk m => m.controllerLaw hk) (.inr fun p => (hp p).2) h ⟨hn, hi⟩

end Sys2Proof.Machine

/-! PROOFS. The frame of the shadow and of the controllers' own state (O22): which rows reach the table unit or a controller's own
words, and that the others are chains of calm changes and of ports that go UP. -/

namespace Sys2Proof.Machine

/-! ## Rows that reach the table unit or a controller's own words -/

/-- The rows by which P0 writes a word of the table area that the table unit takes up (Table 9-1). -/
def tableRow : Instr → Bool
  | .headerWrite _ _ => true
  | .windowDataWrite _ _ _ => true
  | .windowCommit _ _ => true
  | .ringDataWrite _ _ _ => true
  | .ringCommit _ _ => true
  | .leaseWrite _ _ => true
  | .bindingWrite _ _ _ => true
  | _ => false

/-- The rows by which a port uses its controller's own words, and DROP_PORT, which clears a controller. -/
def controllerRow : Instr → Bool
  | .take _ => true
  | .endSpecific _ _ => true
  | .endNonSpecific _ => true
  | .maskSet _ _ => true
  | .maskClear _ _ => true
  | .threshold _ _ => true
  | .dropPort _ _ => true
  | _ => false

/-- No write of P0 at the address is taken up by the table unit: it is memory alone there (R152). -/
def PlainAt (p : PortId) (d : Dir) (a : Addr) : Prop :=
  ∀ o, tableOffsetOf a = some o → d = .write → p = 0 → tableWordOf o = .plain

theorem PlainAt.of_none {p : PortId} {d : Dir} {a : Addr} (h : tableOffsetOf a = none) : PlainAt p d a :=
  fun _ ho => nomatch h.symm.trans ho

theorem PlainAt.read {p : PortId} {a : Addr} : PlainAt p .read a := fun _ _ h => nomatch h

theorem inSpan_lt {a : Addr} (h : inSpan a = true) : a.toNat < 0x3FDF0 := of_decide_eq_true h

theorem PlainAt.span {p : PortId} {d : Dir} {a : Addr} (h : inSpan a = true) : PlainAt p d a :=
  .of_none (tableOffsetOf_none (inSpan_lt h))

/-- A well-formed row that is neither a table write nor a cycle on an OFF port reaches no word of the shadow. -/
theorem plainAt_of_wellFormed {i : Instr} {p : PortId} {d : Dir} {a : Addr} {v : Word} (hw : i.wellFormed = true)
    (ht : tableRow i = false) (ho : ∀ p d a v, i ≠ .cycleHeldOnOffPort p d a v) (h : cycleOf i = some (p, d, a, v)) :
    PlainAt p d a := by
  cases i with
  | memoryWrite q b w =>
    cases h
    intro o hoff _ hp
    simp only [Instr.wellFormed, Bool.and_eq_true, hoff, Option.all_some, hp, tableRowOffset] at hw
    refine tableWordOf_plain ?_
    have hn := hw.2
    simp only [beq_self_eq_true, Bool.true_and, Bool.not_eq_true', Bool.or_eq_false_iff, decide_eq_false_iff_not,
      Bool.and_eq_false_imp, decide_eq_true_eq] at hn
    omega
  | readOnlyWordWrite q b w =>
    cases h
    simp only [Instr.wellFormed] at hw
    split at hw
    · next k hk =>
      refine .of_none (if_neg fun hb => ?_)
      rw [portWordOf_none (.inr hb)] at hk
      exact nomatch hk
    · exact .span hw
  | cycleHeldOnOffPort q e b w => exact absurd rfl (ho q e b w)
  | headerWrite | windowDataWrite | windowCommit | ringDataWrite | ringCommit | leaseWrite | bindingWrite => exact nomatch ht
  | memoryRead | take | peek | refusalBRead | identRead | faultBRead | writeOnlyWordRead | ringTake | freeCountRead | lockTry
  | lockWait =>
    cases h
    exact .read
  | endSpecific | endNonSpecific | pendClear | maskSet | maskClear | threshold | signal | dropPort | ringReset | lockFree
  | clearFault =>
    cases h
    exact .of_none rfl
  | ringPost | lockWrite | channelFieldWrite | channelStart | channelAbort =>
    cases h
    exact .span hw
  | _ => cases h

/-- The port-window cycles that use a controller's own words, or clear a controller (Table 2-1). -/
def OwnWord (d : Dir) (k : Fin 16) (v : Word) : Prop :=
  match d with
  | .read => k = 0
  | .write => k.val ∈ [2, 6, 7, 8] ∨ k = 13 ∧ ∃ n, controlOf v = some (.dropPort n)

/-- Every other cycle of the port window is calm. -/
theorem Calm.portWindow {s : State} {p : PortId} (up : s.ports[p].state = .up) {k : Fin 16} {d : Dir} {v : Word}
    (h : ¬OwnWord d k v) : Calm s (s.portWindow p k d v) := by
  have refused (r : Reason) : Calm s (s.refuse p r) := ((Quiet.refl s).refuse p r).calm
  unfold State.portWindow
  cases d with
  | read =>
    dsimp only
    repeat' split
    · exact refused _
    · exact refused _
    · exact Calm.readPortWord s p h
  | write =>
    have hval {n : Nat} (e : k.val = n) (hn : n ∈ [2, 6, 7, 8]) : False := h (.inl (e ▸ hn))
    dsimp only
    split
    · exact refused _
    · split
      · exact refused _
      · unfold State.writePortWord
        split
        case h_1 e => exact (hval e (by decide)).elim
        case h_2 => exact Calm.writePending up v
        case h_3 e => exact (hval e (by decide)).elim
        case h_4 e => exact (hval e (by decide)).elim
        case h_5 e => exact (hval e (by decide)).elim
        case h_6 => exact Calm.writeSignal s p v
        case h_7 e => exact Calm.writeControl s p fun n hn => h (.inr ⟨Fin.ext e, n, hn⟩)
        case h_8 => exact refused _

/-- A word that names DROP_PORT is one of Table 2-2. -/
theorem controlListed_of_dropPort {v : Word} {n : PortId} (h : controlOf v = some (.dropPort n)) : controlListed v = true := by
  unfold controlOf at h
  unfold controlListed
  dsimp only at h ⊢
  split at h
  · next e =>
    split at h
    · next hn => simp [e, hn]
    · cases h
  all_goals first | (split at h <;> cases h) | cases h

theorem controlOf_ringReset (r : RingId) : controlOf (Control.ringReset r).word = some (.ringReset r) := by
  revert r
  decide

/-- A well-formed row that uses no controller's own words reaches none. -/
theorem not_ownWord_of_wellFormed {i : Instr} {p : PortId} {d : Dir} {a : Addr} {v : Word} (hw : i.wellFormed = true)
    (ht : tableRow i = false) (hc : controllerRow i = false) (ho : ∀ p d a v, i ≠ .cycleHeldOnOffPort p d a v)
    (h : cycleOf i = some (p, d, a, v)) {k : Fin 16} (hk : portWordOf a = some k) : ¬OwnWord d k v := by
  have span {b : Addr} (hb : inSpan b = true) (e : portWordOf b = some k) : False := by
    rw [portWordOf_none (.inl (inSpan_lt hb))] at e
    exact nomatch e
  have word {b : Addr} {n : Fin 16} (hb : portWordOf b = some k) (e : b.toNat = 0x3FDF0 + n.val) : k = n :=
    Option.some.inj (hb.symm.trans (portWordOf_some n e))
  have writable : k.val ∈ [2, 6, 7, 8] → writeRowWords.contains k = false → False := by
    clear * -
    revert k
    decide
  have shown {n : Fin 16} (e : k = n) (hn : n ≠ 0) : ¬OwnWord .read k v := fun h => hn (e.symm.trans h)
  have written {n : Fin 16} (e : k = n) (hn : n.val ∉ [2, 6, 7, 8] ∧ n ≠ 13) : ¬OwnWord .write k v := by
    subst e
    rintro (hm | ⟨h13, -⟩)
    · exact hn.1 hm
    · exact hn.2 h13
  have control {c : Control} (hcw : controlOf v = some c) (hd : ∀ n, c ≠ .dropPort n) (e : k = 13) : ¬OwnWord .write k v := by
    subst e
    rintro (hm | ⟨-, n, hn⟩)
    · exact absurd hm (by decide)
    · exact hd n (Option.some.inj (hcw.symm.trans hn))
  cases i with
  | memoryRead q b =>
    cases h
    rintro rfl
    simp only [Instr.wellFormed, hk] at hw
    exact nomatch hw
  | memoryWrite q b w =>
    cases h
    simp only [Instr.wellFormed, hk] at hw
    exact nomatch hw
  | readOnlyWordWrite q b w =>
    cases h
    simp only [Instr.wellFormed, hk, Bool.or_eq_true, Bool.and_eq_true, Bool.not_eq_true', beq_iff_eq] at hw
    rintro (hm | ⟨rfl, n, hn⟩)
    · rcases hw with hw | hw
      · exact writable hm hw
      · rw [hw.1] at hm
        exact absurd hm (by decide)
    · rcases hw with hw | hw
      · exact nomatch hw
      · exact Bool.false_ne_true (hw.2.symm.trans (controlListed_of_dropPort hn))
  | writeOnlyWordRead q b =>
    cases h
    rintro rfl
    simp [Instr.wellFormed, hk] at hw
  | ringReset q r =>
    cases h
    exact control (c := .ringReset r) (controlOf_ringReset r) (fun n e => nomatch e) (word hk rfl)
  | lockFree q l =>
    cases h
    exact control (c := .lockFree l) (controlOf_lockFree l) (fun n e => nomatch e) (word hk rfl)
  | clearFault q =>
    cases h
    exact control (c := .clearFault) (by decide) (fun n e => nomatch e) (word hk rfl)
  | cycleHeldOnOffPort q e b w => exact absurd rfl (ho q e b w)
  | take | endSpecific | endNonSpecific | maskSet | maskClear | threshold | dropPort => exact nomatch hc
  | headerWrite | windowDataWrite | windowCommit | ringDataWrite | ringCommit | leaseWrite | bindingWrite => exact nomatch ht
  | peek => cases h; exact shown (n := 1) (word hk rfl) (by decide)
  | refusalBRead => cases h; exact shown (n := 11) (word hk rfl) (by decide)
  | identRead => cases h; exact shown (n := 12) (word hk rfl) (by decide)
  | faultBRead => cases h; exact shown (n := 15) (word hk rfl) (by decide)
  | pendClear => cases h; exact written (n := 4) (word hk rfl) (by decide)
  | signal => cases h; exact written (n := 9) (word hk rfl) (by decide)
  | ringPost | ringTake | freeCountRead | lockTry | lockWait | lockWrite | channelFieldWrite | channelStart | channelAbort =>
    cases h
    exact (span hw hk).elim
  | _ => cases h

/-! ## The frames -/

theorem sameShadow.trans {s t u : State} (h : sameShadow s t) (k : sameShadow t u) : sameShadow s u := by
  obtain ⟨hh, hw, hr, hl, hb⟩ := h
  obtain ⟨kh, kw, kr, kl, kb⟩ := k
  exact ⟨kh.trans hh, kw.trans hw, kr.trans hr, kl.trans hl, SameBindings.trans hb kb⟩

theorem SameTable.sameShadow {s t : State} (h : SameTable s t) (hb : SameBindings s t) : sameShadow s t := by
  obtain ⟨hh, hw, hr, hl⟩ := h
  exact ⟨hh, hw, hr, hl, hb⟩

/-- No move but the table unit's and a part reset changes the shadow (R151). -/
theorem Move.sameShadow {k : MoveKind} {s t : State} (m : Move k s t) (hk : k ≠ .table ∧ k ≠ .reset) : sameShadow s t := by
  cases m with
  | rise table ctls => exact table.sameShadow (.of_eq ctls)
  | fall table ports => exact table.sameShadow (.of_cleared fun q => (ports q).imp id (·.1))
  | ended table ctls => exact table.sameShadow (.of_eq ctls)
  | own _ use => exact SameTable.sameShadow ⟨rfl, rfl, rfl, rfl⟩ use.sameBindings
  | applied => exact absurd rfl hk.1
  | damaged => exact absurd rfl hk.1
  | reset => exact absurd rfl hk.2

/-- Every mask, threshold, in-service set, rotation pointer and taken record is the same (R35). -/
def SameSettings (s t : State) : Prop :=
  ∀ p : PortId, t.ctls[p].mask = s.ctls[p].mask ∧ t.ctls[p].threshold = s.ctls[p].threshold ∧
    t.ctls[p].inService = s.ctls[p].inService ∧ t.ctls[p].rotation = s.ctls[p].rotation ∧
    t.ctls[p].taken = s.ctls[p].taken

theorem SameSettings.trans {s t u : State} (h : SameSettings s t) (k : SameSettings t u) : SameSettings s u := fun p => by
  obtain ⟨h1, h2, h3, h4, h5⟩ := h p
  obtain ⟨k1, k2, k3, k4, k5⟩ := k p
  exact ⟨k1.trans h1, k2.trans h2, k3.trans h3, k4.trans h4, k5.trans h5⟩

theorem SameSettings.of_eq {s t : State} (h : t.ctls = s.ctls) : SameSettings s t := fun p => by
  rw [h]
  exact ⟨rfl, rfl, rfl, rfl, rfl⟩

theorem CtlCalm.sameSettings {s t : State} (h : CtlCalm s t) : SameSettings s t := fun p => by
  obtain ⟨h1, h2, h3, h4, h5, -⟩ := h.ctls p
  exact ⟨h1, h2, h3, h4, h5⟩

/-- Chains of these kinds leave the shadow (R151). -/
theorem Chain.sameShadow {s t : State} (h : Chain (fun k => k ≠ .table ∧ k ≠ .reset) s t) : sameShadow s t :=
  h.keeps (P := Machine.sameShadow s) (fun _ _ c k => k.trans (c.table.sameShadow c.sameBindings))
    (fun _ _ _ hk m k => k.trans (m.sameShadow hk)) (SameTable.sameShadow ⟨rfl, rfl, rfl, rfl⟩ fun _ _ => rfl)

/-- Ports that go UP and teardowns that end leave the controllers' own state (R35). -/
theorem Chain.sameSettings {s t : State} (h : Chain (fun k => k = .rise ∨ k = .ended) s t) : SameSettings s t := by
  refine h.keeps (P := SameSettings s) (fun _ _ c k => k.trans c.sameSettings) (fun _ _ _ hk m k => k.trans ?_) (.of_eq rfl)
  cases m with
  | rise _ ctls => exact .of_eq ctls
  | ended _ ctls => exact .of_eq ctls
  | _ => rcases hk with e | e <;> cases e

/-- A row whose cycle finds plain memory at the table area is a chain of what it does at the port window. -/
theorem exec_chain_of_row {K : MoveKind → Prop} {i : Instr} {p : PortId} {d : Dir} {a : Addr} {v : Word} {s t : State}
    (h : exec i s = .next t) (hcy : cycleOf i = some (p, d, a, v)) (hp : PlainAt p d a)
    (hw : ∀ (k : Fin 16) (u : State), portWordOf a = some k → u.ports[p].state = .up → Chain K u (u.portWindow p k d v)) :
    Chain K s t := by
  rw [exec_of_cycleOf hcy] at h
  cases h
  exact (Chain.refl K s).presentBy fun k up => k.arriveBy (fun w e => k.trans (hw w _ e up)) (.inr hp)

/-- Settles O22: a row is a chain of what its cycle does at the port window, and another command one of calm changes and of ports
that go UP or, at PORT_RESET, DOWN. -/
theorem configurationFrame : Obligations.ConfigurationFrame := by
  intro i s t h hwf h1 h2 h3 h4 h5 h6 h7 hlow hrst hcold hsweep hoff hx
  have htab : tableRow i = false := by
    cases i <;> first
      | rfl | exact absurd rfl (h1 _ _) | exact absurd rfl (h2 _ _ _) | exact absurd rfl (h3 _ _)
      | exact absurd rfl (h4 _ _ _) | exact absurd rfl (h5 _ _) | exact absurd rfl (h6 _ _) | exact absurd rfl (h7 _ _ _)
  have event {K : MoveKind → Prop} (hr : K .rise) (he : K .ended) (hcy : cycleOf i = none) (hp : ∀ p, i ≠ .portReset p) :
      Chain K s t :=
    exec_chain_of_event hr h hcy (.inl hx) hlow hrst hcold hsweep hp (.inl he)
  refine ⟨Chain.sameShadow ?_, fun g1 g2 g3 g4 g5 g6 g7 g8 => Chain.sameSettings ?_⟩
  · cases hcy : cycleOf i with
    | some x =>
      obtain ⟨p, d, a, v⟩ := x
      refine exec_chain_of_row h hcy (plainAt_of_wellFormed hwf htab hoff hcy) fun k u _ up => ?_
      exact (Chain.refl _ u).portWindow ⟨nofun, nofun⟩ ⟨nofun, nofun⟩ ⟨nofun, nofun⟩ up k d v
    | none =>
      by_cases hp : ∃ p, i = .portReset p
      · obtain ⟨p, rfl⟩ := hp
        cases h
        exact Chain.prstnFalls ⟨nofun, nofun⟩ ⟨nofun, nofun⟩ (.refl _ s) p
      · exact event ⟨nofun, nofun⟩ ⟨nofun, nofun⟩ hcy fun p e => hp ⟨p, e⟩
  · have hctl : controllerRow i = false := by
      cases i <;> first
        | rfl | exact absurd rfl (g1 _) | exact absurd rfl (g2 _ _) | exact absurd rfl (g3 _) | exact absurd rfl (g4 _ _)
        | exact absurd rfl (g5 _ _) | exact absurd rfl (g6 _ _) | exact absurd rfl (g7 _ _)
    cases hcy : cycleOf i with
    | some x =>
      obtain ⟨p, d, a, v⟩ := x
      refine exec_chain_of_row h hcy (plainAt_of_wellFormed hwf htab hoff hcy) fun k u hk up => ?_
      exact (Calm.portWindow up (not_ownWord_of_wellFormed hwf htab hctl hoff hcy hk)).chain _
    | none => exact event (.inl rfl) (.inr rfl) hcy g8

end Sys2Proof.Machine

/-! PROOFS. The notice controllers: pending and eligible slots and the selection (O23), TAKE and PEEK (O24 to O26), the writes of
a controller's words (O27) and deliveries (O28). -/

namespace Sys2Proof.Machine

/-! ## Pending slots (R38 to R40) -/

theorem State.slotPending_unbound {s : State} {p : PortId} {i : SlotId} (h : s.ctls[p].slots[i].binding = none) :
    s.slotPending p i = false := by
  unfold State.slotPending
  rw [h]

theorem State.slotPending_level {s : State} {p : PortId} {i : SlotId} {b : Binding} {r : RingId}
    (h : s.ctls[p].slots[i].binding = some b) (hb : b.source = .ringData r) : s.slotPending p i = true ↔
      s.ports[p].state = .up ∧ s.recs[r].consumer = p ∧ s.recs[r].enable = true ∧ s.recs[r].watermark ≤ s.rings[r].count := by
  unfold State.slotPending State.dataCond
  simp only [h, hb, Bool.and_eq_true, decide_eq_true_eq, and_assoc]

/-- A latched slot is pending exactly while it holds a notice. -/
theorem State.slotPending_latched {s : State} {p : PortId} {i : SlotId} {b : Binding}
    (h : s.ctls[p].slots[i].binding = some b) (hb : ∀ r : RingId, b.source ≠ .ringData r) :
    s.slotPending p i = s.ctls[p].slots[i].notice.isSome := by
  unfold State.slotPending
  rw [h]
  dsimp only
  split
  · next r e => exact absurd e (hb r)
  · rfl

/-- PNTFN (R44). -/
theorem State.pntfn_iff (s : State) (p : PortId) :
    s.pntfn p = true ↔ s.ports[p].state = .up ∧ ∃ i : SlotId, s.eligible p i = true := by
  unfold State.pntfn
  simp only [Bool.and_eq_true, decide_eq_true_eq, List.any_eq_true, mem_allSlots, true_and]

/-! ## The selection (R45) -/

/-- In a list that rises by rank, a search finds the member of the lowest rank that passes. -/
theorem find?_lowest {α : Type} {rank : α → Nat} {test : α → Bool} {a : α} : ∀ {l : List α},
    l.Pairwise (fun x y => rank x < rank y) → l.find? test = some a → ∀ b ∈ l, test b = true → rank a ≤ rank b
  | [], _, h, _, _, _ => nomatch h
  | x :: l, hl, h, b, hb, ht => by
    obtain ⟨hx, hl⟩ := List.pairwise_cons.1 hl
    rw [List.find?_cons] at h
    split at h
    · cases h
      rcases List.mem_cons.1 hb with rfl | hb
      · exact le_refl _
      · exact (hx b hb).le
    · next hxt =>
      rcases List.mem_cons.1 hb with rfl | hb
      · exact absurd ht (Bool.eq_false_iff.1 hxt)
      · exact find?_lowest hl h b hb ht

/-- The first answer of searches one after another comes from the lowest member whose search answers. -/
theorem findSome?_lowest {α β : Type} {rank : α → Nat} {f : α → Option β} {b : β} : ∀ {l : List α},
    l.Pairwise (fun x y => rank x < rank y) → l.findSome? f = some b →
      ∃ a, f a = some b ∧ ∀ x ∈ l, f x ≠ none → rank a ≤ rank x
  | [], _, h => nomatch h
  | y :: l, hl, h => by
    obtain ⟨hy, hl⟩ := List.pairwise_cons.1 hl
    rw [List.findSome?_cons] at h
    split at h
    · next c hc =>
      cases h
      refine ⟨y, hc, fun x hx _ => ?_⟩
      rcases List.mem_cons.1 hx with rfl | hx
      · exact le_refl _
      · exact (hy x hx).le
    · next hn =>
      obtain ⟨a, ha, hlow⟩ := findSome?_lowest hl h
      refine ⟨a, ha, fun x hx hne => ?_⟩
      rcases List.mem_cons.1 hx with rfl | hx
      · exact absurd hn hne
      · exact hlow x hx hne

/-- The search reaches the slots in the order of their ranks, each of them. -/
theorem State.searchOrder_rises (s : State) (p : PortId) :
    (s.searchOrder p).Pairwise (fun i j => s.searchRank p i < s.searchRank p j) ∧ ∀ i : SlotId, i ∈ s.searchOrder p := by
  have hrank (r k : Fin 16) : ((r + 1 + k).val + 15 - r.val) % 16 = k.val := by revert r k; decide
  have hmem (r i : Fin 16) : i ∈ allSlots.map fun k => r + 1 + k := by revert r i; decide
  have hrise : allSlots.Pairwise fun i j => i.val < j.val := by decide
  unfold State.searchOrder State.searchRank
  split
  · refine ⟨List.pairwise_map.2 (hrise.imp fun h => ?_), hmem _⟩
    rw [hrank, hrank]
    exact h
  · exact ⟨hrise, mem_allSlots⟩

/-- Slots of one rank are one. -/
theorem State.searchRank_injective (s : State) (p : PortId) {i j : SlotId} (h : s.searchRank p i = s.searchRank p j) :
    i = j := by
  have hrot (r i j : Fin 16) (h : (i.val + 15 - r.val) % 16 = (j.val + 15 - r.val) % 16) : i = j := by omega
  unfold State.searchRank at h
  split at h
  · exact hrot _ i j h
  · exact Fin.ext h

theorem State.slotLevel_lt {s : State} {p : PortId} {i : SlotId} (h : s.eligible p i = true) : s.slotLevel p i < 4 := by
  obtain ⟨b, hb, -⟩ := (s.eligible_iff p i).1 h
  unfold State.slotLevel
  rw [hb]
  exact b.level.isLt

/-- The selected slot is the first in the order of level and search (R45). -/
theorem State.selected_lowest {s : State} {p : PortId} {i : SlotId} (h : s.selected p = some i) {j : SlotId}
    (hj : s.eligible p j = true) : s.slotLevel p i < s.slotLevel p j ∨
      s.slotLevel p i = s.slotLevel p j ∧ s.searchRank p i ≤ s.searchRank p j := by
  obtain ⟨hrise, hmem⟩ := s.searchOrder_rises p
  have hlevels : [(0 : Level), 1, 2, 3].Pairwise (fun x y => x.val < y.val) := by decide
  have hall (l : Level) : l ∈ [(0 : Level), 1, 2, 3] := by revert l; decide
  unfold State.selected at h
  obtain ⟨l, hl, hlow⟩ := findSome?_lowest hlevels h
  have hat {k : Level} (e : k.val = s.slotLevel p j) : s.eligibleAt p k j = true := (s.eligibleAt_iff p k j).2 ⟨hj, e.symm⟩
  have hi : s.slotLevel p i = l.val := ((s.eligibleAt_iff p l i).1 (List.find?_some hl)).2
  have hle : l.val ≤ s.slotLevel p j := by
    refine hlow ⟨s.slotLevel p j, State.slotLevel_lt hj⟩ (hall _) fun hn => ?_
    exact absurd (hat rfl) (List.find?_eq_none.1 hn j (hmem j))
  rcases Nat.lt_or_eq_of_le hle with hlt | heq
  · exact .inl (hi ▸ hlt)
  · exact .inr ⟨hi.trans heq, find?_lowest hrise hl j (hmem j) (hat heq)⟩

/-- Where a slot is eligible one is selected. -/
theorem State.selected_isSome {s : State} {p : PortId} {i : SlotId} (h : s.eligible p i = true) :
    ∃ k, s.selected p = some k := by
  have hall (l : Level) : l ∈ [(0 : Level), 1, 2, 3] := by revert l; decide
  rw [← Option.isSome_iff_exists]
  unfold State.selected
  rw [List.findSome?_isSome_iff]
  refine ⟨⟨s.slotLevel p i, State.slotLevel_lt h⟩, hall _, ?_⟩
  rw [List.find?_isSome]
  exact ⟨i, (s.searchOrder_rises p).2 i, (s.eligibleAt_iff p _ i).2 ⟨h, rfl⟩⟩

theorem State.selected_none {s : State} {p : PortId} (h : ∀ i : SlotId, s.eligible p i = false) : s.selected p = none := by
  cases hs : s.selected p with
  | none => rfl
  | some i => exact absurd ((h i).symm.trans (State.selected_eligible hs)) Bool.false_ne_true

/-- The selection is the only eligible slot that is first in the order of level and search. -/
theorem State.selected_iff (s : State) (p : PortId) (i : SlotId) : s.selected p = some i ↔
    s.eligible p i = true ∧ ∀ j : SlotId, s.eligible p j = true →
      s.slotLevel p i < s.slotLevel p j ∨ s.slotLevel p i = s.slotLevel p j ∧ s.searchRank p i ≤ s.searchRank p j := by
  refine ⟨fun h => ⟨State.selected_eligible h, fun j hj => State.selected_lowest h hj⟩, fun ⟨hi, hlow⟩ => ?_⟩
  obtain ⟨k, hk⟩ := State.selected_isSome hi
  have hik := hlow k (State.selected_eligible hk)
  have hki := State.selected_lowest hk hi
  have e : s.searchRank p k = s.searchRank p i := by omega
  rw [hk, s.searchRank_injective p e]

/-- Settles O23: each condition by the lemma about its function. -/
theorem eligibleSlots : Obligations.EligibleSlots := by
  refine ⟨fun s p => ⟨s.eligible_iff p, fun i r l h => State.slotPending_level h rfl, fun i b h hb => ?_,
    fun i => State.slotPending_unbound, s.pntfn_iff p⟩, State.selected_iff⟩
  rw [State.slotPending_latched h hb]
  exact Option.isSome_iff_exists

/-! ## TAKE and PEEK -/

section
variable (s : State) (p : PortId) (d : Dir) (a : Addr) (v : Word)

theorem State.eligible_taking (q : PortId) (i : SlotId) : (s.taking p d a v).eligible q i = s.eligible q i := by
  unfold State.eligible
  rw [State.slotPending_taking]
  rfl

theorem State.selected_taking (q : PortId) : (s.taking p d a v).selected q = s.selected q := by
  have h : (s.taking p d a v).eligibleAt q = s.eligibleAt q := by
    funext l i
    unfold State.eligibleAt
    rw [State.eligible_taking]
    rfl
  unfold State.selected
  rw [h]
  rfl

theorem State.takeAnswer_taking (q : PortId) : (s.taking p d a v).takeAnswer q = s.takeAnswer q := by
  unfold State.takeAnswer
  rw [State.selected_taking]
  rfl

/-- TAKE's change of the controller looks at no cycle. -/
theorem State.takeNotice_taking (q : PortId) : (s.taking p d a v).takeNotice q = (s.takeNotice q).taking p d a v := by
  unfold State.takeNotice
  rw [State.selected_taking]
  cases s.selected q with
  | none => rfl
  | some i =>
    show (match s.ctls[q].slots[i].binding with | some b => _ | none => _) = _
    dsimp only
    cases s.ctls[q].slots[i].binding <;> rfl

end

/-- A ready port's TAKE changes its controller and answers (R46, R47). -/
theorem exec_take {s : State} {p : PortId} (r : s.ready p) :
    exec (.take p) s = .next ((s.takeNotice p).answered p (s.takeAnswer p)) := by
  rw [exec_portWord r rfl 0 rfl, State.portWindow_read _ _ rfl (.inl rfl)]
  show Host.Outcome.next (State.readTake p _) = _
  unfold State.readTake
  rw [State.takeNotice_taking, State.takeAnswer_taking, State.completeRead_accept]

/-- A ready port's PEEK answers with TAKE's word (R49). -/
theorem exec_peek {s : State} {p : PortId} (r : s.ready p) : exec (.peek p) s = .next (s.answered p (s.takeAnswer p)) := by
  refine exec_read_shows r rfl 1 rfl rfl (.inl rfl) ?_
  show State.readPeek p _ = _
  unfold State.readPeek
  rw [State.takeAnswer_taking]

theorem State.takeNotice_some {s : State} {p : PortId} {i : SlotId} {b : Binding} (h : s.selected p = some i)
    (hb : s.ctls[p].slots[i].binding = some b) :
    s.takeNotice p = s.modCtl p fun k => k.accept i b (s.takenDetail p i b.source) (s.autoEnd p) := by
  unfold State.takeNotice
  rw [h]
  dsimp only
  rw [hb]

theorem State.takeAnswer_some {s : State} {p : PortId} {i : SlotId} {b : Binding} (h : s.selected p = some i)
    (hb : s.ctls[p].slots[i].binding = some b) : s.takeAnswer p = takeWord i b.level (s.slotRepeated p i) b.source := by
  unfold State.takeAnswer
  rw [h]
  dsimp only
  rw [hb]

/-- The repeated flag of a bound slot: none of a level slot (R39), else the notice's. -/
theorem State.slotRepeated_bound {s : State} {p : PortId} {i : SlotId} {b : Binding}
    (hb : s.ctls[p].slots[i].binding = some b) :
    s.slotRepeated p i = (!b.source.isLevel && s.ctls[p].slots[i].notice.any (·.repeated)) := by
  unfold State.slotRepeated
  rw [hb]

/-- Settles O24: the change by `State.takeNotice_some`, the word by `State.takeAnswer_some`. -/
theorem takeSelects : Obligations.TakeSelects := by
  intro s p i b r h hb
  have hword : s.takeAnswer p = BitVec.ofNat 16 (i.val + 16 * b.level.val + (match b.source, s.ctls[p].slots[i].notice with
      | .ringData _, _ => 0
      | _, some n => if n.repeated then 128 else 0
      | _, none => 0) + 256 * b.source.code) := by
    rw [State.takeAnswer_some h hb, State.slotRepeated_bound hb]
    unfold takeWord
    congr 3
    cases hn : s.ctls[p].slots[i].notice <;> cases b.source <;> rfl
  rw [exec_take r, State.takeNotice_some h hb, hword]
  rfl

/-- The kind codes are below 16, so that no word of TAKE is NONE (R47). -/
theorem takeWord_getLsbD_15 (i : SlotId) (l : Level) (x : Bool) (src : Source) :
    (takeWord i l x src).getLsbD 15 = false := by
  have hc : src.code ≤ 12 := by cases src <;> simp only [Source.code] <;> omega
  have hi := i.isLt
  have hl := l.isLt
  have hx : (if x then 128 else 0) ≤ 128 := by cases x <;> decide
  unfold takeWord
  rw [BitVec.getLsbD_ofNat, Nat.testBit_lt_two_pow (by omega), Bool.and_false]

/-- Settles O25: with no slot eligible none is selected. -/
theorem takeNone : Obligations.TakeNone := by
  refine ⟨fun s p r h => ?_, takeWord_getLsbD_15⟩
  have hn := State.selected_none h
  have h1 : s.takeNotice p = s := by
    unfold State.takeNotice
    rw [hn]
  have h2 : s.takeAnswer p = 0x8000#16 := by
    unfold State.takeAnswer
    rw [hn]
    rfl
  rw [exec_take r, h1, h2]

/-- Settles O26: both answer with `State.takeAnswer`. -/
theorem peekAsTake : Obligations.PeekAsTake := by
  intro s p r
  refine ⟨s.takeAnswer p, _, exec_take r, ?_, exec_peek r⟩
  unfold State.answered
  rw [State.modPort_port_same]
  rfl

/-! ## The writes of a controller's words -/

/-- A permitted write of a word that is taken up as `u` and completes. -/
theorem exec_write_completes {i : Instr} {p : PortId} {a : Addr} {v : Word} {s u : State} (r : s.ready p)
    (h : cycleOf i = some (p, .write, a, v)) (k : Fin 16) (ha : a.toNat = 0x3FDF0 + k.val) (hk : portWritable k = true)
    (hs : supervisorWord k = false)
    (hw : (s.taking p .write a v).writePortWord p k v = (u.taking p .write a v).completeWrite p) :
    exec i s = .next (u.written p) := by
  rw [exec_portWord r h k ha, State.portWindow_write _ _ hk (.inl hs), hw, State.completeWrite_accept]

/-- A permitted write of a word whose value is refused. -/
theorem exec_write_badValue {i : Instr} {p : PortId} {a : Addr} {v : Word} {s : State} (r : s.ready p)
    (h : cycleOf i = some (p, .write, a, v)) (k : Fin 16) (ha : a.toNat = 0x3FDF0 + k.val) (hk : portWritable k = true)
    (hs : supervisorWord k = false) {e : Reason}
    (hw : (s.taking p .write a v).writePortWord p k v = (s.taking p .write a v).refuse p e) :
    exec i s = .next (s.refusedOn p .write a e) := by
  rw [exec_portWord r h k ha, State.portWindow_write _ _ hk (.inl hs), hw, State.refuse_accept]

/-- PEND_CLEAR, as one table of slots (R40). -/
theorem clearMarked_eq (v : Word) (slots : Vector Slot 16) : clearMarked v slots = Vector.ofFn fun i : SlotId =>
    if v.getLsbD i.val then
      (match slots[i].binding with
       | some b => if b.source.isLevel then slots[i] else { slots[i] with notice := none }
       | none => slots[i])
    else slots[i] := by
  apply Vector.ext
  intro j hj
  rw [Vector.getElem_ofFn]
  exact clearMarked_get v slots ⟨j, hj⟩

theorem State.writeThreshold_listed (s : State) (p : PortId) {v : Word} (n : Fin 5) (h : v.toNat = n.val) :
    s.writeThreshold p v = (s.modCtl p fun k => { k with threshold := n }).completeWrite p := by
  have hv : v.toNat < 5 := h ▸ n.isLt
  have e : (⟨v.toNat, hv⟩ : Fin 5) = n := Fin.ext h
  unfold State.writeThreshold
  rw [dif_pos hv, e]

theorem State.writeThreshold_refused (s : State) (p : PortId) {v : Word} (h : 5 ≤ v.toNat) :
    s.writeThreshold p v = s.refuse p .badValue := dif_neg (Nat.not_lt.2 h)

/-- An END value below 16 names a slot (R52). -/
theorem State.writeEnd_slot (s : State) (p : PortId) {v : Word} (h : v.toNat < 16) :
    s.writeEnd p v = s.endSlot p ⟨v.toNat, h⟩ := by
  have hne : v ≠ 0xFFFF#16 := by
    rintro rfl
    exact absurd h (by decide)
  unfold State.writeEnd
  rw [if_neg hne, dif_pos h]

theorem State.writeEnd_refused (s : State) (p : PortId) {v : Word} (h : 16 ≤ v.toNat) (hne : v ≠ 0xFFFF#16) :
    s.writeEnd p v = s.refuse p .badValue := by
  unfold State.writeEnd
  rw [if_neg hne, dif_neg (Nat.not_lt.2 h)]

theorem State.writeEnd_urgent (s : State) (p : PortId) : s.writeEnd p 0xFFFF#16 = s.endUrgent p := if_pos rfl

theorem State.endSlot_inService {s : State} {p : PortId} {i : SlotId} (h : ∃ e ∈ s.ctls[p].inService, e.slot = i) :
    s.endSlot p i =
      (s.modCtl p fun k => { k with inService := k.inService.filter fun e => decide (e.slot ≠ i) }).completeWrite p := by
  refine if_pos (List.any_eq_true.2 ?_)
  obtain ⟨e, he, hs⟩ := h
  exact ⟨e, he, decide_eq_true hs⟩

theorem State.endSlot_refused {s : State} {p : PortId} {i : SlotId} (h : ∀ e ∈ s.ctls[p].inService, e.slot ≠ i) :
    s.endSlot p i = s.refuse p .endNotInService := by
  refine if_neg fun ha => ?_
  obtain ⟨e, he, hs⟩ := List.any_eq_true.1 ha
  exact h e he (of_decide_eq_true hs)

/-- The entry whose level is below all the others' is the one that a non-specific end removes (R53). -/
theorem mostUrgent_of_lowest {es : List InService} {x : InService} (hx : x ∈ es)
    (hlow : ∀ e ∈ es, e ≠ x → x.level < e.level) : mostUrgent es = some x := by
  have hlevels : [(0 : Level), 1, 2, 3].Pairwise (fun a b => a.val < b.val) := by decide
  have hall (l : Level) : l ∈ [(0 : Level), 1, 2, 3] := by revert l; decide
  have hfind : es.find? (fun e => decide (e.level = x.level)) ≠ none := fun hn =>
    List.find?_eq_none.1 hn x hx (decide_eq_true rfl)
  unfold mostUrgent
  cases hm : [(0 : Level), 1, 2, 3].findSome? fun l => es.find? fun e => decide (e.level = l) with
  | none => exact absurd (List.findSome?_eq_none_iff.1 hm x.level (hall _)) hfind
  | some y =>
    obtain ⟨l, hl, hmin⟩ := findSome?_lowest hlevels hm
    have hy : y.level = l := by simpa using List.find?_some hl
    have hle : l.val ≤ x.level.val := hmin x.level (hall _) hfind
    by_cases e : y = x
    · rw [e]
    · have hlt : x.level.val < y.level.val := hlow y (List.mem_of_find?_eq_some hl) e
      rw [hy] at hlt
      exact absurd hle (Nat.not_le.2 hlt)

theorem State.endUrgent_some {s : State} {p : PortId} {x : InService} (h : mostUrgent s.ctls[p].inService = some x) :
    s.endUrgent p =
      (s.modCtl p fun k => { k with inService := k.inService.filter fun e => decide (e ≠ x) }).completeWrite p := by
  unfold State.endUrgent
  rw [h]

theorem State.endUrgent_refused {s : State} {p : PortId} (h : s.ctls[p].inService = []) :
    s.endUrgent p = s.refuse p .endNotInService := by
  unfold State.endUrgent
  rw [h]
  rfl

/-- A SIGNAL whose high byte names a port (R55). -/
theorem State.writeSignal_listed (s : State) (p q : PortId) {v : Word} (h : v.toNat / 256 = q.val) :
    s.writeSignal p v = (s.deliver q (.signal p) (BitVec.ofNat 16 (v.toNat % 256))).completeWrite p := by
  have hv : v.toNat / 256 < 4 := h ▸ q.isLt
  have e : (⟨v.toNat / 256, hv⟩ : PortId) = q := Fin.ext h
  unfold State.writeSignal
  rw [dif_pos hv, e]

theorem State.writeSignal_refused (s : State) (p : PortId) {v : Word} (h : 4 ≤ v.toNat / 256) :
    s.writeSignal p v = s.refuse p .badValue := dif_neg (Nat.not_lt.2 h)

/-- Settles O27: each write is one equation of its word's function. -/
theorem controllerWrites : Obligations.ControllerWrites := by
  refine ⟨fun s p v r => ?_, fun s p v r => ⟨?_, ?_, fun n hn => ?_, fun hv => ?_⟩,
    fun s p v r => ⟨fun hv he => ?_, fun hv he => ?_, fun hv hne => ?_, fun x hx hlow => ?_, fun he => ?_⟩,
    fun s p v r => ⟨fun q hq => ?_, fun hv => ?_⟩⟩
  · refine exec_write_completes r rfl 4 rfl rfl rfl ?_
    show State.writePending p v _ = _
    unfold State.writePending
    simp only [clearMarked_eq]
    rfl
  · exact exec_write_completes r rfl 6 rfl rfl rfl rfl
  · exact exec_write_completes r rfl 7 rfl rfl rfl rfl
  · exact exec_write_completes r rfl 8 rfl rfl rfl (State.writeThreshold_listed _ p n hn)
  · exact exec_write_badValue r rfl 8 rfl rfl rfl (State.writeThreshold_refused _ p hv)
  · refine exec_write_completes r rfl 2 rfl rfl rfl ?_
    obtain ⟨e, hm, hs⟩ := he
    refine (State.writeEnd_slot _ p hv).trans ((State.endSlot_inService
      (s := s.taking p .write 0x3FDF2#18 v) (i := ⟨v.toNat, hv⟩) ⟨e, hm, Fin.ext hs⟩).trans ?_)
    simp only [ne_eq, Fin.ext_iff]
    rfl
  · refine exec_write_badValue r rfl 2 rfl rfl rfl ((State.writeEnd_slot _ p hv).trans (State.endSlot_refused ?_))
    exact fun e hm hs => he e hm (congrArg Fin.val hs)
  · exact exec_write_badValue r rfl 2 rfl rfl rfl (State.writeEnd_refused _ p hv hne)
  · refine exec_write_completes r rfl 2 rfl rfl rfl ((State.writeEnd_urgent _ p).trans ?_)
    exact State.endUrgent_some (mostUrgent_of_lowest hx hlow)
  · exact exec_write_badValue r rfl 2 rfl rfl rfl ((State.writeEnd_urgent _ p).trans (State.endUrgent_refused he))
  · refine exec_write_completes r rfl 9 rfl rfl rfl ((State.writeSignal_listed _ p q hq).trans ?_)
    rw [State.deliver_modPort s p q (fun pt => pt.accept .write _ v .arriving) fun _ => rfl]
  · exact exec_write_badValue r rfl 9 rfl rfl rfl (State.writeSignal_refused _ p hv)

/-! ## Deliveries (R37, R38, R176) -/

theorem State.takesDelivery_iff (s : State) (q : PortId) (src : Source) :
    s.takesDelivery q src = true ↔ s.ports[q].state = .up ∨ q = 0 ∧ src = .table ∧ s.part = .sweep := by
  unfold State.takesDelivery
  simp only [Bool.or_eq_true, Bool.and_eq_true, decide_eq_true_eq, and_assoc]

theorem State.boundSlot_none {s : State} {q : PortId} {src : Source}
    (h : ∀ (i : SlotId) (b : Binding), s.ctls[q].slots[i].binding = some b → b.source ≠ src) : s.boundSlot q src = none := by
  refine List.find?_eq_none.2 fun i _ ht => ?_
  obtain ⟨b, hb, hs⟩ := Option.map_eq_some_iff.1 (of_decide_eq_true ht)
  exact h i b hb hs

theorem State.deliver_untaken {s : State} {q : PortId} {src : Source} (h : s.takesDelivery q src = false) (d : Word) :
    s.deliver q src d = s := by
  unfold State.deliver
  rw [h]
  rfl

theorem State.deliver_unbound {s : State} {q : PortId} {src : Source} (h : s.boundSlot q src = none) (d : Word) :
    s.deliver q src d = s := by
  unfold State.deliver
  rw [h]
  split <;> rfl

theorem State.deliver_eq_latch {s : State} {q : PortId} {src : Source} {i : SlotId} (h : s.takesDelivery q src = true)
    (hb : s.boundSlot q src = some i) (d : Word) :
    s.deliver q src d = s.modCtl q fun k => { k with slots := upd k.slots i fun sl => sl.latch d } := by
  unfold State.deliver
  rw [h, hb]
  rfl

/-- Settles O28: who takes the delivery, and the slot that is bound to its source. -/
theorem deliveryLatches : Obligations.DeliveryLatches := by
  intro s q src d
  refine ⟨fun i b ht hb hs hu => ?_, fun h => State.deliver_unbound (State.boundSlot_none h) d, fun hup hsweep => ?_⟩
  · subst hs
    refine State.deliver_eq_latch ((s.takesDelivery_iff q b.source).2 ht) (State.boundSlot_unique hb fun j hj c hc e => ?_) d
    exact hj (hu j c hc e)
  · refine State.deliver_untaken (Bool.eq_false_iff.2 fun ht => ?_) d
    exact ((s.takesDelivery_iff q src).1 ht).elim hup hsweep

/-! ## O5 -/

theorem State.startLaw_reset : State.reset.startLaw := by
  refine ⟨fun a h => (nomatch h), fun q r h => ?_, fun _ => ⟨rfl, rfl⟩⟩
  rw [State.reset_req] at h
  exact nomatch h

theorem State.portLaw_reset : State.reset.portLaw := fun p => by
  rw [State.reset_port]
  exact ⟨⟨fun _ h => (nomatch h), fun _ => rfl⟩, fun h => nomatch h⟩

theorem State.stallLaw_reset : State.reset.stallLaw := fun r => by
  rw [State.reset_ring]
  exact ⟨.nil, fun e h => absurd h List.not_mem_nil, fun _ => rfl⟩

/-- Settles O5: each law by the power-on values of its blocks. -/
theorem lawsAtReset : Obligations.LawsAtReset := by
  obtain ⟨hrange, hmap⟩ := State.placeLaw_reset
  obtain ⟨hnotice, hserv⟩ := State.controllerLaw_of_reset (s := State.reset) rfl
  refine ⟨rfl, State.startLaw_reset, State.portLaw_reset, fun l => ?_, fun r => ?_, State.stallLaw_reset,
    State.bindingLaw_reset, hrange, hmap, hnotice, hserv⟩
  · rw [State.reset_lock]
    exact Lock.law_reset
  · rw [State.reset_ring]
    exact Ring.law_reset _

end Sys2Proof.Machine

/-! PROOFS. The law of the rings (R67) and the law of the stall queues (R75) are kept by every step (O58). `RingsKept L s t` says
it of the states before and after each operation of the blocks, ring by ring; the rings in `L` may stand unsettled, with a post
stalled that could open, until the head of their stall queue has opened. -/

namespace Sys2Proof.Machine

/-! ## One ring -/

/-- A claimant stands in the stall queue at most once, and a port's entry carries ticks and a channel's none (R75). -/
def Ring.queueLaw (k : Ring) : Prop :=
  (k.stall.map fun e => e.post.who).Nodup ∧
    ∀ e ∈ k.stall, (∀ p : PortId, e.post.who = .port p → e.ticks.isSome = true) ∧
      ∀ c : ChanId, e.post.who = .chan c → e.ticks = none

/-- No post is stalled while the opening condition holds (R76). -/
def Ring.settled (k : Ring) (cap : Nat) : Prop := k.count < cap → k.postAsm = none → k.stall = []

theorem State.openingCond_iff (s : State) (r : RingId) :
    s.openingCond r = true ↔ s.rings[r].count < s.recs[r].capacity ∧ s.rings[r].postAsm = none := by
  unfold State.openingCond
  rw [Bool.and_eq_true, decide_eq_true_iff, Option.isNone_iff_eq_none]

theorem State.stallLaw_iff (s : State) (r : RingId) :
    s.rings[r].stallLaw (s.openingCond r) ↔ s.rings[r].queueLaw ∧ s.rings[r].settled s.recs[r].capacity := by
  unfold Ring.stallLaw Ring.queueLaw Ring.settled
  rw [State.openingCond_iff, and_imp, and_assoc]

/-- What one change of a ring of this capacity keeps. -/
structure Ring.Keeps (cap : Nat) (k j : Ring) : Prop where
  law : k.law cap → j.law cap
  queue : k.queueLaw → j.queueLaw
  settled : k.settled cap → j.settled cap

theorem Ring.queueLaw.sublist {k j : Ring} (h : k.queueLaw) (hs : j.stall.Sublist k.stall) : j.queueLaw :=
  ⟨h.1.sublist (hs.map _), fun e he => h.2 e (hs.subset he)⟩

/-- Entries that keep their claimants, and the presence of their ticks. -/
theorem Ring.queueLaw.map {k j : Ring} (h : k.queueLaw) {g : StallEntry → StallEntry} (hs : j.stall = k.stall.map g)
    (hw : ∀ e, (g e).post.who = e.post.who) (ht : ∀ e, (g e).ticks.isSome = e.ticks.isSome) : j.queueLaw := by
  obtain ⟨hn, hq⟩ := h
  unfold Ring.queueLaw
  rw [hs, List.map_map]
  refine ⟨?_, fun e he => ?_⟩
  · rwa [show ((fun e : StallEntry => e.post.who) ∘ g) = fun e => e.post.who from funext hw]
  · obtain ⟨x, hx, rfl⟩ := List.mem_map.mp he
    rw [hw, ht]
    refine ⟨(hq x hx).1, fun c hc => ?_⟩
    rw [← Option.isNone_iff_eq_none, ← Option.not_isSome, ht, (hq x hx).2 c hc]
    rfl

/-- A claimant that joins the stall queue stands in it once (R75, log 24). -/
theorem Ring.queueLaw.stalled {k : Ring} (h : k.queueLaw) {q : Post} {n : Option Nat}
    (hp : ∀ p : PortId, q.who = .port p → n.isSome = true) (hc : ∀ c : ChanId, q.who = .chan c → n = none) :
    (k.stalled q n).queueLaw := by
  obtain ⟨hn, hq⟩ := h.sublist (j := k.withoutStalled q.who) List.filter_sublist
  refine ⟨?_, fun e he => ?_⟩
  · show (List.map _ (_ ++ _)).Nodup
    rw [List.map_append]
    refine List.nodup_append.mpr ⟨hn, List.nodup_singleton _, fun x hx y hy e => ?_⟩
    obtain ⟨z, hz, rfl⟩ := List.mem_map.mp hx
    rw [List.map_singleton, List.mem_singleton] at hy
    exact of_decide_eq_true (List.mem_filter.mp hz).2 (e.trans hy)
  · obtain he | he := List.mem_append.mp he
    · exact hq e he
    · rw [List.mem_singleton.mp he]
      exact ⟨hp, hc⟩

/-- A change that moves neither entries nor the assembly's presence, and by which claimants at most leave the stall queue. -/
theorem Ring.Keeps.of_same {k j : Ring} {cap : Nat} (hh : j.head = k.head := by rfl) (ht : j.tail = k.tail := by rfl)
    (hc : j.count = k.count := by rfl) (hp : j.postAsm.isSome = k.postAsm.isSome := by rfl)
    (hk : j.takeAsm.isSome = true → k.takeAsm.isSome = true := by exact id)
    (hs : j.stall.Sublist k.stall := by exact List.Sublist.refl _) : Ring.Keeps cap k j := by
  refine ⟨fun h => Ring.law_of_same h hh ht hc (fun e => hp ▸ e) hk, fun h => h.sublist hs, fun h hcap hn => ?_⟩
  have hn' : k.postAsm = none := by
    rw [← Option.isNone_iff_eq_none, ← Option.not_isSome, ← hp, hn]
    rfl
  rw [h (hc ▸ hcap) hn'] at hs
  exact List.sublist_nil.mp hs

/-- Changed entries stay the same claimants'. -/
theorem Ring.Keeps.map {k j : Ring} {cap : Nat} {g : StallEntry → StallEntry} (hs : j.stall = k.stall.map g)
    (hw : ∀ e, (g e).post.who = e.post.who) (ht : ∀ e, (g e).ticks.isSome = e.ticks.isSome)
    (h : Ring.Keeps cap k { j with stall := k.stall }) : Ring.Keeps cap k j := by
  refine ⟨h.law, fun hq => hq.map hs hw ht, fun hk hcap hn => ?_⟩
  have e : k.stall = [] := h.settled hk hcap hn
  rw [hs, e]
  rfl

theorem Ring.Keeps.unlive (k : Ring) (cap : Nat) (c : ChanId) : Ring.Keeps cap k (k.unlive c) := by
  refine Ring.Keeps.map (g := fun e => { e with post := e.post.unlive c }) rfl (fun e => ?_) (fun _ => rfl) .of_same
  unfold Post.unlive
  dsimp only
  split <;> rfl

theorem Ring.Keeps.ticked (k : Ring) (cap : Nat) : Ring.Keeps cap k k.ticked :=
  Ring.Keeps.map (g := fun e => { e with ticks := e.ticks.map (· - 1) }) rfl (fun _ => rfl)
    (fun _ => Option.isSome_map) .of_same

theorem Ring.Keeps.cleared (k : Ring) (cap : Nat) : Ring.Keeps cap k k.cleared :=
  ⟨fun _ => Ring.law_cleared k cap, fun _ => ⟨.nil, fun _ h => nomatch h⟩, fun _ _ _ => rfl⟩

theorem Ring.withoutWaiting_keeps (k : Ring) (cap : Nat) (c : ChanId) : Ring.Keeps cap k (k.withoutWaiting c) :=
  .of_same (hs := List.filter_sublist)

theorem Ring.withoutClaimant_keeps (k : Ring) (cap : Nat) (c : Claimant) : Ring.Keeps cap k (k.withoutClaimant c) :=
  .of_same (hs := List.filter_sublist)

/-- A post stalls only where it cannot open. -/
theorem Ring.Keeps.stalled {k : Ring} {cap : Nat} {q : Post} {n : Option Nat} (ho : ¬(k.count < cap ∧ k.postAsm = none))
    (hp : ∀ p : PortId, q.who = .port p → n.isSome = true) (hc : ∀ c : ChanId, q.who = .chan c → n = none) :
    Ring.Keeps cap k (k.stalled q n) :=
  ⟨fun h => Ring.law_of_same h rfl rfl rfl id id, fun h => h.stalled hp hc, fun _ h1 h2 => absurd ⟨h1, h2⟩ ho⟩

/-- Another word of the assembly is counted. -/
theorem Ring.Keeps.postWords {k : Ring} {cap : Nat} {a : PostAsm} (e : k.postAsm = some a) (n : Nat) :
    Ring.Keeps cap k { k with postAsm := some { a with words := n } } := .of_same (hp := by rw [e]; rfl)

theorem Ring.Keeps.takeWords {k : Ring} {cap : Nat} {a : TakeAsm} (e : k.takeAsm = some a) (n : Nat) :
    Ring.Keeps cap k { k with takeAsm := some { a with words := n } } := .of_same (hk := fun _ => by rw [e]; rfl)

/-! ## All rings -/

theorem State.tellSpace_rings (s : State) (r : RingId) (b : Bool) : (s.tellSpace r b).rings = s.rings := by
  unfold State.tellSpace
  split
  · exact State.deliver_rings _ _ _ _
  · rfl

/-- See the head of this file. -/
structure RingsKept (L : RingId → Prop) (s t : State) : Prop where
  recs : t.recs = s.recs
  law : ∀ r : RingId, s.rings[r].law s.recs[r].capacity → t.rings[r].law s.recs[r].capacity
  queue : ∀ r : RingId, s.rings[r].queueLaw → t.rings[r].queueLaw
  settled : ∀ r : RingId, ¬L r → s.rings[r].settled s.recs[r].capacity → t.rings[r].settled s.recs[r].capacity

theorem RingsKept.refl (L : RingId → Prop) (s : State) : RingsKept L s s := ⟨rfl, fun _ => id, fun _ => id, fun _ _ => id⟩

theorem RingsKept.foldl {α : Type} {L : RingId → Prop} {f : State → α → State}
    (hf : ∀ {s t : State} (a : α), RingsKept L s t → RingsKept L s (f t a)) :
    ∀ (l : List α) {s t : State}, RingsKept L s t → RingsKept L s (l.foldl f t)
  | [], _, _, h => h
  | a :: l, _, _, h => RingsKept.foldl hf l (hf a h)

section
variable {L : RingId → Prop} {s t : State} (h : RingsKept L s t)
include h

theorem RingsKept.mono {M : RingId → Prop} (hm : ∀ r, L r → M r) : RingsKept M s t :=
  ⟨h.recs, h.law, h.queue, fun r hr => h.settled r fun e => hr (hm r e)⟩

/-- A change of neither rings nor ring records. -/
theorem RingsKept.same {u : State} (hr : u.rings = t.rings) (hc : u.recs = t.recs) : RingsKept L s u :=
  ⟨hc.trans h.recs, fun r => hr ▸ h.law r, fun r => hr ▸ h.queue r, fun r => hr ▸ h.settled r⟩

/-- A quiet operation that touches no ring. -/
theorem RingsKept.quiet {u : State} (q : Quiet t u) (hr : u.rings = t.rings) : RingsKept L s u := by
  obtain ⟨-, -, -, -, -, -, hc, -⟩ := q.config
  exact h.same hr hc

theorem RingsKept.modPort (p : PortId) (f : Port → Port) : RingsKept L s (t.modPort p f) := h.same rfl rfl
theorem RingsKept.modCtl (p : PortId) (f : Controller → Controller) : RingsKept L s (t.modCtl p f) := h.same rfl rfl
theorem RingsKept.modLock (l : LockId) (f : Lock → Lock) : RingsKept L s (t.modLock l f) := h.same rfl rfl
theorem RingsKept.modChan (c : ChanId) (f : Chan → Chan) : RingsKept L s (t.modChan c f) := h.same rfl rfl
theorem RingsKept.modReq (q : Fin 5) (f : Option Request → Option Request) : RingsKept L s (t.modReq q f) := h.same rfl rfl
theorem RingsKept.completeCycle (p : PortId) (e : CycleEnd) : RingsKept L s (t.completeCycle p e) := h.same rfl rfl
theorem RingsKept.setWait (p : PortId) (w : CycleWait) : RingsKept L s (t.setWait p w) := h.same rfl rfl

theorem RingsKept.deliver (p : PortId) (src : Source) (d : Word) : RingsKept L s (t.deliver p src d) :=
  h.quiet ((Quiet.refl t).deliver p src d) (State.deliver_rings _ _ _ _)

theorem RingsKept.refuse (p : PortId) (r : Reason) : RingsKept L s (t.refuse p r) :=
  h.quiet ((Quiet.refl t).refuse p r) (State.refuse_rings _ _ _)

/-- A change of one ring; where its opening condition may have become true, the ring may stand unsettled. -/
theorem RingsKept.loosen (r : RingId) {f : Ring → Ring}
    (hl : t.rings[r].law t.recs[r].capacity → (f t.rings[r]).law t.recs[r].capacity)
    (hq : t.rings[r].queueLaw → (f t.rings[r]).queueLaw) : RingsKept (fun q => L q ∨ q = r) s (t.modRing r f) := by
  rw [h.recs] at hl
  have hr (q : RingId) : (t.modRing r f).rings[q] = if r = q then f t.rings[q] else t.rings[q] := upd_get _ _ _ _
  refine ⟨h.recs, fun q hs => ?_, fun q hs => ?_, fun q hn hs => ?_⟩
  · rw [hr]
    split
    · next e => subst e; exact hl (h.law _ hs)
    · exact h.law q hs
  · rw [hr]
    split
    · next e => subst e; exact hq (h.queue _ hs)
    · exact h.queue q hs
  · rw [not_or] at hn
    rw [hr, if_neg fun e => hn.2 e.symm]
    exact h.settled q hn.1 hs

/-- A change of one ring that keeps its laws. -/
theorem RingsKept.modRing (r : RingId) {f : Ring → Ring} (hf : Ring.Keeps t.recs[r].capacity t.rings[r] (f t.rings[r])) :
    RingsKept L s (t.modRing r f) := by
  obtain ⟨hc, hlaw, hqueue, hset⟩ := h.loosen r hf.law hf.queue
  refine ⟨hc, hlaw, hqueue, fun q hn hs => ?_⟩
  by_cases e : q = r
  · subst e
    have hk := hf.settled
    rw [h.recs] at hk
    rw [State.modRing_ring_same]
    exact hk (h.settled q hn hs)
  · exact hset q (fun x => x.elim hn e) hs

/-- A ring that is settled whatever it was. -/
theorem RingsKept.tighten {r : RingId} (hr : t.rings[r].settled s.recs[r].capacity) :
    RingsKept (fun q => L q ∧ q ≠ r) s t := by
  refine ⟨h.recs, h.law, h.queue, fun q hn hs => ?_⟩
  by_cases e : q = r
  · subst e; exact hr
  · exact h.settled q (fun x => hn ⟨x, e⟩) hs

/-! ## Locks -/

theorem RingsKept.releaseLock (l : LockId) : RingsKept L s (t.releaseLock l) :=
  h.quiet ((Quiet.refl t).releaseLock l) (State.releaseLock_rings _ _)

theorem RingsKept.leaveLock (c : ChanId) : RingsKept L s (t.leaveLock c) :=
  h.quiet ((Quiet.refl t).leaveLock c) (State.leaveLock_rings _ _)

theorem RingsKept.readLock (w : Bool) (p : PortId) (l : LockId) : RingsKept L s (t.readLock w p l).1 := by
  unfold State.readLock
  repeat' split
  all_goals exact h.same rfl rfl

theorem RingsKept.writeLock (p : PortId) (l : LockId) : RingsKept L s (t.writeLock p l) := by
  unfold State.writeLock
  split
  · exact (h.releaseLock l).completeCycle p _
  · split
    · exact h.same rfl rfl
    · exact h.refuse p _

theorem RingsKept.acquireForChan (c : ChanId) (l : LockId) : RingsKept L s (t.acquireForChan c l) := by
  unfold State.acquireForChan
  split <;> exact h.same rfl rfl

/-! ## Ring engine -/

theorem RingsKept.issueRing (r : RingId) (q : Post) (d : Dir) (a : Addr) : RingsKept L s (t.issueRing r q d a) := by
  unfold State.issueRing
  split
  · exact ((h.modRing r .of_same).modReq _ _).setWait _ _
  · exact h.modRing r .of_same

theorem RingsKept.issuePost (r : RingId) (q : Post) : RingsKept L s (t.issuePost r q) := h.issueRing _ _ _ _

/-- A post that opens where there is a place settles the ring (R70). -/
theorem RingsKept.openPost (r : RingId) (q : Post) (hc : t.rings[r].count < t.recs[r].capacity) :
    RingsKept (fun x => L x ∧ x ≠ r) s (t.openPost r q) := by
  have hr : RingsKept (fun x => L x ∧ x ≠ r) s
      (t.modRing r fun k => { k with postAsm := some { owner := q.who, words := 0 } }) := by
    refine ((h.loosen r (fun ⟨h1, _, h3⟩ => ⟨h1, fun _ => hc, h3⟩) id).tighten (r := r) fun _ hn => ?_).mono
      fun x ⟨hx, hne⟩ => ⟨hx.resolve_right hne, hne⟩
    rw [State.modRing_ring_same] at hn
    cases hn
  unfold State.openPost
  dsimp only
  split
  · split
    · exact (hr.modRing r .of_same).setWait _ _
    · exact hr.modRing r .of_same
  · exact hr.issuePost r q

theorem RingsKept.unstall (q : Post) : RingsKept L s (t.unstall q) := by
  unfold State.unstall
  repeat' split
  all_goals exact h.same rfl rfl

/-- After its head has had the chance to open, the ring is settled (R76). -/
theorem RingsKept.openHead_settles (r : RingId) : RingsKept (fun x => L x ∧ x ≠ r) s (t.openHead r) := by
  unfold State.openHead
  split
  · next ho =>
    split
    · next he => exact h.tighten fun _ _ => he
    · next e rest he =>
      have hs : RingsKept (fun x => L x ∨ x = r) s (t.modRing r fun k => { k with stall := rest }) :=
        h.loosen r (fun hl => Ring.law_of_same hl rfl rfl rfl id id)
          fun hq => hq.sublist (by rw [he]; exact List.sublist_cons_self _ _)
      obtain ⟨hc, -⟩ := (t.openingCond_iff r).mp ho
      refine ((hs.unstall e.post).openPost r e.post ?_).mono fun x ⟨hx, hne⟩ => ⟨hx.resolve_right hne, hne⟩
      obtain ⟨hur, huc⟩ := (t.modRing r fun k => { k with stall := rest }).unstall_rings e.post
      rw [hur, huc, State.modRing_ring_same]
      exact hc
  · next ho =>
    rw [State.openingCond_iff, h.recs] at ho
    exact h.tighten fun h1 h2 => absurd ⟨h1, h2⟩ ho

theorem RingsKept.openHead (r : RingId) : RingsKept L s (t.openHead r) := (h.openHead_settles r).mono fun _ => And.left

/-- A change after which the head of the stall queue may open (R72, R80, R87), with a step between that touches no ring. -/
theorem RingsKept.reopened {u : State} (r : RingId) {f : Ring → Ring}
    (hl : t.rings[r].law t.recs[r].capacity → (f t.rings[r]).law t.recs[r].capacity)
    (hq : t.rings[r].queueLaw → (f t.rings[r]).queueLaw) (hu : Quiet (t.modRing r f) u)
    (hr : u.rings = (t.modRing r f).rings) : RingsKept L s (u.openHead r) :=
  (((h.loosen r hl hq).quiet hu hr).openHead_settles r).mono fun _ ⟨hx, hne⟩ => hx.resolve_right hne

theorem RingsKept.joinStall (r : RingId) (q : Post) (ho : t.openingCond r = false) : RingsKept L s (t.joinStall r q) := by
  have hn : ¬(t.rings[r].count < t.recs[r].capacity ∧ t.rings[r].postAsm = none) := fun e =>
    Bool.false_ne_true (ho.symm.trans ((t.openingCond_iff r).mpr e))
  unfold State.joinStall
  cases hw : q.who with
  | port p =>
    exact (h.modRing r (.stalled hn (fun _ _ => rfl) fun c e => nomatch hw.symm.trans e)).setWait p _
  | chan c =>
    have k := h.modRing r (f := (·.stalled q none)) (.stalled hn (fun p e => nomatch hw.symm.trans e) fun _ _ => rfl)
    dsimp only
    split
    · exact k.modChan c _
    · exact k

theorem RingsKept.postWritten (r : RingId) : RingsKept L s (t.postWritten r) := by
  unfold State.postWritten
  split
  · exact h
  · next a e =>
    split
    · exact h.reopened r (fun hl => Ring.law_pushed hl (by rw [e]; rfl)) id (.refl _) rfl
    · exact h.modRing r (.postWords e _)

theorem RingsKept.takeRead (r : RingId) : RingsKept L s (t.takeRead r) := by
  unfold State.takeRead
  split
  · exact h
  · next a e =>
    split
    · exact h.reopened r (f := fun k => k.popped t.recs[r].capacity) (fun hl => Ring.law_popped hl (by rw [e]; rfl)) id
        ((Quiet.refl _).tellSpace r _) (State.tellSpace_rings _ _ _)
    · exact h.modRing r (.takeWords e _)

theorem RingsKept.dropAssembly (c : Claimant) (r : RingId) : RingsKept L s (t.dropAssembly c r) := by
  cases ho : t.rings[r].ownsPost c with
  | true =>
    rw [State.dropAssembly_of_owner ho]
    exact h.reopened r (fun hl => Ring.law_of_same hl rfl rfl rfl (fun e => Bool.noConfusion e) id) id (.refl _) rfl
  | false =>
    rw [State.dropAssembly_of_unowned ho]
    exact h

theorem RingsKept.closeAssembly (c : ChanId) (r : RingId) : RingsKept L s (t.closeAssembly c r) := by
  unfold State.closeAssembly
  split
  · exact h.modRing r .of_same
  · exact h.dropAssembly _ _

theorem RingsKept.closeAssemblies (c : ChanId) : RingsKept L s (t.closeAssemblies c) :=
  RingsKept.foldl (fun _ k => k.closeAssembly _ _) _ h

theorem RingsKept.finishLeaving (r : RingId) (f : InFlight) : RingsKept L s (t.finishLeaving r f) := by
  unfold State.finishLeaving
  split
  · exact h
  · split
    · exact h.dropAssembly _ _
    · exact h

/-! ## Ends of runs -/

theorem RingsKept.deliverDone (c : ChanId) (st : Status) : RingsKept L s (t.deliverDone c st) := by
  unfold State.deliverDone
  split
  · exact h.deliver _ _ _
  · exact h

theorem RingsKept.withdrawFromRings (c : ChanId) : RingsKept L s (t.withdrawFromRings c) := by
  unfold State.withdrawFromRings
  split
  · exact (h.modRing _ (Ring.withoutClaimant_keeps _ _ _)).closeAssemblies c
  · exact h.closeAssemblies c

theorem RingsKept.finishLockFree (c : ChanId) : RingsKept L s (t.finishLockFree c) := by
  unfold State.finishLockFree
  split
  · exact h.completeCycle 0 _
  · exact h

theorem RingsKept.endRun (c : ChanId) (st : Status) : RingsKept L s (t.endRun c st) :=
  ((((h.modChan c _).withdrawFromRings c).leaveLock c).deliverDone c st).finishLockFree c

theorem RingsKept.leaveQueue (c : ChanId) : RingsKept L s (t.leaveQueue c) := by
  have hl : RingsKept L s (if t.chans[c].state = .lockWait then t.leaveLock c else t) := by
    split
    · exact h.leaveLock c
    · exact h
  unfold State.leaveQueue
  dsimp only
  split
  · exact hl.modRing _ (Ring.withoutWaiting_keeps _ _ _)
  · exact hl

theorem RingsKept.stopRun (c : ChanId) (st : Status) : RingsKept L s (t.stopRun c st) := by
  unfold State.stopRun
  split
  · exact (h.leaveQueue c).modChan c _
  · exact h.endRun c st

theorem RingsKept.stopChan (c : ChanId) (st : Status) : RingsKept L s (t.stopChan c st) := by
  unfold State.stopChan
  split
  · exact h
  · split
    · exact h
    · exact h.stopRun c st

theorem RingsKept.settleStop (c : ChanId) : RingsKept L s (t.settleStop c) := by
  unfold State.settleStop
  split
  · split
    · exact h
    · exact h.endRun c _
  · exact h

theorem RingsKept.detachChan (c : ChanId) : RingsKept L s (t.detachChan c) := by
  have hr (r : RingId) : (t.detachChan c).rings[r] = t.rings[r].unlive c := by
    show (Vector.ofFn fun r : RingId => (t.rings[r]).unlive c)[r] = _
    rw [Fin.getElem_fin, Vector.getElem_ofFn]
  have k (r : RingId) := Ring.Keeps.unlive t.rings[r] s.recs[r].capacity c
  exact ⟨h.recs, fun r hs => hr r ▸ (k r).law (h.law r hs), fun r hs => hr r ▸ (k r).queue (h.queue r hs),
    fun r hn hs => hr r ▸ (k r).settled (h.settled r hn hs)⟩

theorem RingsKept.endRunByReset (c : ChanId) (st : Status) : RingsKept L s (t.endRunByReset c st) :=
  (((h.modChan c _).closeAssemblies c).leaveLock c).deliverDone c st

theorem RingsKept.stopByReset (c : ChanId) : RingsKept L s (t.stopByReset c) := by
  unfold State.stopByReset
  split
  · exact h
  · exact (h.detachChan c).endRunByReset c _

/-! ## Take-up and ring reset -/

theorem RingsKept.refuseFull (r : RingId) (p : PortId) : RingsKept L s (t.refuseFull r p) := (h.deliver _ _ _).refuse _ _

theorem RingsKept.takeUpPost (r : RingId) (q : Post) : RingsKept L s (t.takeUpPost r q) := by
  unfold State.takeUpPost
  split
  · split
    · exact h.refuse _ _
    · exact h.stopChan _ _
  · split
    · exact h.issuePost r q
    · split
      · next ho => exact (h.openPost r q ((t.openingCond_iff r).mp ho).1).mono fun _ => And.left
      · next ho =>
        have hj := h.joinStall r q (Bool.eq_false_iff.mpr ho)
        split
        · repeat' split
          · exact hj
          · exact h.refuseFull r _
          · exact h.refuse _ _
        · exact hj

theorem RingsKept.takeUpTake (r : RingId) (p : PortId) : RingsKept L s (t.takeUpTake r p) := by
  unfold State.takeUpTake
  dsimp only
  split
  · exact h.refuse _ _
  · split
    · exact h.refuse _ _
    · next hc =>
      split
      · split
        · exact h.issueRing _ _ _ _
        · exact h.refuse _ _
      · have k : Ring.Keeps t.recs[r].capacity t.rings[r] { t.rings[r] with takeAsm := some { owner := p, words := 0 } } :=
          ⟨fun ⟨h1, h2, _, h4⟩ => ⟨h1, h2, fun _ => Nat.pos_of_ne_zero hc, h4⟩, id, id⟩
        exact (h.modRing r k).issueRing _ _ _ _

theorem RingsKept.takeUp (r : RingId) (i : HoldItem) : RingsKept L s (t.takeUp r i) := by
  cases i with
  | post q => exact h.takeUpPost r q
  | take p => exact h.takeUpTake r p

theorem RingsKept.holdWait (r : RingId) (i : HoldItem) : RingsKept L s (t.holdWait r i) := by
  unfold State.holdWait
  repeat' split
  all_goals first | exact h.setWait _ _ | exact h

theorem RingsKept.ringArrive (r : RingId) (i : HoldItem) : RingsKept L s (t.ringArrive r i) := by
  unfold State.ringArrive
  split
  · exact (h.modRing r .of_same).holdWait r i
  · exact h.takeUp r i

end

theorem RingsKept.takeUpHold {L : RingId → Prop} (r : RingId) : ∀ (n : Nat) {s t : State}, RingsKept L s t →
    RingsKept L s (t.takeUpHold r n)
  | 0, _, _, h => h
  | n + 1, s, t, h => by
    unfold State.takeUpHold
    split
    · exact h
    · split
      · exact h
      · exact RingsKept.takeUpHold r n ((h.modRing r .of_same).takeUp r _)

section
variable {L : RingId → Prop} {s t : State} (h : RingsKept L s t)
include h

theorem RingsKept.resumeRing (r : RingId) : RingsKept L s (t.resumeRing r) := by
  unfold State.resumeRing
  split
  · exact h
  · split
    · exact (h.modRing r .of_same).issuePost r _
    · exact h.takeUpHold r _

theorem RingsKept.resetClaimant (q : Post) : RingsKept L s (t.resetClaimant q) := by
  unfold State.resetClaimant
  split
  · exact h.refuse _ _
  · exact h.stopByReset _

theorem RingsKept.resetAwaiting (q : Option Post) : RingsKept L s (t.resetAwaiting q) := by
  unfold State.resetAwaiting
  repeat' split
  all_goals first | exact h.refuse _ _ | exact h

theorem RingsKept.resetOwner (a : Option PostAsm) : RingsKept L s (t.resetOwner a) := by
  unfold State.resetOwner
  repeat' split
  all_goals first | exact h.stopByReset _ | exact h

theorem RingsKept.resetRing (r : RingId) : RingsKept L s (t.resetRing r) := by
  have k := (h.modRing r (Ring.Keeps.cleared _ _)).resetAwaiting t.rings[r].awaiting
  unfold State.resetRing
  exact (RingsKept.foldl (fun e k => k.resetClaimant (StallEntry.post e)) _ k).resetOwner _

/-! ## Transfer engine -/

theorem RingsKept.startChan (p : PortId) (c : ChanId) : RingsKept L s (t.startChan p c) := by
  unfold State.startChan
  dsimp only
  split
  · exact h.refuse _ _
  · split
    · split
      · exact ((h.modChan c _).acquireForChan c _).completeCycle p _
      · exact (h.modChan c _).completeCycle p _
    · exact h.refuse _ _

theorem RingsKept.abortChan (p : PortId) (c : ChanId) : RingsKept L s (t.abortChan p c) := by
  unfold State.abortChan
  split
  · exact (h.stopChan c _).completeCycle p _
  · exact h.refuse _ _

theorem RingsKept.writeChan (p : PortId) (c : ChanId) (k : Nat) (v : Word) : RingsKept L s (t.writeChan p c k v) := by
  unfold State.writeChan
  repeat' split
  · exact h.startChan p c
  · exact h.abortChan p c
  · exact h.refuse p _
  · exact (h.modChan c _).completeCycle p _
  · exact h.refuse p _

theorem RingsKept.deliverMark (c : ChanId) : RingsKept L s (t.deliverMark c) := by
  unfold State.deliverMark
  repeat' split
  all_goals first | exact h.deliver _ _ _ | exact h

theorem RingsKept.descComplete (c : ChanId) : RingsKept L s (t.descComplete c) := by
  unfold State.descComplete
  dsimp only
  split
  · exact (h.withdrawFromRings c).modChan c _
  · exact (h.withdrawFromRings c).endRun c _

theorem RingsKept.wordDone (c : ChanId) (w : Word) : RingsKept L s (t.wordDone c w) := by
  have k := (h.modChan c fun k =>
    { k with desc := k.desc.step w, wordsDone := k.wordsDone + 1, holding := none }).deliverMark c
  unfold State.wordDone
  dsimp only
  repeat' split
  · exact k.settleStop c
  · exact k
  · exact k.descComplete c
  · exact k

theorem RingsKept.chainLock (c : ChanId) (old new : Option LockId) : RingsKept L s (t.chainLock c old new) := by
  have hr : RingsKept L s (match old with | some l => t.releaseLock l | none => t) := by
    cases old with
    | none => exact h
    | some l => exact h.releaseLock l
  unfold State.chainLock
  dsimp only
  split
  · exact h
  · cases new with
    | none => exact hr
    | some l => exact hr.acquireForChan c l

theorem RingsKept.installDesc (c : ChanId) (ws : List Word) : RingsKept L s (t.installDesc c ws) := by
  unfold State.installDesc
  split
  · exact (h.modChan c _).chainLock c _ _
  · exact h.endRun c _

theorem RingsKept.readStopped {c : ChanId} {b : Bool} {u : State} (e : t.readStopped c b = some u) : RingsKept L s u := by
  unfold State.readStopped at e
  split at e
  · cases e; exact h.settleStop c
  · split at e
    · cases e; exact h.endRun c _
    · cases e

theorem RingsKept.srcReadDone (c : ChanId) (w : Word) : RingsKept L s (t.srcReadDone c w) := by
  unfold State.srcReadDone
  dsimp only
  split
  · exact h.wordDone c w
  · split
    · exact (h.modChan c _).ringArrive _ _
    · exact h.modChan c _
  · exact h.modChan c _

theorem RingsKept.dstReadDone (c : ChanId) (w : Word) : RingsKept L s (t.dstReadDone c w) := by
  unfold State.dstReadDone
  split
  · exact h.wordDone c w
  · exact h.endRun c _

theorem RingsKept.fetchReadDone (c : ChanId) (w : Word) : RingsKept L s (t.fetchReadDone c w) := by
  unfold State.fetchReadDone
  dsimp only
  split
  · exact h.installDesc c _
  · exact h.modChan c _

theorem RingsKept.sumWriteDone (c : ChanId) : RingsKept L s (t.sumWriteDone c) := by
  unfold State.sumWriteDone
  split
  · exact h.settleStop c
  · exact h.descComplete c

theorem RingsKept.chanAccessDone (c : ChanId) (k : ChanStep) (w : Word) (b : Bool) :
    RingsKept L s (t.chanAccessDone c k w b) := by
  have hs {u : State} : t.readStopped c b = some u → RingsKept L s u := h.readStopped
  unfold State.chanAccessDone
  cases k with
  | srcRead => dsimp only; split; exacts [hs ‹_›, h.srcReadDone c w]
  | dstRead => dsimp only; split; exacts [hs ‹_›, h.dstReadDone c w]
  | fetchRead => dsimp only; split; exacts [hs ‹_›, h.fetchReadDone c w]
  | dstWrite => exact h.wordDone c w
  | sumWrite => exact h.sumWriteDone c

theorem RingsKept.presentChan (c : ChanId) : RingsKept L s (t.presentChan c) := by
  have h0 : RingsKept L s { t with lastChan := c } := h.same rfl rfl
  unfold State.presentChan
  dsimp only
  split
  · split
    · exact (h0.modRing _ .of_same).modReq _ _
    · exact h
  · split
    · exact h0.modReq _ _
    · exact h

theorem RingsKept.pickChan : RingsKept L s t.pickChan := by
  unfold State.pickChan
  split
  · exact h
  · split
    · exact h.presentChan _
    · exact h

/-! ## Teardown and forcing -/

theorem RingsKept.abandonCycle (p : PortId) : RingsKept L s (t.abandonCycle p) := h.same rfl rfl

theorem RingsKept.tearLocks (p : PortId) : RingsKept L s (t.tearLocks p) := by
  refine RingsKept.foldl (fun l k => ?_) _ (RingsKept.foldl (fun l k => k.modLock l _) _ h)
  split
  · exact k.releaseLock _
  · exact k

theorem RingsKept.settleRing (r : RingId) : RingsKept L s (t.settleRing r) := (h.openHead r).resumeRing r

theorem RingsKept.tearChans (p : PortId) : RingsKept L s (t.tearChans p) := by
  refine RingsKept.foldl (fun c k => ?_) _ h
  split
  · exact k.stopChan _ _
  · exact k

theorem RingsKept.forceLock (l : LockId) (b : Bool) : RingsKept L s (t.forceLock l b) := by
  unfold State.forceLock
  split
  · exact h
  · exact (h.deliver _ _ _).releaseLock l
  · exact (h.releaseLock l).stopChan _ _

theorem RingsKept.endDrop (p : PortId) : RingsKept L s (t.endDrop p) := by
  unfold State.endDrop
  split
  · split <;> exact h.same rfl rfl
  · exact h

theorem RingsKept.finishTeardown (p : PortId) : RingsKept L s (t.finishTeardown p) := by
  unfold State.finishTeardown
  split
  · exact (h.modPort p _).endDrop p
  · exact h

end

/-! ### The rings of a teardown (R92) -/

/-- What goes with a port leaves the lists, and assemblies that go leave the ring unsettled. -/
theorem Ring.tear_stall (k : Ring) (p : PortId) (out : Claimant → Bool) (b : Bool) :
    (k.tear p out b).stall = k.stall.filter fun e => !out e.post.who := by
  unfold Ring.tear
  rw [Ring.dropFlight_eq, Ring.closeTake_eq, Ring.dropAwaiting_eq, Ring.discardPost_eq]

/-- A ring whose assembly stays is settled if it was. -/
theorem Ring.tear_settled {k : Ring} {cap : Nat} (h : k.settled cap) {p : PortId} {out : Claimant → Bool} (b : Bool)
    (hp : k.ownsPost (.port p) = false) (ha : k.losesAwaiting out = false) : (k.tear p out b).settled cap := by
  have hpost : (k.tear p out b).postAsm = k.postAsm := by
    unfold Ring.tear
    rw [Ring.dropFlight_eq, Ring.closeTake_eq, Ring.dropAwaiting_eq, Ring.discardPost_eq]
    unfold Ring.ownsPost Ring.losesAwaiting at *
    simp [hp, ha]
  have hcount : (k.tear p out b).count = k.count := by
    unfold Ring.tear
    rw [Ring.dropFlight_eq, Ring.closeTake_eq, Ring.dropAwaiting_eq, Ring.discardPost_eq]
  intro hc hn
  rw [Ring.tear_stall, h (hcount ▸ hc) (hpost ▸ hn)]
  rfl

/-- After the withdrawals the rings that settle may stand unsettled, and no others. -/
theorem RingsKept.ringsTorn {L : RingId → Prop} {s t : State} (h : RingsKept L s t) (p : PortId) :
    RingsKept (fun r => L r ∨ t.unsettles p t.rings[r] = true) s (t.ringsTorn p) := by
  have hr (r : RingId) : (t.ringsTorn p).rings[r] = (t.rings[r]).tear p (t.torn p) (t.ringGranted r) := by
    rw [State.ringsTorn_ring, ← Ring.tear_eq]
  refine ⟨?_, fun r hs => ?_, fun r hs => ?_, fun r hn hs => ?_⟩
  · rw [State.ringsTorn_eq]
    exact h.recs
  · rw [hr]
    exact Ring.law_tear (h.law r hs) _ _ _
  · rw [hr]
    refine (h.queue r hs).sublist ?_
    rw [Ring.tear_stall]
    exact List.filter_sublist
  · rw [not_or, ← State.unsettles_eq, Bool.not_eq_true, Bool.or_eq_false_iff, Bool.or_eq_false_iff] at hn
    obtain ⟨hl, ⟨hp, ha⟩, -⟩ := hn
    rw [hr]
    exact Ring.tear_settled (h.settled r hl hs) _ hp ha

/-- The rings that settle one after another are settled at the end. -/
theorem RingsKept.ringsSettled {L : RingId → Prop} (cond : RingId → Bool) : ∀ (ls : List RingId) {s t : State},
    RingsKept (fun r => L r ∨ cond r = true ∧ r ∈ ls) s t → RingsKept L s (t.ringsSettled cond ls)
  | [], _, _, h => h.mono fun _ hr => hr.resolve_right fun e => nomatch e.2
  | r :: ls, s, t, h => by
    refine RingsKept.ringsSettled cond ls (t := if cond r then t.settleRing r else t) ?_
    split
    · refine (RingsKept.resumeRing (h.openHead_settles r) r).mono fun q ⟨hq, hne⟩ => hq.imp_right fun ⟨hc, hm⟩ => ?_
      exact ⟨hc, (List.mem_cons.mp hm).resolve_left hne⟩
    · next hc =>
      refine h.mono fun q hq => hq.imp_right fun ⟨hq, hm⟩ => ⟨hq, (List.mem_cons.mp hm).resolve_left fun e => hc (e ▸ hq)⟩

section
variable {L : RingId → Prop} {s t : State} (h : RingsKept L s t)
include h

theorem RingsKept.tearRings (p : PortId) : RingsKept L s (t.tearRings p) := by
  rw [State.tearRings_eq]
  exact RingsKept.ringsSettled _ _ ((h.ringsTorn p).mono fun r hr => hr.imp_right fun e => ⟨e, mem_allRings r⟩)

theorem RingsKept.tearDown (p : PortId) (cause : TeardownCause) : RingsKept L s (t.tearDown p cause) := by
  have hd : RingsKept L s (t.takenDown p cause) := by
    unfold State.takenDown
    split <;> exact h.same rfl rfl
  rw [State.tearDown_eq]
  exact (((hd.tearLocks p).tearRings p).tearChans p).finishTeardown p

/-! ## Access path -/

theorem RingsKept.toMemory (p : PortId) (k : AccKind) (a : Addr) (g : Option WatchTag) :
    RingsKept L s (t.toMemory p k a g) := h.same rfl rfl

theorem RingsKept.takeNotice (p : PortId) : RingsKept L s (t.takeNotice p) := by
  unfold State.takeNotice
  split
  · exact h
  · split
    · exact h.modCtl p _
    · exact h

theorem RingsKept.writeEnd (p : PortId) (v : Word) : RingsKept L s (t.writeEnd p v) := by
  unfold State.writeEnd State.endUrgent State.endSlot
  repeat' split
  all_goals first | exact h.refuse _ _ | exact h.same rfl rfl

theorem RingsKept.writeThreshold (p : PortId) (v : Word) : RingsKept L s (t.writeThreshold p v) := by
  unfold State.writeThreshold
  split
  · exact h.same rfl rfl
  · exact h.refuse _ _

theorem RingsKept.writeSignal (p : PortId) (v : Word) : RingsKept L s (t.writeSignal p v) := by
  unfold State.writeSignal
  split
  · exact (h.deliver _ _ _).completeCycle p _
  · exact h.refuse _ _

theorem RingsKept.doControl (c : Control) : RingsKept L s (t.doControl c) := by
  cases c with
  | dropPort n =>
    show RingsKept L s (t.doDropPort n)
    unfold State.doDropPort
    split
    · exact (h.setWait 0 _).tearDown n _
    · exact h.completeCycle 0 _
  | ringReset r =>
    show RingsKept L s (t.doRingReset r)
    unfold State.doRingReset
    split
    · exact (h.resetRing r).completeCycle 0 _
    · exact h.completeCycle 0 _
  | lockFree l =>
    show RingsKept L s (t.doLockFree l)
    unfold State.doLockFree
    dsimp only
    split
    · exact (h.forceLock l _).setWait 0 _
    · exact (h.forceLock l _).completeCycle 0 _
  | clearFault => exact h.same rfl rfl

theorem RingsKept.readPortWord (p : PortId) (k : Fin 16) : RingsKept L s (t.readPortWord p k) := by
  unfold State.readPortWord
  split
  case h_1 =>
    unfold State.readTake State.completeRead
    exact (h.takeNotice p).completeCycle p _
  case h_14 => exact h.refuse _ _
  all_goals exact h.same rfl rfl

theorem RingsKept.writePortWord (p : PortId) (k : Fin 16) (v : Word) : RingsKept L s (t.writePortWord p k v) := by
  unfold State.writePortWord
  split
  · exact h.writeEnd p v
  · exact h.same rfl rfl
  · exact h.same rfl rfl
  · exact h.same rfl rfl
  · exact h.writeThreshold p v
  · exact h.writeSignal p v
  · unfold State.writeControl
    split
    · exact h.doControl _
    · exact h.refuse _ _
  · exact h.refuse _ _

theorem RingsKept.portWindow (p : PortId) (k : Fin 16) (d : Dir) (v : Word) : RingsKept L s (t.portWindow p k d v) := by
  unfold State.portWindow
  repeat' split
  all_goals first | exact h.refuse _ _ | exact h.readPortWord p k | exact h.writePortWord p k v

theorem RingsKept.ringCycle (p : PortId) (r : RingId) (o : Nat) (d : Dir) (v : Word) :
    RingsKept L s (t.ringCycle p r o d v) := by
  unfold State.ringCycle State.readFree
  repeat' split
  · exact h.ringArrive r _
  · exact h.completeCycle p _
  · exact h.refuse _ _
  · exact h.ringArrive r _

theorem RingsKept.lockCycle (p : PortId) (k o : Nat) (d : Dir) : RingsKept L s (t.lockCycle p k o d) := by
  unfold State.lockCycle State.lockRead State.completeRead
  dsimp only
  split
  · exact (h.readLock _ _ _).completeCycle p _
  · exact h.writeLock p _

theorem RingsKept.chanCycle (p : PortId) (k o : Nat) (d : Dir) (v : Word) : RingsKept L s (t.chanCycle p k o d v) := by
  unfold State.chanCycle
  dsimp only
  split
  · exact h.completeCycle p _
  · exact h.writeChan p _ _ v

theorem RingsKept.rightfulCycle (p : PortId) (w : WinId) (d : Dir) (a : Addr) (v : Word) :
    RingsKept L s (t.rightfulCycle p w d a v) := by
  unfold State.rightfulCycle State.watchCycle
  dsimp only
  split
  case h_3 => exact h.ringCycle p _ _ d v
  case h_4 => exact h.lockCycle p _ _ d
  case h_5 => exact h.chanCycle p _ _ d v
  case h_2 => split <;> exact h.toMemory p _ a _
  all_goals exact h.toMemory p _ a _

theorem RingsKept.windowCycle (p : PortId) (w : WinId) (d : Dir) (a : Addr) (v : Word) :
    RingsKept L s (t.windowCycle p w d a v) := by
  unfold State.windowCycle
  split
  · exact h.refuse _ _
  · split
    · exact h.rightfulCycle p w d a v
    · exact h.refuse _ _

/-! ## Memory port and ticks -/

theorem RingsKept.judge (g : Option WatchTag) (k : AccKind) (o : Option (Word × Bool)) : RingsKept L s (t.judge g k o) :=
  h.quiet ((Quiet.refl t).judge g k o) (by
    unfold State.judge
    repeat' split
    all_goals first | exact State.deliver_rings _ _ _ _ | rfl)

theorem RingsKept.portDone (p : PortId) (k : AccKind) (w : Word) : RingsKept L s (t.portDone p k w) := by
  unfold State.portDone
  split <;> exact h.completeCycle p _

theorem RingsKept.ringEffect (r : RingId) (f : InFlight) : RingsKept L s (t.ringEffect r f) := by
  unfold State.ringEffect
  split
  · split
    · exact h.postWritten r
    · exact h.takeRead r
  · exact h

theorem RingsKept.ringReport (q : Request) (f : InFlight) (w : Word) : RingsKept L s (t.ringReport q f w) := by
  unfold State.ringReport
  split
  · split
    · exact h
    · exact h.portDone _ _ _
  · split
    · exact h.wordDone _ _
    · exact h.settleStop _

theorem RingsKept.ringDone (r : RingId) (q : Request) (w : Word) : RingsKept L s (t.ringDone r q w) := by
  unfold State.ringDone
  split
  · exact h
  · exact ((((h.modRing r .of_same).ringEffect r _).finishLeaving r _).ringReport q _ w).resumeRing r

theorem RingsKept.passResult (q : Request) (w : Word) (b : Bool) : RingsKept L s (t.passResult q w b) := by
  unfold State.passResult
  split
  · split
    · exact h
    · exact h.portDone _ _ _
  · exact h.ringDone _ q w
  · split
    · exact h.settleStop _
    · exact h.chanAccessDone _ _ w b
  all_goals exact h

theorem RingsKept.reportParity (a : Addr) (c : Nat) : RingsKept L s (t.reportParity a c) :=
  RingsKept.deliver (t := { t with fault := loadFault t.fault a c }) (h.same rfl rfl) _ _ _

theorem RingsKept.reportIf (b : Bool) (a : Addr) (c : Nat) : RingsKept L s (t.reportIf b a c) := by
  unfold State.reportIf
  split
  · exact h.reportParity a c
  · exact h

/-- An access touches the memory alone. -/
theorem RingsKept.memEffect (q : Request) (u : Upset) : RingsKept L s (t.memEffect q u) := by
  rw [State.memEffect_eq]
  exact h.same rfl rfl

theorem RingsKept.grantedDone (a : Access) (u : Upset) : RingsKept L s (t.grantedDone a u) :=
  ((((h.same (u := { t with inProg := none }) rfl rfl).memEffect a.req u).reportIf _ _ _).judge _ _ _).passResult _ _ _

theorem RingsKept.grant (u : Upset) : RingsKept L s (t.grant u) := by
  have hb (q : Fin 5) (r : Request) : RingsKept L s (t.beginAccess q r u) := by
    unfold State.beginAccess
    dsimp only
    split
    · rw [State.memUpset_eq]
      exact h.same rfl rfl
    · exact h.same rfl rfl
  unfold State.grant
  repeat' split
  all_goals first | exact hb _ _ | exact h

theorem RingsKept.stallExpires (r : RingId) (p : PortId) : RingsKept L s (t.stallExpires r p) := by
  unfold State.stallExpires
  split
  · exact (h.modRing r (.of_same (hs := List.filter_sublist))).refuseFull r p
  · exact h

theorem RingsKept.settleDue : RingsKept L s t.settleDue := by
  refine RingsKept.foldl (fun r k => RingsKept.foldl (fun p k => k.stallExpires r p) _ k) _
    (RingsKept.foldl (fun l k => ?_) _ h)
  unfold State.leaseExpires
  split
  · exact k.forceLock l _
  · exact k

theorem RingsKept.countDown : RingsKept L s t.countDown :=
  RingsKept.foldl (fun r k => k.modRing r (Ring.Keeps.ticked _ _)) _ (RingsKept.foldl (fun l k => k.modLock l _) _ h)

theorem RingsKept.setTick (n : Nat) : RingsKept L s { t with tick := n } := h.same rfl rfl

theorem RingsKept.boundary : RingsKept L s t.boundary := by
  unfold State.boundary
  split
  · exact h.settleDue.countDown.setTick 0
  · exact h

theorem RingsKept.clockPeriod : RingsKept L s t.clockPeriod := by
  unfold State.clockPeriod
  dsimp only
  split
  · split
    · exact h.settleDue.boundary
    · exact h.settleDue.setTick _
  · exact h

end

/-! ## The laws of all rings: what the table unit, the resets and the start-up keep besides -/

/-- Both laws are kept. -/
structure RingLawsKept (s t : State) : Prop where
  rings : s.ringLaw → t.ringLaw
  stalls : s.stallLaw → t.stallLaw

theorem RingsKept.laws {s t : State} (h : RingsKept (fun _ => False) s t) : RingLawsKept s t := by
  refine ⟨fun hs r => ?_, fun hs r => ?_⟩
  · rw [h.recs]
    exact h.law r (hs r)
  · obtain ⟨hq, hk⟩ := (s.stallLaw_iff r).mp (hs r)
    rw [State.stallLaw_iff, h.recs]
    exact ⟨h.queue r hq, h.settled r id hk⟩

theorem RingLawsKept.refl (s : State) : RingLawsKept s s := ⟨id, id⟩

theorem RingLawsKept.foldl {α : Type} {f : State → α → State}
    (hf : ∀ {s t : State} (a : α), RingLawsKept s t → RingLawsKept s (f t a)) :
    ∀ (l : List α) {s t : State}, RingLawsKept s t → RingLawsKept s (l.foldl f t)
  | [], _, _, h => h
  | a :: l, _, _, h => RingLawsKept.foldl hf l (hf a h)

/-- Power-on rings are empty. -/
theorem RingLawsKept.of_reset {s t : State} (h : t.rings = State.reset.rings) : RingLawsKept s t := by
  have hr (r : RingId) : t.rings[r] = Ring.reset := by rw [h, State.reset_ring]
  refine ⟨fun _ r => ?_, fun _ r => ?_⟩
  · rw [hr]
    exact Ring.law_reset _
  · rw [State.stallLaw_iff, hr]
    exact ⟨⟨.nil, fun _ e => nomatch e⟩, fun _ _ => rfl⟩

theorem State.deliver_recs (s : State) (p : PortId) (src : Source) (d : Word) : (s.deliver p src d).recs = s.recs := by
  rw [State.deliver_eq]

section
variable {s t : State} (h : RingLawsKept s t)
include h

/-- Blocks below the table unit keep the laws. -/
theorem RingLawsKept.then {u : State} (k : RingsKept (fun _ => False) t u) : RingLawsKept s u :=
  ⟨fun hs => k.laws.rings (h.rings hs), fun hs => k.laws.stalls (h.stalls hs)⟩

theorem RingLawsKept.same {u : State} (hr : u.rings = t.rings) (hc : u.recs = t.recs) : RingLawsKept s u :=
  h.then ((RingsKept.refl _ t).same hr hc)

/-- A change of records that keeps the rings' capacities. -/
theorem RingLawsKept.modRec (r : RingId) {f : RingRec → RingRec} (hf : ∀ k, (f k).data = k.data) :
    RingLawsKept s (t.modRec r f) := by
  have hc (q : RingId) : (t.modRec r f).recs[q].capacity = t.recs[q].capacity := by
    show (upd t.recs r f)[q].capacity = _
    rw [upd_get]
    split
    · next e => subst e; unfold RingRec.capacity; rw [hf]
    · rfl
  refine ⟨fun hs q => ?_, fun hs q => ?_⟩
  · rw [hc]
    exact h.rings hs q
  · have := (t.stallLaw_iff q).mp (h.stalls hs q)
    rwa [State.stallLaw_iff, hc]

end

/-! ### Commits (R91) -/

/-- What of a ring without an assembly stays true when posts no longer count survives a stop by a ring reset. -/
theorem State.stopByReset_ring {P : Ring → Prop} (hp : ∀ k, P k → k.postAsm = none) (hu : ∀ k c, P k → P (k.unlive c))
    {s : State} {q : RingId} (h : P s.rings[q]) (c : ChanId) : P (s.stopByReset c).rings[q] := by
  have hd : (s.detachChan c).rings[q] = s.rings[q].unlive c := by
    show (Vector.ofFn fun r : RingId => (s.rings[r]).unlive c)[q] = _
    rw [Fin.getElem_fin, Vector.getElem_ofFn]
  have hk : P (s.detachChan c).rings[q] := hd ▸ hu _ c h
  unfold State.stopByReset
  split
  · exact h
  · rwa [State.endRunByReset_unowned (hp _ hk)]

/-- What of a cleared ring stays true when posts no longer count is true of the ring after its reset (R89). -/
theorem State.resetRing_ring {P : Ring → Prop} (hp : ∀ k, P k → k.postAsm = none) (hu : ∀ k c, P k → P (k.unlive c))
    {s : State} {r : RingId} (h : P s.rings[r].cleared) : P (s.resetRing r).rings[r] := by
  have h0 : P (s.modRing r (·.cleared)).rings[r] := by rwa [State.modRing_ring_same]
  have h1 : P ((s.modRing r (·.cleared)).resetAwaiting s.rings[r].awaiting).rings[r] := by
    unfold State.resetAwaiting
    repeat' split
    · rwa [State.refuse_rings]
    · exact h0
    · exact h0
  have h2 (l : List StallEntry) {t : State} (ht : P t.rings[r]) :
      P (l.foldl (fun t e => t.resetClaimant e.post) t).rings[r] := by
    induction l generalizing t with
    | nil => exact ht
    | cons e l ih =>
      refine ih ?_
      show P (t.resetClaimant e.post).rings[r]
      unfold State.resetClaimant
      split
      · rwa [State.refuse_rings]
      · exact State.stopByReset_ring hp hu ht _
  unfold State.resetRing State.resetOwner
  dsimp only
  repeat' split
  · exact State.stopByReset_ring hp hu (h2 _ h1) _
  all_goals exact h2 _ h1

theorem State.resetRing_stall (s : State) (r : RingId) : (s.resetRing r).rings[r].stall = [] := by
  refine (State.resetRing_ring (P := fun k => k.postAsm = none ∧ k.stall = []) (fun _ => And.left)
    (fun k c ⟨hp, hs⟩ => ⟨hp, ?_⟩) ⟨rfl, rfl⟩).2
  show List.map _ k.stall = []
  rw [hs]
  rfl

section
variable {s t : State} (h : RingLawsKept s t)
include h

/-- The new record finds its ring empty. -/
theorem RingLawsKept.installRing (r : RingId) (d : Vector Word 7) (en : Bool) : RingLawsKept s (t.installRing r d en) := by
  have k := h.then ((RingsKept.refl _ t).resetRing r)
  have hrec (q : RingId) (n : q ≠ r) : (t.installRing r d en).recs[q] = (t.resetRing r).recs[q] := by
    show (upd (t.resetRing r).recs r _)[q] = _
    rw [upd_get, if_neg fun e => n e.symm]
  have hs := t.resetRing_stall r
  refine ⟨fun hr q => ?_, fun hr q => ?_⟩
  · by_cases e : q = r
    · subst e; exact (t.resetRing_clear q).law _
    · rw [hrec q e]; exact k.rings hr q
  · by_cases e : q = r
    · subst e
      rw [State.stallLaw_iff]
      refine ⟨?_, fun _ _ => hs⟩
      show Ring.queueLaw (t.resetRing q).rings[q]
      unfold Ring.queueLaw
      rw [hs]
      exact ⟨.nil, fun _ e => nomatch e⟩
    · have := ((t.resetRing r).stallLaw_iff q).mp (k.stalls hr q)
      rwa [State.stallLaw_iff, hrec q e]

theorem RingLawsKept.deliver (p : PortId) (src : Source) (d : Word) : RingLawsKept s (t.deliver p src d) :=
  h.then ((RingsKept.refl _ t).deliver p src d)

theorem RingLawsKept.rejectTable (n : Nat) (x : TableReason) : RingLawsKept s (t.rejectTable n x) := h.deliver _ _ _

theorem RingLawsKept.commitRing (r : RingId) (v : Word) : RingLawsKept s (t.commitRing r v) := by
  unfold State.commitRing
  dsimp only
  split
  · exact (h.modRec r (f := (·.unstage)) fun _ => rfl).rejectTable _ _
  · split
    · exact h.installRing r _ _
    · split
      · exact h.installRing r _ _
      · exact (h.modRec r (f := (·.unstage)) fun _ => rfl).rejectTable _ _

theorem RingLawsKept.modWin (w : WinId) (f : WinEntry → WinEntry) : RingLawsKept s (t.modWin w f) := h.same rfl rfl

theorem RingLawsKept.commitWin (w : WinId) (v : Word) : RingLawsKept s (t.commitWin w v) := by
  unfold State.commitWin
  dsimp only
  repeat' split
  all_goals first | exact h.modWin w _ | exact (h.modWin w _).rejectTable _ _

theorem RingLawsKept.setBinding (p : PortId) (i : SlotId) (b : Option Binding) : RingLawsKept s (t.setBinding p i b) :=
  h.same rfl rfl

theorem RingLawsKept.writeBinding (p : PortId) (i : SlotId) (v : Word) : RingLawsKept s (t.writeBinding p i v) := by
  unfold State.writeBinding
  split
  · exact h.setBinding p i _
  · exact (h.setBinding p i _).rejectTable _ _

theorem RingLawsKept.applyTable (k : TableWord) (v : Word) : RingLawsKept s (t.applyTable k v) := by
  cases k with
  | header n => exact h.same rfl rfl
  | winData w k => exact h.modWin w _
  | winCtl w => exact h.commitWin w v
  | ringData r k => exact h.modRec r fun _ => rfl
  | ringCtl r => exact h.commitRing r v
  | lease l => exact h.same rfl rfl
  | binding p i => exact h.writeBinding p i v
  | plain => exact h

theorem RingLawsKept.damageTable (k : TableWord) : RingLawsKept s (t.damageTable k) := by
  cases k with
  | winData w k => exact h.modWin w _
  | winCtl w => exact h.modWin w _
  | ringData r k => exact h.modRec r fun _ => rfl
  | ringCtl r => exact h.modRec r fun _ => rfl
  | binding p i => exact h.setBinding p i none
  | header n => exact h
  | lease l => exact h
  | plain => exact h

theorem RingLawsKept.tableCycle (p : PortId) (o : Nat) (d : Dir) (a : Addr) (v : Word) :
    RingLawsKept s (t.tableCycle p o d a v) := by
  unfold State.tableCycle
  split
  · exact h.same rfl rfl
  · split
    · exact (h.applyTable (tableWordOf o) v).then ((RingsKept.refl _ _).toMemory p _ a none)
    · exact h.then ((RingsKept.refl _ t).refuse p _)

/-! ### Cycles -/

theorem RingLawsKept.arrive (p : PortId) (d : Dir) (a : Addr) (v : Word) : RingLawsKept s (t.arrive p d a v) := by
  have k := RingsKept.refl (fun _ => False) t
  unfold State.arrive
  split
  · exact h.then (k.portWindow p _ d v)
  · exact h.tableCycle p _ d a v
  · exact h.then (k.refuse p _)
  · exact h.then (k.windowCycle p _ d a v)
  · exact h.then (k.toMemory p _ a none)

theorem RingLawsKept.modPort (p : PortId) (f : Port → Port) : RingLawsKept s (t.modPort p f) := h.same rfl rfl

theorem RingLawsKept.present (p : PortId) (d : Dir) (a : Addr) (v : Word) : RingLawsKept s (t.present p d a v) := by
  unfold State.present
  split
  · exact h
  · split
    · exact h
    · exact h.modPort p _
    · exact (h.modPort p _).arrive p d a v

/-! ### Resets and start-up (R169 to R175) -/

theorem RingLawsKept.powerDown : RingLawsKept s t.powerDown := by
  unfold State.powerDown
  split
  · exact .of_reset rfl
  · exact h

theorem RingLawsKept.rstnFalls : RingLawsKept s t.rstnFalls := by
  unfold State.rstnFalls
  split
  · split
    · exact h.same rfl rfl
    · exact .of_reset rfl
  · exact h

theorem RingLawsKept.startAccess (k : AccKind) (i : Issuer) (o : Nat) : RingLawsKept s (t.startAccess k i o) :=
  h.same rfl rfl

theorem RingLawsKept.powerUp : RingLawsKept s t.powerUp := by
  unfold State.powerUp
  split
  · exact h
  · exact h.same rfl rfl

theorem RingLawsKept.beginSweep : RingLawsKept s t.beginSweep := by
  unfold State.beginSweep
  split
  · exact h.startAccess _ _ _
  · exact h

theorem RingLawsKept.rstnRises : RingLawsKept s t.rstnRises := by
  unfold State.rstnRises
  split
  · exact h
  · exact RingLawsKept.beginSweep (h.same rfl rfl)

theorem RingLawsKept.leaveOff (p : PortId) : RingLawsKept s (t.leaveOff p) := by
  unfold State.leaveOff
  dsimp only
  split <;> exact h.same rfl rfl

theorem RingLawsKept.arriveHeld (p : PortId) : RingLawsKept s (t.arriveHeld p) := by
  unfold State.arriveHeld
  split
  · exact h
  · split
    · exact (h.modPort p _).arrive p _ _ _
    · exact h

theorem RingLawsKept.endStartUp : RingLawsKept s t.endStartUp := by
  have k : RingLawsKept s (allPorts.foldl (fun (u : State) p => u.leaveOff p) { t with part := .running }) :=
    RingLawsKept.foldl (fun p k => k.leaveOff p) _ (h.same rfl rfl)
  unfold State.endStartUp State.arriveAll
  split
  · exact RingLawsKept.foldl (fun p k => k.arriveHeld p) _ k
  · exact RingLawsKept.foldl (fun p k => k.arriveHeld p) _ (k.same rfl rfl)

theorem RingLawsKept.clearDone (i : Nat) (a : Addr) : RingLawsKept s (t.clearDone i a) := by
  have k : RingLawsKept s (({ t with inProg := none }).memWrite a 0) := h.same rfl rfl
  unfold State.clearDone
  dsimp only
  split
  · exact k.startAccess _ _ _
  · split
    · exact k.endStartUp
    · exact .of_reset rfl

theorem RingLawsKept.takeSwept (o : Nat) (c : MemCell) : RingLawsKept s (t.takeSwept o c) := by
  unfold State.takeSwept
  split
  · exact ((h.then ((RingsKept.refl _ t).reportParity _ _)).damageTable _).rejectTable _ _
  · exact h.applyTable _ _

theorem RingLawsKept.sweepDone (i : Nat) (a : Addr) (u : Upset) : RingLawsKept s (t.sweepDone i a u) := by
  have k : RingLawsKept s (({ t with inProg := none }).memUpset a u) := by
    rw [State.memUpset_eq]
    exact h.same rfl rfl
  unfold State.sweepDone
  dsimp only
  split
  · exact (k.takeSwept _ _).startAccess _ _ _
  · exact (k.takeSwept _ _).endStartUp

theorem RingLawsKept.staleDone (a : Access) (u : Upset) : RingLawsKept s (t.staleDone a u) := by
  have k := h.then ((RingsKept.refl _ t).same (u := { t with inProg := none }) rfl rfl |>.memEffect a.req u)
  unfold State.staleDone
  exact RingLawsKept.beginSweep (k.same rfl rfl)

/-! ### Accesses -/

theorem RingLawsKept.completeAccess (u : Upset) : RingLawsKept s (t.completeAccess u) := by
  have k (a : Access) : RingLawsKept s (t.grantedDone a u) := h.then ((RingsKept.refl _ t).grantedDone a u)
  unfold State.completeAccess
  split
  · exact h
  · split
    · exact h.clearDone _ _
    · exact h.sweepDone _ _ u
    · exact h.staleDone _ u
    all_goals exact k _

theorem RingLawsKept.completeClear : RingLawsKept s t.completeClear := by
  unfold State.completeClear
  repeat' split
  · exact h.clearDone _ _
  all_goals exact h

theorem RingLawsKept.completeSweep (u : Upset) : RingLawsKept s (t.completeSweep u) := by
  unfold State.completeSweep
  repeat' split
  · exact h.sweepDone _ _ u
  · exact h.staleDone _ u
  all_goals exact h

theorem RingLawsKept.completeStop (c : ChanId) (u : Upset) : RingLawsKept s (t.completeStop c u) := by
  unfold State.completeStop
  repeat' split
  · exact h
  · exact h.completeAccess u
  · exact h.then ((RingsKept.refl _ t).settleStop c)

theorem RingLawsKept.prstnFalls (p : PortId) : RingLawsKept s (t.prstnFalls p) := by
  unfold State.prstnFalls
  dsimp only
  split
  · exact h.then (((RingsKept.refl _ t).modPort p _).tearDown p _)
  · exact h.modPort p _

end

/-! ## Every command, and every step -/

/-- A command that is no cycle. -/
theorem RingLawsKept.exec_of_event {i : Instr} {s t : State} (h : exec i s = .next t) (hcy : cycleOf i = none) :
    RingLawsKept s t := by
  have k := RingLawsKept.refl s
  have l := RingsKept.refl (fun _ => False) s
  cases i with
  | ponnLow => cases h; exact k.powerDown
  | ponnHigh => cases h; exact k.powerUp
  | coldClearWriteComplete => cases h; exact k.completeClear
  | rstnLow => cases h; exact k.rstnFalls
  | sweepStart => cases h; exact k.rstnRises
  | sweepReadComplete u => cases h; exact k.completeSweep u
  | portReset p => cases h; exact k.prstnFalls p
  | teardownComplete p => cases h; exact (l.finishTeardown p).laws
  | portUp p => cases h; exact k.modPort p _
  | strobeNegated p => cases h; exact k.modPort p _
  | holdListTakeUp r => cases h; exact (l.resumeRing r).laws
  | stalledPostOpen r => cases h; exact (l.openHead r).laws
  | stallLimitExpiry r p => cases h; exact (l.stallExpires r p).laws
  | lockHandover l' =>
    cases h
    split
    · exact (l.releaseLock l').laws
    · exact k
  | leaseExpiry l' =>
    cases h
    unfold State.leaseExpires
    split
    · exact (l.forceLock l' _).laws
    · exact k
  | tickBoundary => cases h; exact l.boundary.laws
  | stopPendingComplete c u => cases h; exact k.completeStop c u
  | channelPick => cases h; exact l.pickChan.laws
  | arbiterGrant u => cases h; exact (l.grant u).laws
  | memoryAccessComplete u => cases h; exact k.completeAccess u
  | _ => cases hcy

theorem RingLawsKept.exec {i : Instr} {s t : State} (h : exec i s = .next t) : RingLawsKept s t := by
  cases hcy : cycleOf i with
  | some x =>
    obtain ⟨p, d, a, v⟩ := x
    rw [exec_of_cycleOf hcy] at h
    cases h
    exact (RingLawsKept.refl s).present p d a v
  | none => exact .exec_of_event h hcy

theorem RingLawsKept.step {s t : State} (h : step s = .next t) : RingLawsKept s t := by
  unfold Machine.step at h
  split at h
  · cases h
    exact (RingsKept.refl _ s).clockPeriod.laws
  · next c rest _ =>
    have k : RingLawsKept { s with pending := rest } t := .exec h
    exact ⟨k.rings, k.stalls⟩

/-- Settles O58: every operation of the ring engine keeps the laws of its ring, and where the opening condition may have become true
the head of the stall queue opens before the operation ends. -/
theorem ringLawKept : Obligations.RingLawKept := by
  unfold Obligations.RingLawKept
  intro s t h
  exact ⟨(RingLawsKept.step h).rings, (RingLawsKept.step h).stalls⟩

end Sys2Proof.Machine

/-! PROOFS. Posts and takes at a ring in the words of the specification: how they are taken up (R69 to R74, R79), from a cycle that
arrives (O38, O39) and from the hold list and the stall queue (O41). -/

namespace Sys2Proof.Machine

/-! ## Issue and opening (R70, R76, R138) -/

theorem State.issueRing_of_port {q : Post} {p : PortId} (h : q.who = .port p) (s : State) (r : RingId) (d : Dir) (x : Addr) :
    s.issueRing r q d x = s.portIssued r p q d x := by
  unfold State.issueRing State.portIssued ringRequest Post.kind
  rw [h]
  cases d <;> rfl

theorem State.issuePost_eq (s : State) (r : RingId) (q : Post) :
    s.issuePost r q = s.postInFlightAt r q (s.recs[r].wordAddr s.rings[r].tail s.rings[r].postWords) := by
  unfold State.issuePost State.postInFlightAt
  obtain ⟨who, word, live⟩ := q
  cases who with
  | port p => exact State.issueRing_of_port rfl _ _ _ _
  | chan c => rfl

theorem Ring.postWords_of {k : Ring} {m : PostAsm} (h : k.postAsm = some m) : k.postWords = m.words := by
  unfold Ring.postWords
  rw [h]

theorem Ring.takeWords_of {k : Ring} {m : TakeAsm} (h : k.takeAsm = some m) : k.takeWords = m.words := by
  unfold Ring.takeWords
  rw [h]

/-- Ring `r` with a post assembly of this claimant, opened and without words (R70). -/
abbrev State.openedFor (s : State) (r : RingId) (c : Claimant) : State :=
  s.modRing r fun k => { k with postAsm := some { owner := c, words := 0 } }

theorem State.openPost_idle {s : State} {r : RingId} (h : s.rings[r].inFlight = none) (q : Post) :
    s.openPost r q = (s.openedFor r q.who).postInFlightAt r q (s.recs[r].wordAddr s.rings[r].tail 0) := by
  have hr := s.modRing_ring_same r fun k => { k with postAsm := some { owner := q.who, words := 0 } }
  unfold State.openPost
  dsimp only
  rw [hr, h, State.issuePost_eq, hr]
  rfl

theorem State.openPost_busy {s : State} {r : RingId} (h : s.rings[r].inFlight.isSome = true) (q : Post) :
    s.openPost r q = match q.who with
      | .port p => ((s.openedFor r q.who).modRing r fun k => { k with awaiting := some q }).setWait p (.ringAwait r)
      | .chan _ => (s.openedFor r q.who).modRing r fun k => { k with awaiting := some q } := by
  have hr := s.modRing_ring_same r fun k => { k with postAsm := some { owner := q.who, words := 0 } }
  unfold State.openPost
  dsimp only
  rw [hr, if_pos h] <;> rfl

theorem State.openingCond_true {s : State} {r : RingId} (hp : s.rings[r].postAsm = none)
    (hc : s.rings[r].count < s.recs[r].capacity) : s.openingCond r = true := (s.openingCond_iff r).mpr ⟨hc, hp⟩

theorem State.openingCond_false {s : State} {r : RingId}
    (h : s.rings[r].postAsm.isSome = true ∨ s.recs[r].capacity ≤ s.rings[r].count) : s.openingCond r = false := by
  rw [Bool.eq_false_iff]
  intro ho
  obtain ⟨hc, hp⟩ := (s.openingCond_iff r).mp ho
  obtain h | h := h
  · rw [hp] at h
    exact Bool.noConfusion h
  · omega

/-! ## Refusals (R17, R18) -/

theorem State.refuse_of_cycle {s : State} {p : PortId} {c : Cycle} (h : s.ports[p].cycle = some c) (x : Reason) :
    s.refuse p x = s.refusedHeld p c x := by
  have hc : ((s.deliver p .refusal (BitVec.ofNat 16 x.code)).modPort p fun pt =>
      { pt with refusal := loadRefusal pt.refusal c.addr c.dir x }).ports[p].cycle = some c := by
    rw [State.modPort_port_same, State.deliver_ports]
    exact h
  unfold State.refuse State.refusedHeld
  rw [h]
  dsimp only
  rw [State.deliver_modPort]
  · rw [State.completeCycle_of_cycle hc, State.modPort_modPort]
    refine State.modPort_congr _ _ ?_
    unfold loadRefusal refusedEnd CycleEnd.pd
    cases c.dir <;> cases (s.deliver p Source.refusal (BitVec.ofNat 16 x.code)).ports[p].refusal <;> rfl
  · exact fun _ => rfl

/-- A RING_FULL refusal of a held cycle: RING-FAULT to the producer first (R73, R77, R84). -/
theorem State.refuseFull_of_cycle {s : State} {p : PortId} {c : Cycle} (h : s.ports[p].cycle = some c) (r : RingId) :
    s.refuseFull r p =
      (s.deliver s.recs[r].producer (.ringFault r) (BitVec.ofNat 16 p.val)).refusedHeld p c .ringFull := by
  have hc : (s.deliver s.recs[r].producer (.ringFault r) (BitVec.ofNat 16 p.val)).ports[p].cycle = some c := by
    rw [State.deliver_ports]
    exact h
  exact State.refuse_of_cycle hc _

/-! ## A post is taken up (R69 to R74) -/

section
variable {s : State} {r : RingId} {q : Post}

theorem State.takeUpPost_disabled (he : s.recs[r].enable = false) : s.takeUpPost r q = match q.who with
    | .port p => s.refuse p .ringDisabled
    | .chan c => s.stopChan c .ringReset := by
  unfold State.takeUpPost
  rw [he]
  rfl

theorem State.takeUpPost_enabled (he : s.recs[r].enable = true) : s.takeUpPost r q =
    if s.rings[r].ownsPost q.who then s.issuePost r q
    else if s.openingCond r then s.openPost r q
    else match q.who with
      | .port p =>
        if s.recs[r].policy = 1 then s.joinStall r q
        else if s.rings[r].count = s.recs[r].capacity then s.refuseFull r p
        else s.refuse p .ringAssembly
      | .chan _ => s.joinStall r q := by
  unfold State.takeUpPost
  rw [he]
  rfl

theorem State.takeUpPost_later {m : PostAsm} (he : s.recs[r].enable = true) (hm : s.rings[r].postAsm = some m)
    (ho : m.owner = q.who) :
    s.takeUpPost r q = s.postInFlightAt r q (s.recs[r].wordAddr s.rings[r].tail m.words) := by
  rw [State.takeUpPost_enabled he, if_pos ((Ring.ownsPost_iff _ _).mpr ⟨m, hm, ho⟩), State.issuePost_eq, Ring.postWords_of hm]

theorem State.takeUpPost_opens (he : s.recs[r].enable = true) (hi : s.rings[r].inFlight = none)
    (hp : s.rings[r].postAsm = none) (hc : s.rings[r].count < s.recs[r].capacity) :
    s.takeUpPost r q = (s.openedFor r q.who).postInFlightAt r q (s.recs[r].wordAddr s.rings[r].tail 0) := by
  have ho : s.rings[r].ownsPost q.who = false := Ring.ownsPost_false fun m e => nomatch hp.symm.trans e
  rw [State.takeUpPost_enabled he, ho, if_neg Bool.false_ne_true, State.openingCond_true hp hc, if_pos rfl,
    State.openPost_idle hi]

/-- A post that neither goes on nor opens (R73, R74). -/
theorem State.takeUpPost_blocked (he : s.recs[r].enable = true) (ho : ∀ m, s.rings[r].postAsm = some m → m.owner ≠ q.who)
    (hb : s.rings[r].postAsm.isSome = true ∨ s.recs[r].capacity ≤ s.rings[r].count) : s.takeUpPost r q = match q.who with
      | .port p =>
        if s.recs[r].policy = 1 then s.joinStall r q
        else if s.rings[r].count = s.recs[r].capacity then s.refuseFull r p
        else s.refuse p .ringAssembly
      | .chan _ => s.joinStall r q := by
  rw [State.takeUpPost_enabled he, Ring.ownsPost_false ho, if_neg Bool.false_ne_true, State.openingCond_false hb,
    if_neg Bool.false_ne_true]

theorem State.joinStall_port {p : PortId} (h : q.who = .port p) : s.joinStall r q =
    (s.modRing r fun k => { k with
      stall := (k.stall.filter fun e => decide (e.post.who ≠ .port p)) ++
        [{ post := q, ticks := some (s.recs[r].data[(4 : Fin 7)]).toNat }] }).setWait p (.ringStall r) := by
  unfold State.joinStall Ring.stalled Ring.withoutStalled
  rw [h]
  rfl

/-- A channel is in STALL while a live post of it stands in a stall queue (R86). -/
theorem State.joinStall_chan {c : ChanId} (h : q.who = .chan c) : s.joinStall r q =
    (s.modRing r fun k => { k with
      stall := (k.stall.filter fun e => decide (e.post.who ≠ .chan c)) ++ [{ post := q, ticks := none }] }).modChan c
        fun k => { k with state := if q.live then .stall else k.state } := by
  unfold State.joinStall Ring.stalled Ring.withoutStalled
  rw [h]
  dsimp only
  cases q.live with
  | true => rfl
  | false =>
    have hc (t : State) : (t.modChan c fun k => { k with state := if false = true then .stall else k.state }) = t := by
      unfold State.modChan
      rw [upd_id _ _ _ rfl]
    exact (hc _).symm

/-- The specification's account of a take-up is what happens (R69 to R74, R82 to R86). -/
theorem PostTakenUp.eq {t : State} (hi : s.rings[r].inFlight = none) (h : PostTakenUp s r q t) : s.takeUpPost r q = t := by
  obtain ⟨he, m, hm, ho, rfl⟩ | ⟨he, hp, hc, rfl⟩ | ⟨he, ht⟩ | ⟨he, hb, ht⟩ := h
  · exact State.takeUpPost_later he hm ho
  · exact State.takeUpPost_opens he hi hp hc
  · rw [State.takeUpPost_disabled he]
    cases hw : q.who with
    | port p =>
      rw [hw] at ht
      obtain ⟨c, hc, rfl⟩ := ht
      exact State.refuse_of_cycle hc _
    | chan c =>
      rw [hw] at ht
      exact ht.symm
  · have ho : ∀ m, s.rings[r].postAsm = some m → m.owner ≠ q.who := by
      obtain ⟨m, hm, hne⟩ | ⟨hn, -⟩ := hb
      · exact fun x hx => Option.some.inj (hm.symm.trans hx) ▸ hne
      · exact fun x hx => nomatch hn.symm.trans hx
    have hb' : s.rings[r].postAsm.isSome = true ∨ s.recs[r].capacity ≤ s.rings[r].count :=
      hb.imp (fun ⟨m, hm, _⟩ => by rw [hm]; rfl) And.right
    rw [State.takeUpPost_blocked he ho hb']
    cases hw : q.who with
    | port p =>
      rw [hw] at ht
      obtain ⟨c, hc, rfl⟩ := ht
      dsimp only
      rw [State.joinStall_port hw, State.refuseFull_of_cycle hc, State.refuse_of_cycle hc]
    | chan c =>
      rw [hw] at ht
      rw [ht]
      exact State.joinStall_chan hw

end

/-! ## A take is taken up (R69, R79) -/

/-- The word that port `p` posts; a take's carries 0. -/
abbrev postOf (p : PortId) (v : Word) : Post := { who := .port p, word := v, live := true }

section
variable {s : State} {r : RingId} {p : PortId}

theorem State.takeUpTake_disabled (he : s.recs[r].enable = false) : s.takeUpTake r p = s.refuse p .ringDisabled := by
  unfold State.takeUpTake
  dsimp only
  rw [he]
  rfl

theorem State.takeUpTake_empty (he : s.recs[r].enable = true) (hc : s.rings[r].count = 0) :
    s.takeUpTake r p = s.refuse p .ringEmpty := by
  unfold State.takeUpTake
  dsimp only
  rw [he, hc]
  rfl

theorem State.takeUpTake_later {m : TakeAsm} (he : s.recs[r].enable = true) (hc : 0 < s.rings[r].count)
    (hm : s.rings[r].takeAsm = some m) : s.takeUpTake r p =
      if m.owner = p then s.portIssued r p (postOf p 0) .read (s.recs[r].wordAddr s.rings[r].head m.words)
      else s.refuse p .ringAssembly := by
  unfold State.takeUpTake
  dsimp only
  rw [he, hm, Ring.takeWords_of hm, if_neg (Nat.pos_iff_ne_zero.mp hc), State.issueRing_of_port rfl]
  rfl

theorem State.takeUpTake_opens (he : s.recs[r].enable = true) (hc : 0 < s.rings[r].count) (hn : s.rings[r].takeAsm = none) :
    s.takeUpTake r p = (s.modRing r fun k => { k with takeAsm := some { owner := p, words := 0 } }).portIssued r p
      (postOf p 0) .read (s.recs[r].wordAddr s.rings[r].head 0) := by
  unfold State.takeUpTake
  dsimp only
  rw [he, hn, if_neg (Nat.pos_iff_ne_zero.mp hc), State.issueRing_of_port rfl, State.modRing_ring_same]
  rfl

/-- The specification's account of an item of the hold list is what happens to it (R68, R69, R79, R82). -/
theorem ItemTakenUp.eq {i : HoldItem} {t : State} (hi : s.rings[r].inFlight = none) (h : ItemTakenUp s r i t) :
    s.takeUp r i = t := by
  cases i with
  | post q => exact PostTakenUp.eq hi h
  | take n =>
    obtain ⟨c, hc, ⟨he, rfl⟩ | ⟨he, h0, rfl⟩ | ⟨he, h0, ⟨m, hm, rfl⟩ | ⟨hn, rfl⟩⟩⟩ := h
    · exact (State.takeUpTake_disabled he).trans (State.refuse_of_cycle hc _)
    · exact (State.takeUpTake_empty he h0).trans (State.refuse_of_cycle hc _)
    · refine (State.takeUpTake_later he h0 hm).trans ?_
      rw [State.refuse_of_cycle hc]
    · exact State.takeUpTake_opens he h0 hn

end

/-! ## Cycles at RING windows (R14) -/

theorem State.rightfulCycle_ring {s : State} {p : PortId} {w : WinId} {r : RingId} {o : Nat} {a : Addr} (d : Dir) (v : Word)
    (hk : s.windows[w].ctl.winKind = some .ring) (hl : s.windows[w].ctl.link.toNat = r.val)
    (hb : a.toNat = winBase s.windows[w].data + o) : s.rightfulCycle p w d a v = s.ringCycle p r o d v := by
  have hf : Fin.ofNat 8 s.windows[w].ctl.link.toNat = r :=
    Fin.ext ((congrArg (· % 8) hl).trans (Nat.mod_eq_of_lt r.isLt))
  unfold State.rightfulCycle
  dsimp only
  rw [hk, hb, Nat.add_sub_cancel_left, hf]

/-- A rightful cycle at a word of a RING window reaches its ring. -/
theorem exec_ring {i : Instr} {p : PortId} {d : Dir} {a : Addr} {v : Word} {s : State} {w : WinId} {r : RingId} {o : Nat}
    (rd : s.ready p) (h : cycleOf i = some (p, d, a, v)) (ha : s.atRing p d a w r o) (ho : d = .write → o = 0) :
    exec i s = .next ((s.taking p d a v).ringCycle p r o d v) := by
  obtain ⟨hw, hk, hl, hb, hr⟩ := ha
  have ht : (s.taking p d a v).takeWordWrite w d a = false :=
    State.takeWordWrite_false fun hd _ => by rw [ho hd, Nat.add_zero] at hb; exact hb
  rw [exec_window rd h hw, State.windowCycle_rightful _ ht hr]
  exact congrArg _ (State.rightfulCycle_ring d v hk hl hb)

theorem State.ringArrive_busy {s : State} {r : RingId} (h : s.rings[r].inFlight.isSome = true) (i : HoldItem) :
    s.ringArrive r i = (s.modRing r fun k => { k with hold := k.hold ++ [i] }).holdWait r i := by
  unfold State.ringArrive
  rw [if_pos h]

theorem State.ringArrive_idle {s : State} {r : RingId} (h : s.rings[r].inFlight = none) (i : HoldItem) :
    s.ringArrive r i = s.takeUp r i := by
  unfold State.ringArrive
  rw [h]
  rfl

/-- A cycle that is taken and issued at once is held for its redirected access (R70, R79). -/
theorem State.portIssued_accept (s : State) (r : RingId) (p : PortId) (q : Post) (d : Dir) (a : Addr) (v : Word) (x : Addr) :
    (s.taking p d a v).portIssued r p q d x = (s.requested p d a v (.ringAccess r)
      { kind := match d with | .read => .read | .write => .write q.word
        addr := x, code := p.val, issuer := .ring r, watch := none, abandoned := false }).inFlightAt r q d x true := by
  unfold State.taking State.portIssued State.setWait State.requested State.inFlightAt State.modPort State.modReq State.modRing
  simp only [upd_upd]
  rfl

/-- A cycle that is taken and set to wait at a ring. -/
theorem State.setWait_accept (s : State) (r : RingId) (f : Ring → Ring) (p : PortId) (d : Dir) (a : Addr) (v : Word)
    (w : CycleWait) :
    ((s.taking p d a v).modRing r f).setWait p w = (s.modPort p fun pt => pt.holding d a v w).modRing r f := by
  have e : (s.taking p d a v).modRing r f = (s.modRing r f).modPort p fun pt => pt.accept d a v .arriving := rfl
  unfold State.setWait
  rw [e, State.modPort_modPort]
  rfl

/-- Changes that agree on the ring are one. -/
theorem State.modRing_congr {s : State} {r : RingId} {f g : Ring → Ring} (h : f s.rings[r] = g s.rings[r]) :
    s.modRing r f = s.modRing r g := by
  unfold State.modRing
  rw [upd_congr _ _ h]

theorem State.modRing_modRing (s : State) (r : RingId) (f g : Ring → Ring) :
    (s.modRing r f).modRing r g = s.modRing r fun k => g (f k) := by
  simp only [State.modRing, upd_upd]

/-- The access in flight joins what has changed at the ring. -/
theorem State.inFlightAt_requested (s : State) (r : RingId) (f : Ring → Ring) (p : PortId) (d e : Dir) (a x : Addr) (v : Word)
    (w : CycleWait) (y : Request) (q : Post) (b : Bool) :
    ((s.modRing r f).requested p d a v w y).inFlightAt r q e x b = (s.requested p d a v w y).modRing r fun k =>
      { f k with
        inFlight := some { post := q, dir := e, addr := x, attached := true, presented := b, leaving := false } } :=
  State.modRing_modRing (s.requested p d a v w y) r f _

/-- A post of port `p` that arrives at an idle ring is taken up at once. -/
theorem exec_ringPost_idle {s t : State} {p : PortId} {a : Addr} {v : Word} {w : WinId} {r : RingId} (rd : s.ready p)
    (ha : s.atRing p .write a w r 0) (hi : s.rings[r].inFlight = none)
    (h : (s.taking p .write a v).takeUpPost r (postOf p v) = t) : exec (.ringPost p a v) s = .next t := by
  have hx : exec (.ringPost p a v) s = .next ((s.taking p .write a v).ringArrive r (.post (postOf p v))) :=
    exec_ring rd rfl ha fun _ => rfl
  rw [hx, State.ringArrive_idle (s := s.taking p .write a v) hi]
  exact congrArg _ h

/-- Settles O38: the outcomes are the branches of the take-up of a post that has just arrived. -/
theorem postOutcomes : Obligations.PostOutcomes := by
  intro s p a v w r q rd ha hq
  subst hq
  refine ⟨fun hb => ?_, fun hi => ⟨fun he => ?_, fun he => ⟨fun m x hm ho hx => ?_, fun x hp hc hx => ?_, fun ho hb =>
    ⟨fun hp hc => ?_, fun hp hc => ?_, fun hp => ?_⟩⟩⟩⟩
  · have hx : exec (.ringPost p a v) s = .next ((s.taking p .write a v).ringArrive r (.post (postOf p v))) :=
      exec_ring rd rfl ha fun _ => rfl
    rw [hx, State.ringArrive_busy (s := s.taking p .write a v) hb]
    exact congrArg _ (State.setWait_accept s r _ p .write a v _)
  · exact exec_ringPost_idle rd ha hi ((State.takeUpPost_disabled (s := s.taking p .write a v) he).trans (State.refuse_accept _ _ _ _ _ _ _))
  · subst hx
    exact exec_ringPost_idle rd ha hi ((State.takeUpPost_later (s := s.taking p .write a v) he hm ho).trans (State.portIssued_accept _ _ _ _ _ _ _ _))
  · subst hx
    refine exec_ringPost_idle rd ha hi ((State.takeUpPost_opens (s := s.taking p .write a v) he hi hp hc).trans ?_)
    refine (State.portIssued_accept (s.openedFor r (.port p)) r p _ .write a v _).trans ?_
    exact State.inFlightAt_requested _ _ _ _ _ _ _ _ _ _ _ _ _
  all_goals
    refine exec_ringPost_idle rd ha hi ((State.takeUpPost_blocked (s := s.taking p .write a v) (q := postOf p v) he ho hb).trans ?_)
  · refine (if_neg (show s.recs[r].policy ≠ 1 by rw [hp]; decide)).trans ((if_pos hc).trans ?_)
    unfold State.refuseFull
    rw [State.deliver_modPort]
    · exact State.refuse_accept (s.deliver _ _ _) _ _ _ _ _ _
    · exact fun _ => rfl
  · refine (if_neg (show s.recs[r].policy ≠ 1 by rw [hp]; decide)).trans ((if_neg (Nat.ne_of_lt hc)).trans ?_)
    exact State.refuse_accept _ _ _ _ _ _ _
  · refine (if_pos hp).trans ((State.joinStall_port rfl).trans ?_)
    exact State.setWait_accept s r _ p .write a v _

/-- A take of port `p` that arrives at an idle ring is taken up at once. -/
theorem exec_ringTake_idle {s t : State} {p : PortId} {a : Addr} {w : WinId} {r : RingId} (rd : s.ready p)
    (ha : s.atRing p .read a w r 1) (hi : s.rings[r].inFlight = none) (h : (s.taking p .read a 0).takeUpTake r p = t) :
    exec (.ringTake p a) s = .next t := by
  have hx : exec (.ringTake p a) s = .next ((s.taking p .read a 0).ringArrive r (.take p)) :=
    exec_ring rd rfl ha fun e => nomatch e
  rw [hx, State.ringArrive_idle (s := s.taking p .read a 0) hi]
  exact congrArg _ h

/-- Settles O39: the outcomes are the branches of the take-up of a take that has just arrived. -/
theorem takeOutcomes : Obligations.TakeOutcomes := by
  intro s p a w r rd
  refine ⟨fun ha => ⟨fun hb => ?_, fun hi => ⟨fun he => ?_, fun he hc => ?_, fun m he hc hm ho => ?_,
    fun n x he hc hn hx => ?_⟩⟩, fun ha => ⟨fun he => ?_, fun he => ?_⟩⟩
  · have hx : exec (.ringTake p a) s = .next ((s.taking p .read a 0).ringArrive r (.take p)) :=
      exec_ring rd rfl ha fun e => nomatch e
    rw [hx, State.ringArrive_busy (s := s.taking p .read a 0) hb]
    exact congrArg _ (State.setWait_accept s r _ p .read a 0 _)
  · exact exec_ringTake_idle rd ha hi ((State.takeUpTake_disabled (s := s.taking p .read a 0) he).trans (State.refuse_accept _ _ _ _ _ _ _))
  · exact exec_ringTake_idle rd ha hi ((State.takeUpTake_empty (s := s.taking p .read a 0) he hc).trans (State.refuse_accept _ _ _ _ _ _ _))
  · refine exec_ringTake_idle rd ha hi ((State.takeUpTake_later (s := s.taking p .read a 0) he hc hm).trans ?_)
    rw [if_neg ho]
    exact State.refuse_accept _ _ _ _ _ _ _
  · subst hx
    obtain ⟨hn, rfl⟩ | hn := hn
    · refine exec_ringTake_idle rd ha hi ((State.takeUpTake_opens (s := s.taking p .read a 0) he hc hn).trans ?_)
      refine (State.portIssued_accept (s.modRing r fun k => { k with takeAsm := some { owner := p, words := 0 } }) r p _ .read
        a 0 _).trans ?_
      exact State.inFlightAt_requested _ _ _ _ _ _ _ _ _ _ _ _ _
    · refine exec_ringTake_idle rd ha hi ((State.takeUpTake_later (s := s.taking p .read a 0) he hc hn).trans ?_)
      rw [if_pos rfl]
      have e : s.rings[r] = { s.rings[r] with takeAsm := some { owner := p, words := n } } := by rw [← hn]
      refine (State.portIssued_accept _ _ _ _ _ _ _ _).trans (State.modRing_congr ?_)
      exact congrArg (Ring.launch · (postOf p 0) .read (s.recs[r].wordAddr s.rings[r].head n) true) e
  all_goals
    have hx : exec (.freeCountRead p a) s = .next ((s.taking p .read a 0).readFree p r) :=
      exec_ring rd rfl ha fun e => nomatch e
    rw [hx]
    refine congrArg Host.Outcome.next ?_
    unfold State.readFree
  · exact (if_neg (show ¬s.recs[r].enable = true by rw [he]; decide)).trans (State.refuse_accept _ _ _ _ _ _ _)
  · exact (if_pos (show s.recs[r].enable = true from he)).trans (State.completeRead_accept _ _ _ _ _ _ _)

/-! ## What a take-up leaves in the hold list (R68) -/

/-- While ring `r` has no access in flight, no opened post awaits issue there and at most `n` items are held. -/
def State.HoldsAtMost (s : State) (r : RingId) (n : Nat) : Prop :=
  s.rings[r].inFlight = none → s.rings[r].awaiting = none ∧ s.rings[r].hold.length ≤ n

section
variable {s : State} {r : RingId} {n : Nat} (h : s.HoldsAtMost r n)
include h

theorem State.HoldsAtMost.of_rings {t : State} (e : t.rings = s.rings) : t.HoldsAtMost r n := by
  unfold State.HoldsAtMost
  rw [e]
  exact h

/-- A change after which the access in flight is present if it was, and after which no more waits. -/
theorem State.HoldsAtMost.modRing (q : RingId) {f : Ring → Ring} (hi : ∀ k : Ring, (f k).inFlight = none → k.inFlight = none)
    (hw : ∀ k : Ring, k.awaiting = none → (f k).awaiting = none) (hl : ∀ k : Ring, (f k).hold.length ≤ k.hold.length) :
    (s.modRing q f).HoldsAtMost r n := by
  by_cases e : q = r
  · subst e
    unfold State.HoldsAtMost
    rw [State.modRing_ring_same]
    intro hn
    obtain ⟨ha, hh⟩ := h (hi _ hn)
    exact ⟨hw _ ha, (hl _).trans hh⟩
  · unfold State.HoldsAtMost
    rw [State.modRing_other _ e]
    exact h

/-- A change that leaves what waits at the ring. -/
theorem State.HoldsAtMost.modRingSame (q : RingId) {f : Ring → Ring} (hi : ∀ k : Ring, (f k).inFlight = k.inFlight)
    (hw : ∀ k : Ring, (f k).awaiting = k.awaiting) (hl : ∀ k : Ring, (f k).hold = k.hold) : (s.modRing q f).HoldsAtMost r n :=
  h.modRing q (fun k e => (hi k).symm.trans e) (fun k e => (hw k).trans e) fun k => (congrArg List.length (hl k)).le

theorem State.HoldsAtMost.issueRing (q : RingId) (x : Post) (d : Dir) (a : Addr) : (s.issueRing q x d a).HoldsAtMost r n := by
  unfold State.issueRing
  split
  · exact (h.modRing q (f := fun k => k.launch x d a true) (fun _ e => nomatch e) (fun _ => id) fun _ => le_rfl).of_rings rfl
  · exact h.modRing q (fun _ e => nomatch e) (fun _ => id) fun _ => le_rfl

theorem State.HoldsAtMost.openPost (q : RingId) (x : Post) : (s.openPost q x).HoldsAtMost r n := by
  have ho : (s.openedFor q x.who).HoldsAtMost r n := h.modRingSame q (fun _ => rfl) (fun _ => rfl) fun _ => rfl
  unfold State.openPost
  dsimp only
  split
  · next e =>
    have hw : ((s.openedFor q x.who).modRing q fun k => { k with awaiting := some x }).HoldsAtMost r n := by
      unfold State.HoldsAtMost
      by_cases eq : q = r
      · subst eq
        rw [State.modRing_ring_same]
        exact fun hn => absurd e (Bool.eq_false_iff.mp (Option.isSome_eq_false_iff.mpr (Option.isNone_iff_eq_none.mpr hn)))
      · rw [State.modRing_other _ eq]
        exact ho
    split
    · exact hw.of_rings rfl
    · exact hw
  · exact ho.issueRing q x _ _

theorem State.HoldsAtMost.openHead (q : RingId) : (s.openHead q).HoldsAtMost r n := by
  unfold State.openHead
  split
  · split
    · exact h
    · next e rest _ =>
      have hs : (s.modRing q fun k => { k with stall := rest }).HoldsAtMost r n :=
        h.modRingSame q (fun _ => rfl) (fun _ => rfl) fun _ => rfl
      exact (hs.of_rings (State.unstall_rings _ _).1).openPost q _
  · exact h

/-! ### The end of a run -/

theorem State.HoldsAtMost.closeAssembly (c : ChanId) (q : RingId) : (s.closeAssembly c q).HoldsAtMost r n := by
  cases ho : s.rings[q].ownsPost (.chan c) with
  | false =>
    rw [State.closeAssembly_of_unowned ho]
    exact h
  | true =>
    unfold State.closeAssembly
    split
    · exact h.modRing q (fun _ e => Option.map_eq_none_iff.mp e) (fun _ => id) fun _ => le_rfl
    · rw [State.dropAssembly_of_owner ho]
      exact (h.modRing q (f := fun k => { k with postAsm := none, awaiting := none }) (fun _ => id) (fun _ _ => rfl)
        fun _ => le_rfl).openHead q

theorem State.HoldsAtMost.closeAssemblies (c : ChanId) : (s.closeAssemblies c).HoldsAtMost r n := by
  rw [State.closeAssemblies_eq]
  exact (((((((h.closeAssembly c 0).closeAssembly c 1).closeAssembly c 2).closeAssembly c 3).closeAssembly c
    4).closeAssembly c 5).closeAssembly c 6).closeAssembly c 7

theorem State.HoldsAtMost.withdrawFromRings (c : ChanId) : (s.withdrawFromRings c).HoldsAtMost r n := by
  unfold State.withdrawFromRings
  split
  · exact (h.modRing _ (f := (·.withoutClaimant (.chan c))) (fun _ => id) (fun _ => id)
      fun _ => List.length_filter_le _ _).closeAssemblies c
  · exact h.closeAssemblies c

theorem State.HoldsAtMost.endRun (c : ChanId) (st : Status) : (s.endRun c st).HoldsAtMost r n := by
  have hw : ((s.modChan c fun k => k.ended st).withdrawFromRings c).HoldsAtMost r n :=
    State.HoldsAtMost.withdrawFromRings (s := s.modChan c fun k => k.ended st) (h.of_rings rfl) c
  have hd : ((((s.modChan c fun k => k.ended st).withdrawFromRings c).leaveLock c).deliverDone c st).HoldsAtMost r n := by
    have hl := hw.of_rings (State.leaveLock_rings _ c)
    unfold State.deliverDone
    split
    · exact hl.of_rings (State.deliver_rings _ _ _ _)
    · exact hl
  unfold State.endRun State.finishLockFree
  split
  · exact hd.of_rings rfl
  · exact hd

theorem State.HoldsAtMost.leaveQueue (c : ChanId) : (s.leaveQueue c).HoldsAtMost r n := by
  have hl : (if s.chans[c].state = .lockWait then s.leaveLock c else s).HoldsAtMost r n := by
    split
    · exact h.of_rings (State.leaveLock_rings _ _)
    · exact h
  unfold State.leaveQueue
  dsimp only
  split
  · refine hl.modRing _ (fun _ => id) (fun k e => ?_) fun _ => List.length_filter_le _ _
    show k.awaiting.filter _ = none
    rw [e]
    rfl
  · exact hl

theorem State.HoldsAtMost.stopChan (c : ChanId) (st : Status) : (s.stopChan c st).HoldsAtMost r n := by
  unfold State.stopChan State.stopRun
  repeat' split
  · exact h
  · exact h
  · exact (h.leaveQueue c).of_rings rfl
  · exact h.endRun c st

/-! ### Take-up -/

theorem State.HoldsAtMost.joinStall (q : RingId) (x : Post) : (s.joinStall q x).HoldsAtMost r n := by
  have hs (t : Option Nat) : (s.modRing q (·.stalled x t)).HoldsAtMost r n :=
    h.modRingSame q (fun _ => rfl) (fun _ => rfl) fun _ => rfl
  unfold State.joinStall
  dsimp only
  repeat' split
  · exact (hs _).of_rings rfl
  · exact (hs _).of_rings rfl
  · exact hs _

theorem State.HoldsAtMost.refuse (p : PortId) (x : Reason) : (s.refuse p x).HoldsAtMost r n :=
  h.of_rings (State.refuse_rings _ _ _)

theorem State.HoldsAtMost.takeUpPost (q : RingId) (x : Post) : (s.takeUpPost q x).HoldsAtMost r n := by
  unfold State.takeUpPost State.refuseFull
  repeat' split
  · exact h.refuse _ _
  · exact h.stopChan _ _
  · exact h.issueRing q x _ _
  · exact h.openPost q x
  · exact h.joinStall q x
  · exact State.HoldsAtMost.refuse (h.of_rings (State.deliver_rings _ _ _ _)) _ _
  · exact h.refuse _ _
  · exact h.joinStall q x

theorem State.HoldsAtMost.takeUpTake (q : RingId) (p : PortId) : (s.takeUpTake q p).HoldsAtMost r n := by
  unfold State.takeUpTake
  dsimp only
  repeat' split
  · exact h.refuse _ _
  · exact h.refuse _ _
  · exact h.issueRing q _ _ _
  · exact h.refuse _ _
  · have ho : (s.modRing q fun k => { k with takeAsm := some { owner := p, words := 0 } }).HoldsAtMost r n :=
      h.modRingSame q (fun _ => rfl) (fun _ => rfl) fun _ => rfl
    exact ho.issueRing q _ _ _

theorem State.HoldsAtMost.takeUp (q : RingId) (i : HoldItem) : (s.takeUp q i).HoldsAtMost r n := by
  cases i with
  | post x => exact h.takeUpPost q x
  | take p => exact h.takeUpTake q p

end

/-- The first item leaves the hold list and is taken up; what it leaves there is no more than the rest. -/
theorem State.takeUp_holdsAtMost {s : State} {r : RingId} {rest : List HoldItem} (ha : s.rings[r].awaiting = none)
    (i : HoldItem) : ((s.modRing r fun k => { k with hold := rest }).takeUp r i).HoldsAtMost r rest.length := by
  refine State.HoldsAtMost.takeUp (fun _ => ?_) r i
  rw [State.modRing_ring_same]
  exact ⟨ha, le_rfl⟩

/-! ## The hold list is taken up (R68) -/

theorem State.takeUpHold_busy {s : State} {r : RingId} (h : s.rings[r].inFlight.isSome = true) (n : Nat) :
    s.takeUpHold r n = s := by
  cases n with
  | zero => rfl
  | succ n => unfold State.takeUpHold; rw [if_pos h]

theorem State.takeUpHold_empty {s : State} {r : RingId} (h : s.rings[r].hold = []) (n : Nat) : s.takeUpHold r n = s := by
  cases n with
  | zero => rfl
  | succ n =>
    unfold State.takeUpHold
    rw [h]
    exact ite_self _

theorem State.takeUpHold_cons {s : State} {r : RingId} {i : HoldItem} {rest : List HoldItem}
    (hi : s.rings[r].inFlight = none) (h : s.rings[r].hold = i :: rest) (n : Nat) :
    s.takeUpHold r (n + 1) = ((s.modRing r fun k => { k with hold := rest }).takeUp r i).takeUpHold r n := by
  conv_lhs => unfold State.takeUpHold
  rw [hi, h]
  rfl

/-- As many take-ups as there are items are enough. -/
theorem State.takeUpHold_fuel {r : RingId} : ∀ (n m : Nat) {s : State}, s.HoldsAtMost r n → s.HoldsAtMost r m →
    s.takeUpHold r n = s.takeUpHold r m
  | n, m, s, hn, hm => by
    by_cases hb : s.rings[r].inFlight.isSome = true
    · rw [State.takeUpHold_busy hb, State.takeUpHold_busy hb]
    · have hi : s.rings[r].inFlight = none := Option.not_isSome_iff_eq_none.mp hb
      obtain ⟨ha, hn⟩ := hn hi
      obtain ⟨-, hm⟩ := hm hi
      cases hh : s.rings[r].hold with
      | nil => rw [State.takeUpHold_empty hh, State.takeUpHold_empty hh]
      | cons i rest =>
        rw [hh, List.length_cons] at hn hm
        obtain ⟨n, rfl⟩ := Nat.exists_eq_add_of_lt (Nat.lt_of_lt_of_le (Nat.zero_lt_succ _) hn)
        obtain ⟨m, rfl⟩ := Nat.exists_eq_add_of_lt (Nat.lt_of_lt_of_le (Nat.zero_lt_succ _) hm)
        have hk := State.takeUp_holdsAtMost (s := s) (rest := rest) ha i
        rw [Nat.zero_add, State.takeUpHold_cons hi hh, Nat.zero_add, State.takeUpHold_cons hi hh]
        exact State.takeUpHold_fuel n m (fun e => ⟨(hk e).1, by have := (hk e).2; omega⟩)
          fun e => ⟨(hk e).1, by have := (hk e).2; omega⟩

theorem State.resumeRing_busy {s : State} {r : RingId} (h : s.rings[r].inFlight.isSome = true) : s.resumeRing r = s := by
  unfold State.resumeRing
  rw [if_pos h]

theorem State.resumeRing_awaiting {s : State} {r : RingId} {q : Post} (hi : s.rings[r].inFlight = none)
    (ha : s.rings[r].awaiting = some q) :
    s.resumeRing r = (s.modRing r fun k => { k with awaiting := none }).issuePost r q := by
  unfold State.resumeRing
  rw [hi, ha]
  rfl

theorem State.resumeRing_hold {s : State} {r : RingId} (hi : s.rings[r].inFlight = none) (ha : s.rings[r].awaiting = none) :
    s.resumeRing r = s.takeUpHold r s.rings[r].hold.length := by
  unfold State.resumeRing
  rw [hi, ha]
  rfl

theorem State.resumeRing_nothing {s : State} {r : RingId} (hi : s.rings[r].inFlight = none) (ha : s.rings[r].awaiting = none)
    (hh : s.rings[r].hold = []) : s.resumeRing r = s := by
  rw [State.resumeRing_hold hi ha, State.takeUpHold_empty hh]

/-- With nothing awaiting issue, the hold list is taken up as far as any number of items that is enough. -/
theorem State.resumeRing_of_holdsAtMost {s : State} {r : RingId} {n : Nat} (h : s.HoldsAtMost r n) :
    s.resumeRing r = s.takeUpHold r n := by
  by_cases hb : s.rings[r].inFlight.isSome = true
  · rw [State.resumeRing_busy hb, State.takeUpHold_busy hb]
  · have hi : s.rings[r].inFlight = none := Option.not_isSome_iff_eq_none.mp hb
    rw [State.resumeRing_hold hi (h hi).1]
    exact State.takeUpHold_fuel _ _ (fun e => ⟨(h e).1, le_rfl⟩) h

/-- The take-up of the hold list goes on with what the take-up of its first item has left. -/
theorem State.resumeRing_cons {s : State} {r : RingId} {i : HoldItem} {rest : List HoldItem}
    (hi : s.rings[r].inFlight = none) (ha : s.rings[r].awaiting = none) (h : s.rings[r].hold = i :: rest) :
    s.resumeRing r = ((s.modRing r fun k => { k with hold := rest }).takeUp r i).resumeRing r := by
  rw [State.resumeRing_hold hi ha, h, List.length_cons, State.takeUpHold_cons hi h,
    State.resumeRing_of_holdsAtMost (State.takeUp_holdsAtMost ha i)]

/-- HOLD_LIST_TAKE_UP takes up what waits at the ring (R68). -/
theorem exec_holdListTakeUp (r : RingId) (s : State) : exec (.holdListTakeUp r) s = .next (s.resumeRing r) := rfl

/-! ## The head of the stall queue (R76) and its limit (R77) -/

theorem State.openHead_blocked {s : State} {r : RingId}
    (h : s.rings[r].stall = [] ∨ s.rings[r].postAsm.isSome = true ∨ s.recs[r].capacity ≤ s.rings[r].count) :
    s.openHead r = s := by
  unfold State.openHead
  obtain h | h := h
  · rw [h]
    exact ite_self _
  · rw [State.openingCond_false h]
    rfl

/-- Ring `r` with the head of its stall queue opened and its channel back in RUN, before the write of its word (R76, R86). -/
def State.headOpened (s : State) (r : RingId) (q : Post) (rest : List StallEntry) : State :=
  match q.who with
  | .port _ => s.modRing r fun k => { k with stall := rest, postAsm := some { owner := q.who, words := 0 } }
  | .chan c => (s.modRing r fun k => { k with stall := rest, postAsm := some { owner := q.who, words := 0 } }).modChan c
      fun k => { k with state := if q.live ∧ k.state = .stall then .run else k.state }

/-- Leaving the queue, the return to RUN and the opening are changes of the ring and of the channel. -/
theorem State.unstall_openedFor (s : State) (r : RingId) (q : Post) (rest : List StallEntry) :
    ((s.modRing r fun k => { k with stall := rest }).unstall q).openedFor r q.who = s.headOpened r q rest := by
  unfold State.unstall State.headOpened
  obtain ⟨who, word, live⟩ := q
  cases who with
  | port p => exact State.modRing_modRing s r _ _
  | chan c =>
    cases live with
    | true =>
      have hc : (fun k : Chan => { k with state := if true = true ∧ k.state = ChanState.stall then ChanState.run else k.state }) =
          fun k => { k with state := if k.state = ChanState.stall then .run else k.state } := by simp only [true_and]
      dsimp only
      rw [hc, if_pos rfl]
      unfold State.openedFor State.modChan State.modRing
      simp only [upd_upd]
    | false =>
      have hc (t : State) : (t.modChan c fun k =>
          { k with state := if false = true ∧ k.state = .stall then ChanState.run else k.state }) = t := by
        unfold State.modChan
        rw [upd_id _ _ _ (by simp)]
      dsimp only
      rw [hc]
      exact State.modRing_modRing s r _ _

theorem State.openHead_cons {s : State} {r : RingId} {e : StallEntry} {rest : List StallEntry}
    (h : s.rings[r].stall = e :: rest) (hp : s.rings[r].postAsm = none) (hc : s.rings[r].count < s.recs[r].capacity) :
    s.openHead r = ((s.modRing r fun k => { k with stall := rest }).unstall e.post).openPost r e.post := by
  unfold State.openHead
  rw [State.openingCond_true hp hc, if_pos rfl, h]

theorem StallEntry.dueFor_iff (e : StallEntry) (p : PortId) : e.dueFor p = true ↔ e.post.who = .port p ∧ e.ticks = some 0 := by
  unfold StallEntry.dueFor
  rw [Bool.and_eq_true, decide_eq_true_iff, decide_eq_true_iff]

theorem State.stallExpires_early {s : State} {r : RingId} {p : PortId}
    (h : ∀ e ∈ s.rings[r].stall, e.post.who = .port p → e.ticks ≠ some 0) : s.stallExpires r p = s := by
  unfold State.stallExpires
  refine if_neg fun ha => ?_
  obtain ⟨e, he, hd⟩ := List.any_eq_true.mp ha
  obtain ⟨hw, ht⟩ := (e.dueFor_iff p).mp hd
  exact h e he hw ht

theorem State.stallExpires_due {s : State} {r : RingId} {p : PortId}
    (h : ∃ e ∈ s.rings[r].stall, e.post.who = .port p ∧ e.ticks = some 0) : s.stallExpires r p =
      (s.modRing r fun k => { k with
        stall := k.stall.filter fun e => decide (¬(e.post.who = .port p ∧ e.ticks = some 0)) }).refuseFull r p := by
  obtain ⟨e, he, hd⟩ := h
  have hf : (fun e : StallEntry => !e.dueFor p) = fun e => decide (¬(e.post.who = .port p ∧ e.ticks = some 0)) := by
    funext e
    rw [Bool.eq_iff_iff, Bool.not_eq_true', decide_eq_true_iff, ← e.dueFor_iff p, Bool.not_eq_true]
  unfold State.stallExpires
  rw [if_pos (List.any_eq_true.mpr ⟨e, he, (e.dueFor_iff p).mpr hd⟩), hf]

/-- Settles O41: what waits at a ring goes on in the order of R68 and R76. -/
theorem waitingPosts : Obligations.WaitingPosts := by
  refine ⟨fun s r => ⟨fun hb => ?_, fun q x hi ha hx => ?_, fun hi ha hh => ?_, fun i rest t hi ha hh ht => ?_⟩,
    fun s r => ⟨fun h => ?_, fun e rest t hs hp hc ht => ?_⟩, fun s r p => ⟨fun h => ?_, fun c h hc => ?_⟩⟩
  · rw [exec_holdListTakeUp, State.resumeRing_busy hb]
  · subst hx
    rw [exec_holdListTakeUp, State.resumeRing_awaiting hi ha, State.issuePost_eq, State.modRing_ring_same]
    rfl
  · rw [exec_holdListTakeUp, State.resumeRing_nothing hi ha hh]
  · have hi' : (s.modRing r fun k => { k with hold := rest }).rings[r].inFlight = none := by
      rw [State.modRing_ring_same]
      exact hi
    rw [exec_holdListTakeUp, exec_holdListTakeUp, State.resumeRing_cons hi ha hh, ItemTakenUp.eq hi' ht]
  · rw [exec_stalledPostOpen, State.openHead_blocked h]
  · have ht' : t = s.headOpened r e.post rest := by
      obtain ⟨u, rfl, rfl⟩ := ht
      rfl
    have hr : ((s.modRing r fun k => { k with stall := rest }).unstall e.post).rings[r] = { s.rings[r] with stall := rest } := by
      rw [(State.unstall_rings _ _).1, State.modRing_ring_same]
    have hrec : ((s.modRing r fun k => { k with stall := rest }).unstall e.post).recs = s.recs := (State.unstall_rings _ _).2
    rw [exec_stalledPostOpen, State.openHead_cons hs hp hc, ht', ← State.unstall_openedFor]
    refine ⟨fun hi => ?_, fun hb => ?_⟩
    · rw [State.openPost_idle (by rw [hr]; exact hi), hr, hrec]
    · rw [State.openPost_busy (by rw [hr]; exact hb)] <;> rfl
  · show Host.Outcome.next (s.stallExpires r p) = _
    rw [State.stallExpires_early h]
  · show Host.Outcome.next (s.stallExpires r p) = _
    rw [State.stallExpires_due h]
    have hc' : (s.modRing r fun k => { k with
        stall := k.stall.filter fun e => decide (¬(e.post.who = .port p ∧ e.ticks = some 0)) }).ports[p].cycle = some c := hc
    exact congrArg _ (State.refuseFull_of_cycle hc' r)

end Sys2Proof.Machine

/-! PROOFS. The completion of a ring's redirected access (R70 to R72, R79, R80): a port's (O40), and a channel's, with the reads and
the result writes of SUM and FEED runs (O53). -/

namespace Sys2Proof.Machine

/-! ## What a judgement leaves alone -/

/-- The ring records and the channels stand. -/
def SameTables (s t : State) : Prop := t.recs = s.recs ∧ t.chans = s.chans

theorem SameTables.deliver {s t : State} (h : SameTables s t) (p : PortId) (src : Source) (d : Word) :
    SameTables s (t.deliver p src d) := by
  rw [State.deliver_eq]
  exact h

theorem SameTables.reportParity {s t : State} (h : SameTables s t) (a : Addr) (c : Nat) : SameTables s (t.reportParity a c) :=
  SameTables.deliver (t := { t with fault := loadFault t.fault a c }) h _ _ _

theorem WriteJudged.tables {s t : State} {x : Access} {v : Word} (h : WriteJudged s x v t) : SameTables s t := by
  obtain ⟨u, rfl, ht⟩ := h
  have h0 : SameTables s { s with inProg := none, mem := Mem.set s.mem x.req.addr.toNat (goodCell v) } := ⟨rfl, rfl⟩
  obtain ⟨-, -, rfl⟩ | ⟨g, -, -, rfl⟩ | ⟨g, o, bad, -, -, -, rfl⟩ := ht
  · exact h0
  · split
    · exact h0.deliver _ _ _
    · exact h0
  · repeat' split
    · exact (h0.reportParity _ _).deliver _ _ _
    · exact h0.deliver _ _ _
    · exact h0

theorem ReadJudged.tables {s t : State} {x : Access} (h : ReadJudged s x t) : SameTables s t := by
  obtain ⟨u, rfl, -, ht⟩ := h
  have h0 : SameTables s { s with inProg := none } := ⟨rfl, rfl⟩
  have h1 : SameTables s (if (s.cellAt x.req.addr).bad then ({ s with inProg := none } : State).reportParity x.req.addr
      x.req.code else { s with inProg := none }) := by
    split
    · exact h0.reportParity _ _
    · exact h0
  obtain ⟨-, rfl⟩ | ⟨g, -, rfl⟩ := ht
  · exact h1
  · split
    · exact h1.deliver _ _ _
    · exact h1

/-- A delivery depends on no ring. -/
theorem State.deliver_modRing (s : State) (r : RingId) (f : Ring → Ring) (p : PortId) (src : Source) (d : Word) :
    (s.modRing r f).deliver p src d = (s.deliver p src d).modRing r f := by
  have ht : (s.modRing r f).takesDelivery p src = s.takesDelivery p src := rfl
  have hb : (s.modRing r f).boundSlot p src = s.boundSlot p src := rfl
  unfold State.deliver
  rw [ht, hb]
  cases s.takesDelivery p src
  · rfl
  · cases s.boundSlot p src <;> rfl

/-! ## Strobes (R2): the opening of a stalled post moves cycles on, and ends none -/

/-- Every port has a cycle in `t` where it has one in `s`, with its strobe as it was. -/
def SameStrobes (s t : State) : Prop :=
  ∀ p : PortId, (t.ports[p].cycle).map (·.strobe) = (s.ports[p].cycle).map (·.strobe)

section
variable {s t : State} (h : SameStrobes s t)
include h

theorem SameStrobes.setWait (p : PortId) (w : CycleWait) : SameStrobes s (t.setWait p w) := by
  intro q
  unfold State.setWait
  rw [State.modPort_port]
  split
  · rw [Option.map_map]
    exact h q
  · exact h q

theorem SameStrobes.modRing (r : RingId) (f : Ring → Ring) : SameStrobes s (t.modRing r f) := h
theorem SameStrobes.modReq (q : Fin 5) (f : Option Request → Option Request) : SameStrobes s (t.modReq q f) := h

theorem SameStrobes.issuePost (r : RingId) (q : Post) : SameStrobes s (t.issuePost r q) := by
  unfold State.issuePost State.issueRing
  split
  · exact ((h.modRing r _).modReq _ _).setWait _ _
  · exact h.modRing r _

theorem SameStrobes.openPost (r : RingId) (q : Post) : SameStrobes s (t.openPost r q) := by
  unfold State.openPost
  dsimp only
  repeat' split
  · exact ((h.modRing r _).modRing r _).setWait _ _
  · exact (h.modRing r _).modRing r _
  · exact (h.modRing r _).issuePost r q

theorem SameStrobes.unstall (q : Post) : SameStrobes s (t.unstall q) := by
  unfold State.unstall
  repeat' split
  all_goals exact h

theorem SameStrobes.openHead (r : RingId) : SameStrobes s (t.openHead r) := by
  unfold State.openHead
  repeat' split
  · exact h
  · exact ((h.modRing r _).unstall _).openPost r _
  · exact h

theorem SameStrobes.of_ports {u : State} (e : u.ports = t.ports) : SameStrobes s u := by
  intro p
  rw [e]
  exact h p

/-- A cycle that was in progress still is. -/
theorem SameStrobes.cycle {p : PortId} {c : Cycle} (hc : s.ports[p].cycle = some c) :
    ∃ d, t.ports[p].cycle = some d ∧ d.strobe = c.strobe := by
  have hp := h p
  rw [hc] at hp
  exact Option.map_eq_some_iff.mp hp

/-- A read of a cycle that has only been moved on completes with the strobe's answer on PD. -/
theorem SameStrobes.completeRead {p : PortId} {c : Cycle} (hc : s.ports[p].cycle = some c) (w : Word) :
    t.completeRead p w = t.modPort p fun pt => { pt with
      cycle := none, last := some (.read w), pd := if c.strobe then some w else none } := by
  obtain ⟨d, hd, e⟩ := h.cycle hc
  rw [State.completeRead_of_cycle hd, e]

theorem SameStrobes.completeWrite {p : PortId} {c : Cycle} (hc : s.ports[p].cycle = some c) :
    t.completeWrite p = t.modPort p fun pt => { pt with cycle := none, last := some .write, pd := none } := by
  obtain ⟨d, hd, -⟩ := h.cycle hc
  exact State.completeWrite_of_cycle hd

end

theorem SameStrobes.refl (s : State) : SameStrobes s s := fun _ => rfl

/-! ## The effects of a completed access at its ring (R70 to R72, R79, R80) -/

/-- Ring `r` when the last word of its tail entry has been written, its access in flight complete (R72). -/
abbrev State.entryWritten (s : State) (r : RingId) : State :=
  s.modRing r fun k => { k with
    postAsm := none
    inFlight := none
    tail := if k.tail + 1 = s.recs[r].capacity then 0 else k.tail + 1
    count := k.count + 1 }

/-- Ring `r` when the last word of its head entry has been read, its access in flight complete (R80). -/
abbrev State.entryTaken (s : State) (r : RingId) : State :=
  (if s.rings[r].count = s.recs[r].capacity then
      s.deliver s.recs[r].producer (.ringSpace r) (BitVec.ofNat 16 r.val) else s).modRing r fun k => { k with
    takeAsm := none
    inFlight := none
    head := if k.head + 1 = s.recs[r].capacity then 0 else k.head + 1
    count := k.count - 1 }

section
variable {s : State} {r : RingId} {f : InFlight}

theorem State.ringDone_eq (h : s.rings[r].inFlight = some f) (q : Request) (w : Word) : s.ringDone r q w =
    ((((s.modRing r fun k => { k with inFlight := none }).ringEffect r f).finishLeaving r f).ringReport q f w).resumeRing r := by
  unfold State.ringDone
  rw [h]

theorem State.ringEffect_detached (h : f.attached = false) : s.ringEffect r f = s := by
  unfold State.ringEffect
  rw [h]
  rfl

theorem State.ringEffect_write (ha : f.attached = true) (hd : f.dir = .write) : s.ringEffect r f = s.postWritten r := by
  unfold State.ringEffect
  rw [ha, hd]
  rfl

theorem State.ringEffect_read (ha : f.attached = true) (hd : f.dir = .read) : s.ringEffect r f = s.takeRead r := by
  unfold State.ringEffect
  rw [ha, hd]
  rfl

/-- The write that makes the entry whole. -/
theorem State.postWritten_last {m : PostAsm} (hm : s.rings[r].postAsm = some m) (hl : m.words + 1 = s.recs[r].entrySize) :
    (s.modRing r fun k => { k with inFlight := none }).postWritten r = (s.entryWritten r).openHead r := by
  unfold State.postWritten
  rw [State.modRing_ring_same, hm]
  dsimp only
  rw [show (s.modRing r _).recs = s.recs from rfl, if_pos hl, State.modRing_modRing]
  rfl

theorem State.postWritten_later {m : PostAsm} (hm : s.rings[r].postAsm = some m) (hl : m.words + 1 ≠ s.recs[r].entrySize) :
    (s.modRing r fun k => { k with inFlight := none }).postWritten r =
      s.modRing r fun k => { k with postAsm := some { m with words := m.words + 1 }, inFlight := none } := by
  unfold State.postWritten
  rw [State.modRing_ring_same, hm]
  dsimp only
  rw [show (s.modRing r _).recs = s.recs from rfl, if_neg hl, State.modRing_modRing]

/-- The read that takes the entry; RING-SPACE goes out before a stalled post opens (R80). -/
theorem State.takeRead_last {m : TakeAsm} (hm : s.rings[r].takeAsm = some m) (hl : m.words + 1 = s.recs[r].entrySize) :
    (s.modRing r fun k => { k with inFlight := none }).takeRead r = (s.entryTaken r).openHead r := by
  unfold State.takeRead State.tellSpace State.entryTaken
  rw [State.modRing_ring_same, hm]
  dsimp only
  rw [show (s.modRing r _).recs = s.recs from rfl, if_pos hl, State.modRing_modRing]
  congr 1
  by_cases e : s.rings[r].count = s.recs[r].capacity
  · rw [decide_eq_true e, if_pos rfl, if_pos e, State.deliver_modRing]
    rfl
  · rw [decide_eq_false e, if_neg Bool.false_ne_true, if_neg e]
    rfl

theorem State.takeRead_later {m : TakeAsm} (hm : s.rings[r].takeAsm = some m) (hl : m.words + 1 ≠ s.recs[r].entrySize) :
    (s.modRing r fun k => { k with inFlight := none }).takeRead r =
      s.modRing r fun k => { k with takeAsm := some { m with words := m.words + 1 }, inFlight := none } := by
  unfold State.takeRead
  rw [State.modRing_ring_same, hm]
  dsimp only
  rw [show (s.modRing r _).recs = s.recs from rfl, if_neg hl, State.modRing_modRing]

/-! ## A port's access (R79, R83, R84) -/

/-- After the effects at the ring the port's cycle completes, and what waits at the ring goes on. -/
theorem State.ringDone_of_port {p : PortId} {q : Request} {e : State} (hf : s.rings[r].inFlight = some f)
    (hp : f.post.who = .port p) (hq : q.abandoned = false)
    (he : (s.modRing r fun k => { k with inFlight := none }).ringEffect r f = e) (w : Word) :
    s.ringDone r q w = (e.portDone p q.kind w).resumeRing r := by
  have hl (t : State) : t.finishLeaving r f = t := by
    unfold State.finishLeaving
    rw [hp]
  rw [State.ringDone_eq hf, he, hl]
  unfold State.ringReport
  rw [hp]
  dsimp only
  rw [hq]
  rfl

end

/-- MEMORY_ACCESS_COMPLETE of a port's write at a ring, judged, whose effects at the ring leave `u`. -/
theorem exec_ringWritten {s t u : State} {x : Access} {r : RingId} {f : InFlight} {p : PortId} {c : Cycle} {v : Word}
    (h : s.inProg = some x) (hi : x.req.issuer = .ring r) (ha : x.req.abandoned = false)
    (hf : s.rings[r].inFlight = some f) (hp : f.post.who = .port p) (hc : s.ports[p].cycle = some c)
    (hj : WriteJudged s x v t) (hu : (t.modRing r fun k => { k with inFlight := none }).ringEffect r f = u)
    (hs : SameStrobes t u) : exec (.memoryAccessComplete 0) s = exec (.holdListTakeUp r) (u.modPort p fun pt =>
      { pt with cycle := none, last := some .write, pd := none }) := by
  obtain ⟨hports, hrings⟩ := hj.frame
  obtain ⟨bad, hg⟩ := State.grantedDone_of_writeJudged hj 0
  have hs' : SameStrobes s u := fun q => (hs q).trans (by rw [hports])
  show Host.Outcome.next (s.completeAccess 0) = _
  rw [State.completeAccess_of_ring h hi, hg, State.passResult_ring hi,
    State.ringDone_of_port (by rw [hrings]; exact hf) hp ha hu, State.portDone_write _ _ hj.kind, exec_holdListTakeUp]
  exact congrArg (fun y => Host.Outcome.next (State.resumeRing r y)) (hs'.completeWrite hc)

/-- MEMORY_ACCESS_COMPLETE of a port's read at a ring, judged, whose effects at the ring leave `u`. -/
theorem exec_ringRead {s t u : State} {x : Access} {r : RingId} {f : InFlight} {p : PortId} {c : Cycle}
    (h : s.inProg = some x) (hi : x.req.issuer = .ring r) (ha : x.req.abandoned = false)
    (hf : s.rings[r].inFlight = some f) (hp : f.post.who = .port p) (hc : s.ports[p].cycle = some c)
    (hj : ReadJudged s x t) (hu : (t.modRing r fun k => { k with inFlight := none }).ringEffect r f = u)
    (hs : SameStrobes t u) : exec (.memoryAccessComplete 0) s = exec (.holdListTakeUp r) (u.modPort p fun pt => { pt with
      cycle := none
      last := some (.read (s.cellAt x.req.addr).word)
      pd := if c.strobe then some (s.cellAt x.req.addr).word else none }) := by
  obtain ⟨hports, hrings⟩ := hj.frame
  have hs' : SameStrobes s u := fun q => (hs q).trans (by rw [hports])
  show Host.Outcome.next (s.completeAccess 0) = _
  rw [State.completeAccess_of_ring h hi, State.grantedDone_of_readJudged hj, State.passResult_ring hi,
    State.ringDone_of_port (by rw [hrings]; exact hf) hp ha hu, hj.kind, exec_holdListTakeUp]
  exact congrArg (fun y => Host.Outcome.next (State.resumeRing r y)) (hs'.completeRead hc _)

theorem SameStrobes.entryTaken (s : State) (r : RingId) : SameStrobes s (s.entryTaken r) := by
  refine (SameStrobes.refl s).of_ports ?_
  show (if _ then _ else _ : State).ports = _
  split
  · exact State.deliver_ports _ _ _ _
  · rfl

section
variable {s t : State} {x : Access} {r : RingId} {f : InFlight} {p : PortId} {c : Cycle} (h : s.inProg = some x)
  (hi : x.req.issuer = .ring r) (ha : x.req.abandoned = false) (hf : s.rings[r].inFlight = some f)
  (hp : f.post.who = .port p) (hat : f.attached = true) (hc : s.ports[p].cycle = some c)
include h hi ha hf hp hat hc

/-- The last word of a post. -/
theorem exec_ringWritten_last {v : Word} {m : PostAsm} (hj : WriteJudged s x v t) (hd : f.dir = .write)
    (hm : s.rings[r].postAsm = some m) (hl : m.words + 1 = s.recs[r].entrySize) : exec (.memoryAccessComplete 0) s =
      exec (.holdListTakeUp r) (((t.entryWritten r).openHead r).modPort p fun pt =>
        { pt with cycle := none, last := some .write, pd := none }) := by
  refine exec_ringWritten h hi ha hf hp hc hj ?_ (SameStrobes.openHead (t := t.entryWritten r) (.refl t) r)
  rw [State.ringEffect_write hat hd, State.postWritten_last (by rw [hj.frame.2]; exact hm) (by rw [hj.tables.1]; exact hl)]

/-- A word of a post that does not end its entry. -/
theorem exec_ringWritten_later {v : Word} {m : PostAsm} (hj : WriteJudged s x v t) (hd : f.dir = .write)
    (hm : s.rings[r].postAsm = some m) (hl : m.words + 1 ≠ s.recs[r].entrySize) : exec (.memoryAccessComplete 0) s =
      exec (.holdListTakeUp r) ((t.modRing r fun k => { k with
        postAsm := some { m with words := m.words + 1 }, inFlight := none }).modPort p fun pt =>
          { pt with cycle := none, last := some .write, pd := none }) := by
  refine exec_ringWritten h hi ha hf hp hc hj ?_ (.refl t)
  rw [State.ringEffect_write hat hd, State.postWritten_later (by rw [hj.frame.2]; exact hm) (by rw [hj.tables.1]; exact hl)]

/-- The last word of a take. -/
theorem exec_ringRead_last {m : TakeAsm} (hj : ReadJudged s x t) (hd : f.dir = .read)
    (hm : s.rings[r].takeAsm = some m) (hl : m.words + 1 = s.recs[r].entrySize) : exec (.memoryAccessComplete 0) s =
      exec (.holdListTakeUp r) (((t.entryTaken r).openHead r).modPort p fun pt => { pt with
        cycle := none
        last := some (.read (s.cellAt x.req.addr).word)
        pd := if c.strobe then some (s.cellAt x.req.addr).word else none }) := by
  refine exec_ringRead h hi ha hf hp hc hj ?_ ((SameStrobes.entryTaken t r).openHead r)
  rw [State.ringEffect_read hat hd, State.takeRead_last (by rw [hj.frame.2]; exact hm) (by rw [hj.tables.1]; exact hl)]

/-- A word of a take that does not end its entry. -/
theorem exec_ringRead_later {m : TakeAsm} (hj : ReadJudged s x t) (hd : f.dir = .read)
    (hm : s.rings[r].takeAsm = some m) (hl : m.words + 1 ≠ s.recs[r].entrySize) : exec (.memoryAccessComplete 0) s =
      exec (.holdListTakeUp r) ((t.modRing r fun k => { k with
        takeAsm := some { m with words := m.words + 1 }, inFlight := none }).modPort p fun pt => { pt with
          cycle := none
          last := some (.read (s.cellAt x.req.addr).word)
          pd := if c.strobe then some (s.cellAt x.req.addr).word else none }) := by
  refine exec_ringRead h hi ha hf hp hc hj ?_ (.refl t)
  rw [State.ringEffect_read hat hd, State.takeRead_later (by rw [hj.frame.2]; exact hm) (by rw [hj.tables.1]; exact hl)]

end

/-- Where nothing waits at the ring, nothing of it goes on. -/
theorem exec_holdListTakeUp_nothing {s : State} {r : RingId} {f : Ring → Ring} (hi : (f s.rings[r]).inFlight = none)
    (ha : (f s.rings[r]).awaiting = none) (hh : (f s.rings[r]).hold = []) (p : PortId) (g : Port → Port) :
    exec (.holdListTakeUp r) ((s.modRing r f).modPort p g) = .next ((s.modPort p g).modRing r f) := by
  rw [← State.modRing_ring_same s r f] at hi ha hh
  rw [exec_holdListTakeUp, State.resumeRing_nothing (s := (s.modRing r f).modPort p g) hi ha hh]
  rfl

/-- Where nothing waits at the ring and nobody stands in its stall queue, nothing of it opens or goes on. -/
theorem exec_holdListTakeUp_unopened {s : State} {r : RingId} {f : Ring → Ring} (hi : (f s.rings[r]).inFlight = none)
    (ha : (f s.rings[r]).awaiting = none) (hh : (f s.rings[r]).hold = []) (hs : (f s.rings[r]).stall = []) (p : PortId)
    (g : Port → Port) :
    exec (.holdListTakeUp r) (((s.modRing r f).openHead r).modPort p g) = .next ((s.modPort p g).modRing r f) := by
  rw [State.openHead_blocked (.inl (by rw [State.modRing_ring_same]; exact hs)), exec_holdListTakeUp_nothing hi ha hh]

/-- Settles O40: the judged access has its effects at the ring, its port's cycle completes, and what waits goes on; where nothing
waits, neither the opening nor the take-up does anything. -/
theorem ringAccessCompletes : Obligations.RingAccessCompletes := by
  refine ⟨fun s t x r f p c h hi ha hf hp hat hc => ⟨fun v m hj hd hm => ⟨fun hl u hu => ?_, fun hl => ?_⟩,
    fun m hj hd hm => ⟨fun hl u hu => ?_, fun hl => ?_⟩⟩,
    fun s x r f p c t h hi hw ha hf hp hat hc hs hh haw => ⟨fun v m hk hd hm ht => ?_, fun m hk hd hm hb ht => ?_⟩⟩
  · have hu' : (t.entryWritten r).openHead r = u := by
      unfold State.entryWritten
      rw [hj.tables.1]
      exact Host.Outcome.next.inj hu
    rw [exec_ringWritten_last h hi ha hf hp hat hc hj hd hm hl, hu']
  · exact exec_ringWritten_later h hi ha hf hp hat hc hj hd hm hl
  · have hu' : (t.entryTaken r).openHead r = u := by
      unfold State.entryTaken
      rw [hj.tables.1, hj.frame.2]
      exact Host.Outcome.next.inj hu
    rw [exec_ringRead_last h hi ha hf hp hat hc hj hd hm hl, hu']
  · exact exec_ringRead_later h hi ha hf hp hat hc hj hd hm hl
  · have hj : WriteJudged s x v { s with inProg := none, mem := Mem.set s.mem x.req.addr.toNat (goodCell v) } :=
      ⟨_, rfl, .inl ⟨hk, hw, rfl⟩⟩
    refine ⟨fun hl => ?_, fun hl => ?_⟩
    · rw [exec_ringWritten_last h hi ha hf hp hat hc hj hd hm hl, exec_holdListTakeUp_unopened rfl haw hh hs, ht]
    · rw [exec_ringWritten_later h hi ha hf hp hat hc hj hd hm hl, exec_holdListTakeUp_nothing rfl haw hh, ht]
  · have hj : ReadJudged s x { s with inProg := none } := ⟨_, by rw [hb]; rfl, hk, .inl ⟨hw, rfl⟩⟩
    refine ⟨fun hl => ?_, fun hl => ?_⟩
    · rw [exec_ringRead_last h hi ha hf hp hat hc hj hd hm hl]
      unfold State.entryTaken
      by_cases e : s.rings[r].count = s.recs[r].capacity
      · have hr := State.deliver_rings { s with inProg := none } s.recs[r].producer (.ringSpace r) (BitVec.ofNat 16 r.val)
        rw [if_pos e, if_pos e, exec_holdListTakeUp_unopened rfl (by rw [hr]; exact haw) (by rw [hr]; exact hh)
          (by rw [hr]; exact hs), ht, State.deliver_modPort]
        exact fun _ => rfl
      · rw [if_neg e, if_neg e, exec_holdListTakeUp_unopened rfl haw hh hs, ht]
    · rw [exec_ringRead_later h hi ha hf hp hat hc hj hd hm hl, exec_holdListTakeUp_nothing rfl haw hh, ht]

/-! ## Accesses of SUM and FEED runs (R123, R124) -/

theorem State.passResult_chan {s : State} {q : Request} {c : ChanId} {y : ChanStep} (hi : q.issuer = .chan c y)
    (ha : q.abandoned = false) (w : Word) (bad : Bool) : s.passResult q w bad = s.chanAccessDone c y w bad := by
  unfold State.passResult
  rw [hi]
  dsimp only
  rw [ha]
  rfl

/-- A read is taken up where no stop is pending and its word has good parity (R129, R131). -/
theorem State.readStopped_goesOn {s : State} {c : ChanId} (h : s.chans[c].stopPending = none) :
    s.readStopped c false = none := by
  unfold State.readStopped
  rw [h]
  rfl

theorem State.chanAccessDone_srcRead {s : State} {c : ChanId} (h : s.chans[c].stopPending = none) (w : Word) :
    s.chanAccessDone c .srcRead w false = s.srcReadDone c w := by
  unfold State.chanAccessDone
  rw [State.readStopped_goesOn h]

/-- A descriptor is complete once its channel has left its rings (R127, R71, R87). -/
theorem State.descComplete_of_left {s t : State} {c : ChanId} (h : LeftRings s c t) :
    s.descComplete c = if s.chans[c].desc.linkFlag then t.modChan c Chan.fetching else t.endRun c .done := by
  have hw : s.withdrawFromRings c = t := State.withdrawFromRings_of_left h
  have hd : t.chans[c].desc = s.chans[c].desc := by
    have k := (SameChans.refl (·.desc) s).withdrawFromRings (fun _ _ => rfl) c
    rw [hw] at k
    exact k c
  unfold State.descComplete
  dsimp only
  rw [hw, hd]
  rfl

theorem Chan.feedRing_op {k : Chan} {r : RingId} (h : k.feedRing = some r) : k.desc.op = some .feed := by
  unfold Chan.feedRing at h
  split at h
  · assumption
  · cases h

/-- The SRC read of a FEED run has completed: its word reaches the ring that the run feeds (R124). -/
theorem State.srcReadDone_feed {s : State} {c : ChanId} {r : RingId} (h : s.chans[c].feedRing = some r) (w : Word) :
    s.srcReadDone c w = (s.modChan c fun k => { k with holding := some w }).ringArrive r
      (.post { who := .chan c, word := w, live := true }) := by
  unfold State.srcReadDone
  rw [Chan.feedRing_op h, h]

/-- MEMORY_ACCESS_COMPLETE of a SRC read that is taken up. -/
theorem exec_srcRead {s t : State} {x : Access} {c : ChanId} (h : s.inProg = some x) (hi : x.req.issuer = .chan c .srcRead)
    (ha : x.req.abandoned = false) (hp : s.chans[c].stopPending = none) (hj : ReadJudged s x t)
    (hb : (s.cellAt x.req.addr).bad = false) :
    exec (.memoryAccessComplete 0) s = .next (t.srcReadDone c (s.cellAt x.req.addr).word) := by
  show Host.Outcome.next (s.completeAccess 0) = _
  rw [State.completeAccess_of_chan h hi, State.grantedDone_of_readJudged hj, State.passResult_chan hi ha, hb,
    State.chanAccessDone_srcRead (by rw [hj.tables.2]; exact hp)]

/-! ## A channel's access at a ring (R85, R87, R90) -/

/-- The channel leaves the ring with the write, or stays (R87). -/
theorem State.finishLeaving_of_chan {s t : State} {r : RingId} {f : InFlight} {c : ChanId} (hw : f.post.who = .chan c)
    (h : f.leaving = false ∧ t = s ∨ f.leaving = true ∧ AssemblyDropped s c r t) : s.finishLeaving r f = t := by
  unfold State.finishLeaving
  rw [hw]
  obtain ⟨hl, rfl⟩ | ⟨hl, hd⟩ := h
  · rw [hl]
    rfl
  · rw [hl]
    exact State.dropAssembly_of_dropped hd

/-- After the effects at the ring and the leaving, the word is done for a run that still counts it, and what waits at the ring
goes on (R85, R90). -/
theorem State.ringDone_of_chan {s u z : State} {r : RingId} {f : InFlight} {c : ChanId} (hf : s.rings[r].inFlight = some f)
    (hw : f.post.who = .chan c) (hu : (s.modRing r fun k => { k with inFlight := none }).ringEffect r f = u)
    (hz : u.finishLeaving r f = z) (q : Request) (v : Word) :
    s.ringDone r q v = (if f.post.live then z.wordDone c v else z.settleStop c).resumeRing r := by
  rw [State.ringDone_eq hf, hu, hz]
  unfold State.ringReport
  rw [hw]

/-- Settles O53: each access of a SUM or FEED run passes to its step of the run, and a post's write to its ring first. -/
theorem sumAndFeedWords : Obligations.SumAndFeedWords := by
  refine ⟨fun s t x c y h hi ha hp => ⟨fun hj hy hb => ?_, fun v u hy ho hj z hz => ?_⟩,
    fun s t u z x r f c v h hi hf hw hd hj hu hz => ?_⟩
  · subst hy
    have hc : t.chans = s.chans := hj.tables.2
    rw [exec_srcRead h hi ha hp hj hb]
    refine ⟨fun ho => ?_, fun r q v hr hq hv => ?_⟩
    · unfold State.srcReadDone
      rw [hc, ho]
    · subst hq hv
      have hrings : t.rings = s.rings := hj.frame.2
      rw [State.srcReadDone_feed (by rw [hc]; exact hr)]
      refine ⟨fun hb => ?_, fun z hi hz => ?_⟩
      · rw [State.ringArrive_busy (s := t.modChan c _) (by rw [← hrings] at hb; exact hb)]
        rfl
      · have hi' : t.rings[r].inFlight = none := by rw [hrings]; exact hi
        rw [State.ringArrive_idle (s := t.modChan c _) hi']
        exact congrArg _ (PostTakenUp.eq (s := t.modChan c _) hi' hz)
  · subst hy
    have hc : t.chans = s.chans := hj.tables.2
    obtain ⟨bad, hg⟩ := State.grantedDone_of_writeJudged hj u
    show Host.Outcome.next (s.completeAccess u) = _
    rw [State.completeAccess_of_chan h hi, hg, State.passResult_chan hi ha]
    unfold State.chanAccessDone State.sumWriteDone
    dsimp only
    rw [hc, hp, State.descComplete_of_left hz, hc]
    rfl
  · have hrings : t.rings = s.rings := hj.frame.2
    have hrecs : t.recs = s.recs := hj.tables.1
    have hu' : (t.modRing r fun k => { k with inFlight := none }).ringEffect r f = u := by
      obtain ⟨hat, rfl⟩ | ⟨hat, m, hm, ⟨hl, hu⟩ | ⟨hl, rfl⟩⟩ := hu
      · exact State.ringEffect_detached hat
      · rw [State.ringEffect_write hat hd, State.postWritten_last (by rw [hrings]; exact hm) (by rw [hrecs]; exact hl)]
        unfold State.entryWritten
        rw [hrecs]
        exact Host.Outcome.next.inj hu
      · rw [State.ringEffect_write hat hd, State.postWritten_later (by rw [hrings]; exact hm) (by rw [hrecs]; exact hl)]
    obtain ⟨bad, hg⟩ := State.grantedDone_of_writeJudged hj 0
    show Host.Outcome.next (s.completeAccess 0) = _
    rw [State.completeAccess_of_ring h hi, hg, State.passResult_ring hi,
      State.ringDone_of_chan (by rw [hrings]; exact hf) hw hu' (State.finishLeaving_of_chan hw hz), exec_holdListTakeUp]

end Sys2Proof.Machine

/-! PROOFS. A word of a channel's run is done (R121 to R125, R127): the fields step, a mark may fall due, and a pending stop, the
terminal count or the next word follows (O51). -/

namespace Sys2Proof.Machine

/-! ## The fields (Table 7-4) -/

/-- The operation, the flags and the mark code are MODE's, which no word changes. -/
theorem Desc.step_mode (d : Desc) (w : Word) : (d.step w).mode = d.mode := by
  unfold Desc.step
  dsimp only
  split <;> rfl

theorem Desc.step_count (d : Desc) (w : Word) : (d.step w).count = d.count - 1 := by
  unfold Desc.step
  dsimp only
  split <;> rfl

theorem Desc.step_op (d : Desc) (w : Word) : (d.step w).op = d.op := by
  rw [Desc.op_eq, Desc.op_eq, Desc.step_mode]

theorem Desc.step_of_op {d : Desc} {o : Op} (h : d.op = some o) (w : Word) : d.step w = match o with
    | .copy => { d with src := d.src + 1, dst := d.dst + 1, count := d.count - 1 }
    | .verify => { d with src := d.src + 1, dst := d.dst + 1, count := d.count - 1 }
    | .fill => { d with dst := d.dst + 1, count := d.count - 1 }
    | .sum => { d with src := d.src + 1, count := d.count - 1, data := crcWord d.data w }
    | .feed => { d with src := d.src + 1, count := d.count - 1 } := by
  have ho : ({ d with count := d.count - 1 } : Desc).op = some o := h
  unfold Desc.step
  dsimp only
  rw [ho]
  cases o <;> rfl

/-! ## Marks (R125) -/

/-- The intervals of the mark codes 1 to 5 are 16 to 256 words; the other codes mark nothing. -/
theorem Chan.markDue_iff (k : Chan) : k.markDue = true ↔ 1 ≤ k.desc.mode.toNat / 4096 % 8 ∧ k.desc.mode.toNat / 4096 % 8 ≤ 5 ∧
    k.wordsDone % (8 * 2 ^ (k.desc.mode.toNat / 4096 % 8)) = 0 := by
  unfold Chan.markDue
  rw [Desc.mark_eq]
  have hlt : k.desc.mode.toNat / 4096 % 8 < 8 := Nat.mod_lt _ (by decide)
  generalize k.desc.mode.toNat / 4096 % 8 = m at hlt
  interval_cases m <;> simp

/-- Channel `c` with a word done, before its mark is delivered. -/
abbrev State.wordStepped (s : State) (c : ChanId) (w : Word) : State := s.modChan c fun k => k.stepped (k.desc.step w)

/-- Channel `c` with a word done, its mark delivered where one is due (R125, R131). -/
def State.wordMarked (s : State) (c : ChanId) (w : Word) : State :=
  if 1 ≤ s.chans[c].desc.mode.toNat / 4096 % 8 ∧ s.chans[c].desc.mode.toNat / 4096 % 8 ≤ 5 ∧
      (s.chans[c].wordsDone + 1) % (8 * 2 ^ (s.chans[c].desc.mode.toNat / 4096 % 8)) = 0 ∧ s.chans[c].stopPending = none then
    match s.chans[c].owner with
    | some q => (s.wordStepped c w).deliver q (.chanMark c) (s.chans[c].desc.count - 1)
    | none => s.wordStepped c w
  else s.wordStepped c w

theorem State.modChan_chan_same (s : State) (c : ChanId) (f : Chan → Chan) : (s.modChan c f).chans[c] = f s.chans[c] :=
  (upd_get _ _ _ _).trans (if_pos rfl)

theorem State.wordMarked_eq (s : State) (c : ChanId) (w : Word) : (s.wordStepped c w).deliverMark c = s.wordMarked c w := by
  have hm : (s.chans[c].stepped (s.chans[c].desc.step w)).markDue = true ↔
      1 ≤ s.chans[c].desc.mode.toNat / 4096 % 8 ∧ s.chans[c].desc.mode.toNat / 4096 % 8 ≤ 5 ∧
        (s.chans[c].wordsDone + 1) % (8 * 2 ^ (s.chans[c].desc.mode.toNat / 4096 % 8)) = 0 := by
    rw [Chan.markDue_iff, show (s.chans[c].stepped (s.chans[c].desc.step w)).desc.mode = s.chans[c].desc.mode from
      Desc.step_mode _ _]
    exact Iff.rfl
  unfold State.deliverMark State.wordMarked
  rw [State.modChan_chan_same]
  refine if_congr ?_ ?_ rfl
  · rw [Bool.and_eq_true, hm, Option.isNone_iff_eq_none, and_assoc, and_assoc]
    exact Iff.rfl
  rw [← Desc.step_count s.chans[c].desc w]
  rfl

/-- The mark's delivery leaves the channels alone. -/
theorem State.wordMarked_chan (s : State) (c : ChanId) (w : Word) :
    (s.wordMarked c w).chans[c] = s.chans[c].stepped (s.chans[c].desc.step w) := by
  rw [← State.modChan_chan_same s c fun k => k.stepped (k.desc.step w)]
  unfold State.wordMarked
  repeat' split
  · rw [State.deliver_eq]
  · rfl
  · rfl

/-! ## What follows a word (R127, R131) -/

theorem State.wordDone_eq (s : State) (c : ChanId) (w : Word) : s.wordDone c w =
    if s.chans[c].stopPending.isSome then (s.wordMarked c w).settleStop c
    else if s.chans[c].desc.count = 1 then
      if s.chans[c].desc.op = some .sum ∧ s.chans[c].desc.toDst then s.wordMarked c w else (s.wordMarked c w).descComplete c
    else s.wordMarked c w := by
  have hc := s.wordMarked_chan c w
  have hcount : (s.wordMarked c w).chans[c].desc.count = 0 ↔ s.chans[c].desc.count = 1 := by
    rw [hc, show (s.chans[c].stepped (s.chans[c].desc.step w)).desc.count = s.chans[c].desc.count - 1 from Desc.step_count _ _,
      sub_eq_zero]
  have hop : (s.wordMarked c w).chans[c].desc.op = s.chans[c].desc.op := by rw [hc]; exact Desc.step_op _ _
  have hdst : (s.wordMarked c w).chans[c].desc.toDst = s.chans[c].desc.toDst := by
    rw [hc]
    exact congrArg (fun m => !bit m 5) (Desc.step_mode _ _)
  have hstop : (s.wordMarked c w).chans[c].stopPending = s.chans[c].stopPending := by rw [hc]; rfl
  have he : (s.modChan c fun k => { k with desc := k.desc.step w, wordsDone := k.wordsDone + 1, holding := none }).deliverMark c
      = s.wordMarked c w := s.wordMarked_eq c w
  unfold State.wordDone
  dsimp only
  rw [he, hstop, hop, hdst]
  simp only [hcount]

/-- While a stop is pending no mark is delivered, and the word ends the run unless an access is still presented (R131). -/
theorem State.wordDone_stopping {s : State} {c : ChanId} {st : Status} (h : s.chans[c].stopPending = some st) (w : Word) :
    s.wordDone c w = if s.chanPresented c then s.wordStepped c w else (s.wordStepped c w).endRun c st := by
  have hm : s.wordMarked c w = s.wordStepped c w := by
    unfold State.wordMarked
    refine if_neg fun ⟨_, _, _, hn⟩ => ?_
    cases hn.symm.trans h
  have hs : (s.wordStepped c w).chans[c].stopPending = some st := by rw [State.modChan_chan_same]; exact h
  rw [State.wordDone_eq, h, Option.isSome_some, if_pos rfl, hm]
  unfold State.settleStop
  rw [hs]
  rfl

/-- Settles O51: the equations of the step of the fields, of the mark and of what follows the word. -/
theorem wordDone : Obligations.WordDone := by
  refine ⟨fun d w => ⟨fun h => ?_, fun h => ?_, fun h => ?_, fun h => ?_⟩, fun s u v c w m _ hu hm hv => ?_⟩
  · obtain h | h := h
    · exact Desc.step_of_op h w
    · exact Desc.step_of_op h w
  · exact Desc.step_of_op h w
  · exact Desc.step_of_op h w
  · exact Desc.step_of_op h w
  · subst hu hm
    have hv' : v = s.wordMarked c w := hv
    subst hv'
    refine ⟨fun st h => State.wordDone_stopping h w, fun h => ⟨fun hc => ?_, fun hc => ⟨fun ho hd => ?_, fun t ho ht => ?_⟩⟩⟩
    all_goals rw [State.wordDone_eq, h, if_neg (by decide)]
    · rw [if_neg hc]
    · rw [if_pos hc, if_pos ⟨ho, hd⟩]
    · have hn : ¬(s.chans[c].desc.op = some .sum ∧ s.chans[c].desc.toDst = true) := fun ⟨h1, h2⟩ =>
        ho.elim (fun e => e h1) fun e => Bool.false_ne_true (e.symm.trans h2)
      have hl : (s.wordMarked c w).chans[c].desc.linkFlag = s.chans[c].desc.linkFlag := by
        rw [State.wordMarked_chan]
        exact congrArg (bit · 3) (Desc.step_mode _ _)
      rw [if_pos hc, if_neg hn, State.descComplete_of_left ht, hl]

end Sys2Proof.Machine

/-! PROOFS. A ring reset as a whole (R88 to R90): what it does to the rings, to the channels that it stops, to what they have at the
arbiter and at the memory port, and to the ports that wait at the ring (O31). `Halting F H R s t` says it of the states before
and after any part of the reset: `F` are the channels that the whole reset stops, `H` those that it has stopped, `R` the ports whose
cycles it has refused. -/

namespace Sys2Proof.Machine

/-! ## What a stopped run leaves behind (R90, R131, log 24) -/

/-- A post as it stands when the runs of the channels in `H` have been stopped. -/
def Post.outlive (H : ChanId → Bool) (q : Post) : Post :=
  { q with live := q.live && (match q.who with | .chan c => !H c | .port _ => true) }

def HoldItem.outlive (H : ChanId → Bool) : HoldItem → HoldItem
  | .post q => .post (q.outlive H)
  | .take p => .take p

/-- A ring with its posts so. -/
def Ring.outlive (H : ChanId → Bool) (k : Ring) : Ring :=
  { k with
    stall := k.stall.map fun e => { e with post := e.post.outlive H }
    awaiting := k.awaiting.map (·.outlive H)
    inFlight := k.inFlight.map fun f => { f with post := f.post.outlive H }
    hold := k.hold.map (·.outlive H) }

/-- A request of one of these channels is abandoned. -/
def Request.outlive (H : ChanId → Bool) (q : Request) : Request :=
  match q.issuer with
  | .chan c _ => if H c then { q with abandoned := true } else q
  | _ => q

/-- One channel more has been stopped. -/
def alsoHalted (H : ChanId → Bool) (c : ChanId) : ChanId → Bool := fun d => H d || decide (d = c)

theorem Post.outlive_none (q : Post) : q.outlive (fun _ => false) = q := by
  obtain ⟨who, word, live⟩ := q
  cases who <;> simp [Post.outlive]

theorem Post.outlive_unlive (H : ChanId → Bool) (c : ChanId) (q : Post) :
    (q.outlive H).unlive c = q.outlive (alsoHalted H c) := by
  obtain ⟨who, word, live⟩ := q
  cases who with
  | port p => simp [Post.outlive, Post.unlive]
  | chan d => by_cases e : d = c <;> simp [Post.outlive, Post.unlive, alsoHalted, e]

theorem HoldItem.outlive_none (i : HoldItem) : i.outlive (fun _ => false) = i := by
  cases i with
  | post q => exact congrArg HoldItem.post q.outlive_none
  | take p => rfl

theorem Ring.outlive_none (k : Ring) : k.outlive (fun _ => false) = k := by
  unfold Ring.outlive
  simp only [Post.outlive_none, HoldItem.outlive_none, List.map_id', Option.map_id']

theorem Ring.outlive_unlive (H : ChanId → Bool) (c : ChanId) (k : Ring) :
    (k.outlive H).unlive c = k.outlive (alsoHalted H c) := by
  unfold Ring.outlive Ring.unlive
  simp only [List.map_map, Option.map_map, Function.comp_def, Post.outlive_unlive]
  congr 1
  refine List.map_congr_left fun i _ => ?_
  cases i with
  | post q => exact congrArg HoldItem.post (q.outlive_unlive H c)
  | take p => rfl

theorem Request.outlive_none (q : Request) : q.outlive (fun _ => false) = q := by
  unfold Request.outlive
  split <;> rfl

theorem Request.outlive_discardFor (H : ChanId → Bool) (c : ChanId) (q : Request) :
    (q.outlive H).discardFor c = q.outlive (alsoHalted H c) := by
  obtain ⟨kind, addr, code, issuer, watch, abandoned⟩ := q
  cases issuer with
  | chan d y =>
    by_cases e : d = c <;> by_cases hd : H d = true <;>
      simp_all [Request.outlive, Request.discardFor, Request.ofChan, alsoHalted]
  | _ => rfl

/-! ## The parts of a reset -/

theorem State.modChan_chan (s : State) (c d : ChanId) (f : Chan → Chan) :
    (s.modChan c f).chans[d] = if c = d then f s.chans[d] else s.chans[d] := upd_get _ _ _ _

/-- The status under which a reset stops a channel (R131, R133). -/
def Chan.resetStatus (k : Chan) : Status := match k.stopPending with | some st => st | none => .ringReset

/-- The channel stands, but for its state, which is IDLE where it was. -/
def Chan.Stands (k k' : Chan) : Prop := ∃ x, k' = { k with state := x } ∧ (x = .idle ↔ k.state = .idle)

/-- The port's cycle `c` is still in progress, at whatever place. -/
def Port.StillHeld (pt pt' : Port) (c : Cycle) : Prop :=
  ∃ d, pt'.cycle = some d ∧ d.dir = c.dir ∧ d.addr = c.addr ∧ pt'.refusal = pt.refusal

/-- The port's write `c` has ended refused with RING_RESET. -/
def Port.ResetRefused (pt pt' : Port) (c : Cycle) : Prop :=
  pt'.cycle = none ∧ pt'.last = some .write ∧ pt'.refusal = some (match pt.refusal with
    | none => { addr := c.addr, kind := .write, reason := .ringReset, further := false }
    | some o => { o with further := true })

/-- No channel of these owns the post assembly. -/
def Ring.spared (F : ChanId → Bool) (k : Ring) : Prop := ∀ m c, k.postAsm = some m → m.owner = .chan c → F c = false

/-- See the head of this part. -/
structure Halting (F H : ChanId → Bool) (R : PortId → Prop) (s t : State) : Prop where
  rings : ∀ k : RingId, s.rings[k].spared F → t.rings[k] = s.rings[k].outlive H
  halted : ∀ c : ChanId, H c = true → t.chans[c] = (s.chans[c]).over (s.chans[c]).resetStatus
  stands : ∀ c : ChanId, H c = false → (s.chans[c]).Stands t.chans[c]
  engine : t.reqs[(4 : Fin 5)] = (s.reqs[(4 : Fin 5)]).map (·.outlive H)
  prog : t.inProg = s.inProg.map fun x => { x with req := x.req.outlive H }
  resting : ∀ q : PortId, s.ports[q].cycle = none → t.ports[q] = s.ports[q]
  held : ∀ (q : PortId) (c : Cycle), s.ports[q].cycle = some c → ¬R q → s.ports[q].StillHeld t.ports[q] c
  refused : ∀ (q : PortId) (c : Cycle), s.ports[q].cycle = some c → c.dir = .write → R q →
    s.ports[q].ResetRefused t.ports[q] c

theorem Halting.refl (F : ChanId → Bool) (s : State) : Halting F (fun _ => false) (fun _ => False) s s where
  rings _ _ := (Ring.outlive_none _).symm
  halted _ h := nomatch h
  stands c _ := ⟨_, rfl, Iff.rfl⟩
  engine := by simp only [Request.outlive_none, Option.map_id']
  prog := by simp only [Request.outlive_none, Option.map_id']
  resting _ _ := rfl
  held q c h _ := ⟨c, h, rfl, rfl, rfl⟩
  refused _ _ _ _ h := h.elim

section
variable {F H : ChanId → Bool} {R : PortId → Prop} {s t : State} (h : Halting F H R s t)
include h

theorem Halting.of_same {u : State} (hr : u.rings = t.rings) (hc : u.chans = t.chans)
    (hq : u.reqs[(4 : Fin 5)] = t.reqs[(4 : Fin 5)]) (hi : u.inProg = t.inProg) (hp : u.ports = t.ports) :
    Halting F H R s u where
  rings := hr ▸ h.rings
  halted := hc ▸ h.halted
  stands := hc ▸ h.stands
  engine := hq.trans h.engine
  prog := hi.trans h.prog
  resting := hp ▸ h.resting
  held := hp ▸ h.held
  refused := hp ▸ h.refused

theorem Halting.modLock (l : LockId) (f : Lock → Lock) : Halting F H R s (t.modLock l f) := h.of_same rfl rfl rfl rfl rfl

theorem Halting.deliver (p : PortId) (src : Source) (d : Word) : Halting F H R s (t.deliver p src d) := by
  rw [State.deliver_eq]
  exact h.of_same rfl rfl rfl rfl rfl

/-- A request of a port. -/
theorem Halting.modReq (p : PortId) (f : Option Request → Option Request) : Halting F H R s (t.modReq (reqOfPort p) f) := by
  refine h.of_same rfl rfl ?_ rfl rfl
  have hne : reqOfPort p ≠ (4 : Fin 5) := by revert p; decide
  exact (upd_get _ _ _ _).trans (if_neg hne)

/-- A ring whose assembly may go. -/
theorem Halting.modRing {r : RingId} (hr : ¬s.rings[r].spared F) (f : Ring → Ring) : Halting F H R s (t.modRing r f) :=
  { h with rings := fun k hk => (State.modRing_other _ (fun e => hr (e ▸ hk) : r ≠ k) _).trans (h.rings k hk) }

/-- A cycle in progress goes to another place. -/
theorem Halting.setWait (p : PortId) (w : CycleWait) : Halting F H R s (t.setWait p w) := by
  have hn (q : PortId) (e : t.ports[q].cycle = none) : (t.setWait p w).ports[q] = t.ports[q] := by
    unfold State.setWait
    rw [State.modPort_port]
    split
    · rw [e]
      exact congrArg (fun y => { t.ports[q] with cycle := y }) e.symm
    · rfl
  refine { h with resting := fun q hq => ?_, held := fun q c hc hR => ?_, refused := fun q c hc hd hR => ?_ }
  · rw [hn q (by rw [h.resting q hq]; exact hq), h.resting q hq]
  · obtain ⟨d, hd, h1, h2, h3⟩ := h.held q c hc hR
    unfold State.setWait
    rw [State.modPort_port]
    split
    · exact ⟨{ d with wait := w }, congrArg (Option.map fun c : Cycle => { c with wait := w }) hd, h1, h2, h3⟩
    · exact ⟨d, hd, h1, h2, h3⟩
  · obtain ⟨h1, h2⟩ := h.refused q c hc hd hR
    rw [hn q h1]
    exact ⟨h1, h2⟩

/-- A change of a channel's state that keeps IDLE. -/
theorem Halting.modState (d : ChanId) {g : ChanState → ChanState} (hg : ∀ x, g x = .idle ↔ x = .idle) :
    Halting F H R s (t.modChan d fun k => { k with state := g k.state }) := by
  refine { h with halted := fun c hc => ?_, stands := fun c hc => ?_ }
  · have hk := h.halted c hc
    rw [State.modChan_chan]
    split
    · rw [hk, show ((s.chans[c]).over (s.chans[c]).resetStatus).state = .idle from rfl, (hg _).mpr rfl]
      rfl
    · exact hk
  · obtain ⟨x, hx, hi⟩ := h.stands c hc
    rw [State.modChan_chan]
    split
    · exact ⟨g x, by rw [hx], (hg x).trans hi⟩
    · exact ⟨x, hx, hi⟩

/-! ### Locks -/

theorem Halting.announceGrant (l : LockId) (c : Claimant) : Halting F H R s (t.announceGrant l c) := by
  cases c with
  | port p => exact h.deliver _ _ _
  | chan d =>
    refine h.modState d (g := fun x => if x = .lockWait then .run else x) fun x => ?_
    cases x <;> decide

theorem Halting.releaseLock (l : LockId) : Halting F H R s (t.releaseLock l) := by
  unfold State.releaseLock
  split
  · exact h.modLock l _
  · exact ((h.modLock l _).modLock l _).announceGrant l _

theorem Halting.leaveLock (c : ChanId) : Halting F H R s (t.leaveLock c) := by
  unfold State.leaveLock State.releaseForChan
  split
  · split
    · exact h.releaseLock _
    · exact h.modLock _ _
  · exact h

theorem Halting.deliverDone (c : ChanId) (st : Status) : Halting F H R s (t.deliverDone c st) := by
  unfold State.deliverDone
  split
  · exact h.deliver _ _ _
  · exact h

/-! ### Rings whose assemblies go -/

section
variable {r : RingId} (hr : ¬s.rings[r].spared F)
include hr

theorem Halting.issuePost (q : Post) : Halting F H R s (t.issuePost r q) := by
  unfold State.issuePost State.issueRing
  split
  · exact ((h.modRing hr _).modReq _ _).setWait _ _
  · exact h.modRing hr _

theorem Halting.openPost (q : Post) : Halting F H R s (t.openPost r q) := by
  unfold State.openPost
  dsimp only
  repeat' split
  · exact ((h.modRing hr _).modRing hr _).setWait _ _
  · exact (h.modRing hr _).modRing hr _
  · exact (h.modRing hr _).issuePost hr q

omit hr in
theorem Halting.unstall (q : Post) : Halting F H R s (t.unstall q) := by
  unfold State.unstall
  repeat' split
  · exact h
  · refine h.modState _ (g := fun x => if x = .stall then .run else x) fun x => ?_
    cases x <;> decide
  · exact h

theorem Halting.openHead : Halting F H R s (t.openHead r) := by
  unfold State.openHead
  repeat' split
  · exact h
  · exact ((h.modRing hr _).unstall _).openPost hr _
  · exact h

end

/-- An assembly that goes is one of a channel that the reset stops. -/
theorem Halting.closeAssembly {c : ChanId} (hc : F c = true) (r : RingId) : Halting F H R s (t.closeAssembly c r) := by
  by_cases hr : s.rings[r].spared F
  · have ho : t.rings[r].ownsPost (.chan c) = false := by
      rw [h.rings r hr]
      exact Ring.ownsPost_false fun m hm e => Bool.noConfusion (hc.symm.trans (hr m c hm e))
    rw [State.closeAssembly_of_unowned ho]
    exact h
  · unfold State.closeAssembly State.dropAssembly
    dsimp only
    repeat' split
    · exact h.modRing hr _
    · exact (h.modRing hr _).openHead hr
    · exact h.modRing hr _

theorem Halting.closeAssemblies {c : ChanId} (hc : F c = true) : Halting F H R s (t.closeAssemblies c) := by
  rw [State.closeAssemblies_eq]
  exact (((((((h.closeAssembly hc 0).closeAssembly hc 1).closeAssembly hc 2).closeAssembly hc 3).closeAssembly hc
    4).closeAssembly hc 5).closeAssembly hc 6).closeAssembly hc 7

/-! ### Stops and refusals -/

theorem Halting.idle_iff (c : ChanId) : t.chans[c].state = .idle ↔ H c = true ∨ s.chans[c].state = .idle := by
  cases hc : H c with
  | true =>
    rw [h.halted c hc]
    exact ⟨fun _ => .inl rfl, fun _ => rfl⟩
  | false =>
    obtain ⟨x, hx, hi⟩ := h.stands c hc
    rw [hx]
    exact hi.trans ⟨.inr, fun e => e.resolve_left Bool.false_ne_true⟩

/-- What the channel has at the arbiter, at the memory port and at the rings no longer counts, and the channel is IDLE with its
status. -/
theorem Halting.detach {c : ChanId} (hc : H c = false) {st : Status} (hst : st = (t.chans[c]).resetStatus) :
    Halting F (alsoHalted H c) R s ((t.detachChan c).modChan c fun k => k.ended st) where
  rings k hk := by
    show (Vector.ofFn fun r : RingId => (t.rings[r]).unlive c)[k] = _
    rw [Fin.getElem_fin, Vector.getElem_ofFn]
    show (t.rings[k]).unlive c = _
    rw [h.rings k hk, Ring.outlive_unlive]
  halted d hd := by
    rw [State.modChan_chan]
    split
    · next e =>
      subst e
      obtain ⟨x, hx, -⟩ := h.stands c hc
      subst hst
      show (t.chans[c]).ended _ = _
      rw [hx]
      rfl
    · next e =>
      have hd : H d = true := ((Bool.or_eq_true _ _).mp hd).resolve_right fun e' => e (of_decide_eq_true e').symm
      exact h.halted d hd
  stands d hd := by
    obtain ⟨hd, hne⟩ := (Bool.or_eq_false_iff).mp hd
    rw [State.modChan_chan, if_neg fun e => of_decide_eq_false hne e.symm]
    exact h.stands d hd
  engine := by
    show (upd t.reqs 4 _)[(4 : Fin 5)] = _
    rw [upd_get, if_pos rfl, h.engine, Option.map_map]
    simp only [Function.comp_def, Request.outlive_discardFor]
  prog := by
    show t.inProg.map _ = _
    rw [h.prog, Option.map_map]
    simp only [Function.comp_def, Request.outlive_discardFor]
  resting := h.resting
  held := h.held
  refused := h.refused

/-- A reset stops a channel that is not IDLE (R131, R133). -/
theorem Halting.stopByReset {c : ChanId} (hF : s.chans[c].state ≠ .idle → F c = true) :
    Halting F (fun d => H d || decide (s.chans[d].state ≠ .idle) && decide (d = c)) R s (t.stopByReset c) := by
  unfold State.stopByReset
  split
  · next hi =>
    have e : (fun d => H d || decide (s.chans[d].state ≠ .idle) && decide (d = c)) = H := by
      funext d
      by_cases hd : d = c
      · subst hd
        obtain hh | hs := (h.idle_iff d).mp hi
        · rw [hh]; rfl
        · show (H d || decide (s.chans[d].state ≠ .idle) && _) = H d
          rw [decide_eq_false fun n => n hs, Bool.false_and, Bool.or_false]
      · simp [hd]
    rw [e]
    exact h
  · next hi =>
    rw [h.idle_iff c, not_or] at hi
    obtain ⟨hc, hs⟩ := hi
    have e : (fun d => H d || decide (s.chans[d].state ≠ .idle) && decide (d = c)) = alsoHalted H c := by
      funext d
      by_cases hd : d = c
      · subst hd
        show (H d || decide (s.chans[d].state ≠ .idle) && _) = (H d || _)
        rw [decide_eq_true hs, Bool.true_and]
      · simp [alsoHalted, hd]
    rw [e]
    exact (((h.detach (Bool.eq_false_iff.mpr hc) rfl).closeAssemblies (hF hs)).leaveLock c).deliverDone c _

/-- A port that waits at the ring is refused (R89 step 3, R76). -/
theorem Halting.refuse (p : PortId) : Halting F H (fun q => R q ∨ q = p) s (t.refuse p .ringReset) := by
  have hsame (x : Reason) : (t.refuse p x).rings = t.rings ∧ (t.refuse p x).chans = t.chans ∧
      (t.refuse p x).reqs = t.reqs ∧ (t.refuse p x).inProg = t.inProg := by
    cases hc : t.ports[p].cycle with
    | none => unfold State.refuse; rw [hc]; exact ⟨rfl, rfl, rfl, rfl⟩
    | some c =>
      rw [State.refuse_of_cycle hc]
      unfold State.refusedHeld
      rw [State.deliver_eq]
      exact ⟨rfl, rfl, rfl, rfl⟩
  obtain ⟨hr, hk, hq, hi⟩ := hsame .ringReset
  have hother (q : PortId) (n : q ≠ p) : (t.refuse p .ringReset).ports[q] = t.ports[q] := by
    cases hc : t.ports[p].cycle with
    | none => unfold State.refuse; rw [hc]
    | some c =>
      rw [State.refuse_of_cycle hc]
      unfold State.refusedHeld
      rw [State.modPort_port_other _ _ n.symm, State.deliver_ports]
  have hnone (hc : t.ports[p].cycle = none) : t.refuse p .ringReset = t := by unfold State.refuse; rw [hc]
  refine ⟨hr ▸ h.rings, hk ▸ h.halted, hk ▸ h.stands, hq ▸ h.engine, hi ▸ h.prog, fun q e => ?_, fun q c hc hR => ?_,
    fun q c hc hd hR => ?_⟩
  · by_cases n : q = p
    · subst n
      rw [hnone (by rw [h.resting q e]; exact e)]
      exact h.resting q e
    · rw [hother q n]
      exact h.resting q e
  · rw [not_or] at hR
    rw [hother q hR.2]
    exact h.held q c hc hR.1
  · by_cases hRq : R q
    · have hw := h.refused q c hc hd hRq
      by_cases n : q = p
      · subst n
        rw [hnone hw.1]
        exact hw
      · rw [hother q n]
        exact hw
    · obtain rfl := hR.resolve_left hRq
      obtain ⟨d, hd1, hd2, hd3, hd4⟩ := h.held q c hc hRq
      rw [State.refuse_of_cycle hd1]
      unfold State.refusedHeld
      rw [State.modPort_port_same, State.deliver_ports, hd2, hd3, hd4, hd]
      exact ⟨rfl, rfl, rfl⟩

theorem Halting.congr {H' : ChanId → Bool} {R' : PortId → Prop} (hH : ∀ d, H' d = H d) (hR : ∀ q, R' q ↔ R q) :
    Halting F H' R' s t := by
  obtain rfl : H' = H := funext hH
  exact { h with held := fun q c hc hn => h.held q c hc fun e => hn ((hR q).mpr e)
                 refused := fun q c hc hd hq => h.refused q c hc hd ((hR q).mp hq) }

/-- The claimant of an entry in the stall queue (R89 steps 3, 4). -/
theorem Halting.resetClaimant {x : Post} (hF : ∀ c, x.who = .chan c → s.chans[c].state ≠ .idle → F c = true) :
    Halting F (fun d => H d || decide (s.chans[d].state ≠ .idle) && decide (x.who = .chan d)) (fun q => R q ∨ x.who = .port q) s
      (t.resetClaimant x) := by
  unfold State.resetClaimant
  cases hw : x.who with
  | port p => exact (h.refuse p).congr (fun d => by simp) fun q => by rw [Claimant.port.injEq, eq_comm]
  | chan c =>
    exact (h.stopByReset (hF c hw)).congr (fun d => by simp only [Claimant.chan.injEq, eq_comm (a := c)])
      fun q => by simp

/-- The opened post awaiting issue (R76). -/
theorem Halting.resetAwaiting (a : Option Post) :
    Halting F H (fun q => R q ∨ ∃ e, a = some e ∧ e.who = .port q) s (t.resetAwaiting a) := by
  unfold State.resetAwaiting
  cases a with
  | none => exact h.congr (fun _ => rfl) fun q => by simp
  | some x =>
    cases hw : x.who with
    | port p =>
      dsimp only
      rw [hw]
      exact (h.refuse p).congr (fun _ => rfl) fun q => by simp [hw, eq_comm]
    | chan c =>
      dsimp only
      rw [hw]
      exact h.congr (fun _ => rfl) fun q => by simp [hw]

/-- The FEED channel that owned the post assembly (R89 step 5). -/
theorem Halting.resetOwner (a : Option PostAsm) (hF : ∀ m c, a = some m → m.owner = .chan c →
    s.chans[c].desc.op = some .feed → s.chans[c].state ≠ .idle → F c = true) :
    Halting F (fun d => H d || decide (s.chans[d].state ≠ .idle) && (decide (s.chans[d].desc.op = some .feed) &&
      a.any fun m => decide (m.owner = .chan d))) R s (t.resetOwner a) := by
  have hdesc (c : ChanId) : t.chans[c].desc = s.chans[c].desc := by
    cases hc : H c with
    | true => rw [h.halted c hc]; rfl
    | false => obtain ⟨x, hx, -⟩ := h.stands c hc; rw [hx]
  unfold State.resetOwner
  cases a with
  | none => exact h.congr (fun d => by simp) fun _ => Iff.rfl
  | some m =>
    cases hw : m.owner with
    | port p =>
      dsimp only
      rw [hw]
      exact h.congr (fun d => by simp [hw]) fun _ => Iff.rfl
    | chan c =>
      dsimp only
      rw [hw]
      dsimp only
      rw [hdesc]
      split
      · next ho =>
        refine (h.stopByReset (hF m c rfl hw ho)).congr (fun d => ?_) fun _ => Iff.rfl
        simp only [Option.any_some, hw, Claimant.chan.injEq]
        by_cases e : c = d
        · subst e; rw [decide_eq_true ho, Bool.true_and]
        · rw [decide_eq_false e, decide_eq_false (Ne.symm e), Bool.and_false, Bool.and_false]
      · next ho =>
        refine h.congr (fun d => ?_) fun _ => Iff.rfl
        simp only [Option.any_some, hw, Claimant.chan.injEq]
        by_cases e : c = d
        · subst e; rw [decide_eq_false ho, Bool.false_and, Bool.and_false, Bool.or_false]
        · rw [decide_eq_false e, Bool.and_false, Bool.and_false, Bool.or_false]

end

/-- The stall queue is gone through from its head (R89 steps 3, 4). -/
theorem Halting.resetStall {F : ChanId → Bool} {s : State} : ∀ (l : List StallEntry) {H : ChanId → Bool} {R : PortId → Prop}
    {t : State}, Halting F H R s t → (∀ e ∈ l, ∀ c, e.post.who = .chan c → s.chans[c].state ≠ .idle → F c = true) →
    Halting F (fun d => H d || decide (s.chans[d].state ≠ .idle) && l.any fun e => decide (e.post.who = .chan d))
      (fun q => R q ∨ ∃ e ∈ l, e.post.who = .port q) s (l.foldl (fun u e => u.resetClaimant e.post) t)
  | [], _, _, _, h, _ => h.congr (fun d => by simp) fun q => by simp
  | e :: l, _, _, _, h, hF =>
    (Halting.resetStall l (h.resetClaimant (hF e List.mem_cons_self)) fun x hx => hF x (List.mem_cons_of_mem _ hx)).congr
      (fun d => by rw [List.any_cons, Bool.and_or_distrib_left, Bool.or_assoc])
      fun q => by rw [List.exists_mem_cons_iff, or_assoc]

/-- The ports whose cycles a reset of ring `r` refuses. -/
def State.waitsAt (s : State) (r : RingId) (q : PortId) : Prop :=
  (∃ e ∈ s.rings[r].stall, e.post.who = .port q) ∨ ∃ e, s.rings[r].awaiting = some e ∧ e.who = .port q

theorem State.haltedBy_of_stall {s : State} {r : RingId} {c : ChanId} {e : StallEntry} (he : e ∈ s.rings[r].stall)
    (hw : e.post.who = .chan c) (hs : s.chans[c].state ≠ .idle) : s.haltedBy r c = true := by
  unfold State.haltedBy
  rw [decide_eq_true hs, List.any_eq_true.mpr ⟨e, he, decide_eq_true hw⟩]
  rfl

theorem State.haltedBy_of_owner {s : State} {r : RingId} {c : ChanId} {m : PostAsm} (hm : s.rings[r].postAsm = some m)
    (hw : m.owner = .chan c) (ho : s.chans[c].desc.op = some .feed) (hs : s.chans[c].state ≠ .idle) :
    s.haltedBy r c = true := by
  unfold State.haltedBy
  rw [decide_eq_true hs, decide_eq_true ho, hm, Option.any_some, decide_eq_true hw]
  exact Bool.or_true _

/-- A ring reset, after its ring has been cleared (R89). -/
theorem Halting.resetRing (s : State) (r : RingId) :
    Halting (s.haltedBy r) (s.haltedBy r) (s.waitsAt r) (s.modRing r (·.cleared)) (s.resetRing r) := by
  have h0 := (Halting.refl (s.haltedBy r) (s.modRing r (·.cleared))).resetAwaiting s.rings[r].awaiting
  have h1 := h0.resetStall s.rings[r].stall fun e he c hw hs => State.haltedBy_of_stall he hw hs
  have h2 := h1.resetOwner s.rings[r].postAsm fun m c hm hw ho hs => State.haltedBy_of_owner hm hw ho hs
  refine h2.congr (fun d => ?_) fun q => ?_
  · rw [Bool.false_or, ← Bool.and_or_distrib_left]
    rfl
  · rw [false_or]
    exact or_comm

/-! ## What the specification says of the rings after a reset is `Ring.outlive` -/

theorem State.ringBeside_eq (s : State) (r k : RingId) : s.ringBeside r k = (s.rings[k]).outlive (s.haltedBy r) := rfl

theorem State.ringAfterReset_eq (s : State) (r : RingId) :
    s.ringAfterReset r = (s.rings[r].cleared).outlive (s.haltedBy r) := by
  unfold State.ringAfterReset Ring.outlive Ring.cleared
  rw [Option.map_map]
  rfl

/-- The ring that is reset. -/
theorem State.resetRing_ring_eq (s : State) (r : RingId) : (s.resetRing r).rings[r] = s.ringAfterReset r := by
  have e : (s.modRing r (·.cleared)).rings[r] = s.rings[r].cleared := State.modRing_ring_same _ _ _
  rw [State.ringAfterReset_eq, ← e]
  exact (Halting.resetRing s r).rings r fun m c hm => by rw [e] at hm; exact nomatch hm

/-- Another ring, with no assembly of a channel that the reset stops. -/
theorem State.resetRing_ring_other {s : State} {r k : RingId} (n : k ≠ r) (hk : s.rings[k].spared (s.haltedBy r)) :
    (s.resetRing r).rings[k] = s.ringBeside r k := by
  have e : (s.modRing r (·.cleared)).rings[k] = s.rings[k] := State.modRing_other _ (Ne.symm n) _
  rw [State.ringBeside_eq, ← e]
  exact (Halting.resetRing s r).rings k (e ▸ hk)

/-! ## The reset of a ring whose assembly alone stops a channel -/

section
variable {s : State} {c : ChanId} {r : RingId} {m : PostAsm} (hs : s.rings[r].stall = []) (hm : s.rings[r].postAsm = some m)
  (ho : m.owner = .chan c) (hi : s.chans[c].state ≠ .idle) (hf : s.chans[c].desc.op = some .feed)
include hs hm ho hi hf

theorem State.haltedBy_alone : s.haltedBy r = alsoHalted (fun _ => false) c := by
  funext d
  show (decide (s.chans[d].state ≠ .idle) && (s.rings[r].stall.any (fun e => decide (e.post.who = .chan d)) ||
    decide (s.chans[d].desc.op = some .feed) && s.rings[r].postAsm.any fun m => decide (m.owner = .chan d))) = (false || decide (d = c))
  rw [hs, hm]
  simp only [List.any_nil, Option.any_some, ho, Bool.false_or, Claimant.chan.injEq]
  by_cases e : d = c
  · subst e
    simp only [hf, decide_true, Bool.and_true]
    exact decide_eq_true hi
  · rw [decide_eq_false e, decide_eq_false (Ne.symm e), Bool.and_false, Bool.and_false]

/-- What the channel has at the rings no longer counts, and there it has nothing else. -/
theorem State.cleared_unlive : (Vector.ofFn fun k : RingId => ((s.modRing r (·.cleared)).rings[k]).unlive c) = s.ringsAfterReset r := by
  have hu (k : Ring) : k.unlive c = k.outlive (s.haltedBy r) := by
    rw [State.haltedBy_alone hs hm ho hi hf, ← Ring.outlive_unlive, Ring.outlive_none]
  unfold State.ringsAfterReset
  congr 1
  funext k
  rw [hu, State.ringAfterReset_eq, State.ringBeside_eq]
  split
  · next e => subst e; rw [State.modRing_ring_same]
  · next e => rw [State.modRing_other _ (Ne.symm e)]

theorem State.detach_alone (hq : ∀ (q : Request) (y : ChanStep), s.reqs[(4 : Fin 5)] = some q → q.issuer ≠ .chan c y)
    (hp : ∀ (x : Access) (y : ChanStep), s.inProg = some x → x.req.issuer ≠ .chan c y) :
    (s.modRing r (·.cleared)).detachChan c = { s with rings := s.ringsAfterReset r } := by
  have hd {q : Request} (hn : ∀ y : ChanStep, q.issuer ≠ .chan c y) : q.discardFor c = q := by
    unfold Request.discardFor Request.ofChan
    cases e : q.issuer with
    | chan d y => exact if_neg fun h => hn y (e.trans (congrArg (Issuer.chan · y) (of_decide_eq_true h)))
    | _ => rfl
  have h4 : upd s.reqs 4 (fun q => q.map (·.discardFor c)) = s.reqs := by
    refine upd_id _ _ _ ?_
    cases h : s.reqs[(4 : Fin 5)] with
    | none => rfl
    | some q => exact congrArg some (hd fun y => hq q y h)
  have h5 : s.inProg.map (fun (a : Access) => { a with req := a.req.discardFor c }) = s.inProg := by
    cases h : s.inProg with
    | none => rfl
    | some x => exact congrArg some (congrArg (fun q => { x with req := q }) (hd fun y => hp x y h))
  show ({ s with reqs := upd s.reqs 4 fun q => q.map (·.discardFor c), inProg := s.inProg.map _,
                 rings := Vector.ofFn fun k : RingId => ((s.modRing r (·.cleared)).rings[k]).unlive c } : State) = _
  rw [h4, h5, State.cleared_unlive hs hm ho hi hf]

/-- The state as a whole (R89 step 5, R110, R132, R134). -/
theorem State.resetRing_alone {u : State} {st : Status} (ha : s.rings[r].awaiting = none)
    (hk : ∀ (k : RingId) (j : PostAsm), k ≠ r → s.rings[k].postAsm = some j → j.owner ≠ .chan c)
    (hq : ∀ (q : Request) (y : ChanStep), s.reqs[(4 : Fin 5)] = some q → q.issuer ≠ .chan c y)
    (hp : ∀ (x : Access) (y : ChanStep), s.inProg = some x → x.req.issuer ≠ .chan c y)
    (hst : st = (match s.chans[c].stopPending with | some x => x | none => .ringReset))
    (hu : LeftLock (({ s with rings := s.ringsAfterReset r }).modChan c fun k => k.over st) c u) :
    s.resetRing r = match s.chans[c].owner with
      | some q => u.deliver q (.chanDone c) (BitVec.ofNat 16 st.code)
      | none => u := by
  have hstop : s.resetRing r = (s.modRing r (·.cleared)).stopByReset c := by
    unfold State.resetRing
    dsimp only
    rw [hs, ha, hm]
    unfold State.resetOwner
    dsimp only
    rw [ho]
    exact if_pos hf
  have hend : (s.modRing r (·.cleared)).stopByReset c = ({ s with rings := s.ringsAfterReset r } : State).endRunByReset c st := by
    unfold State.stopByReset
    rw [if_neg (by exact hi), State.detach_alone hs hm ho hi hf hq hp, hst]
    rfl
  have howns (k : RingId) :
      ((({ s with rings := s.ringsAfterReset r } : State).modChan c fun k => k.over st).rings[k]).ownsPost (.chan c) = false := by
    refine Ring.ownsPost_false fun j hj => ?_
    have hring : (s.ringsAfterReset r)[k] = if k = r then s.ringAfterReset r else s.ringBeside r k := by
      unfold State.ringsAfterReset
      rw [Fin.getElem_fin, Vector.getElem_ofFn]
    replace hj : (s.ringsAfterReset r)[k].postAsm = some j := hj
    rw [hring] at hj
    split at hj
    · exact nomatch hj
    · next e => exact hk k j e hj
  have hown : u.chans[c].owner = s.chans[c].owner := by
    have hsame := (((SameChans.refl (·.owner) s).modChan c (f := fun k => k.over st) fun _ => rfl) c).symm
    have hleft := (SameChans.refl (·.owner) (({ s with rings := s.ringsAfterReset r } : State).modChan c fun k =>
      k.over st)).leaveLock (fun _ _ => rfl) c c
    rw [State.leaveLock_of_left hu] at hleft
    exact hleft.trans hsame.symm
  have hrun : (({ s with rings := s.ringsAfterReset r } : State).modChan c fun k => k.ended st).closeAssemblies c =
      ({ s with rings := s.ringsAfterReset r } : State).modChan c fun k => k.over st :=
    State.closeAssemblies_of_unowned howns
  rw [hstop, hend]
  unfold State.endRunByReset State.deliverDone
  rw [hrun, State.leaveLock_of_left hu]
  cases ho : s.chans[c].owner <;> simp only [hown, ho]

end

/-! ## A ring reset beside a write of P0 -/

section
variable {a : Addr} {v : Word} {s t : State} (h : BesideWrite a v s t)
include h

theorem BesideWrite.modPort {p : PortId} (hp : p ≠ 0) (f : Port → Port) : BesideWrite a v (s.modPort p f) (t.modPort p f) := by
  obtain ⟨hn, w, hw, rfl⟩ := h
  refine ⟨(congrArg Port.cycle (State.modPort_port_other s _ hp)).trans hn, w, hw, ?_⟩
  unfold State.modPort
  rw [upd_comm _ _ _ (Ne.symm hp)]

theorem BesideWrite.port {p : PortId} (hp : p ≠ 0) : t.ports[p] = s.ports[p] := by
  obtain ⟨_, w, _, rfl⟩ := h
  exact State.modPort_port_other s _ (Ne.symm hp)

/-- The cycle of another port is refused. -/
theorem BesideWrite.refuse {p : PortId} (hp : p ≠ 0) (x : Reason) : BesideWrite a v (s.refuse p x) (t.refuse p x) := by
  cases hc : s.ports[p].cycle with
  | none =>
    unfold State.refuse
    rw [h.port hp, hc]
    exact h
  | some c =>
    rw [State.refuse_of_cycle hc, State.refuse_of_cycle (by rw [h.port hp]; exact hc)]
    exact (h.deliver p _ _).modPort hp _

theorem BesideWrite.detachChan (c : ChanId) : BesideWrite a v (s.detachChan c) (t.detachChan c) := by
  obtain ⟨hn, w, hw, rfl⟩ := h
  exact ⟨hn, w, hw, rfl⟩

theorem BesideWrite.stopByReset (c : ChanId) : BesideWrite a v (s.stopByReset c) (t.stopByReset c) := by
  unfold State.stopByReset
  rw [h.chans]
  split
  · exact h
  · exact ((((h.detachChan c).modChan c _).closeAssemblies c).leaveLock c).deliverDone c _

theorem BesideWrite.resetClaimant {q : Post} (hq : q.who ≠ .port 0) : BesideWrite a v (s.resetClaimant q) (t.resetClaimant q) := by
  unfold State.resetClaimant
  cases hw : q.who with
  | port p => exact h.refuse (fun e => hq (hw.trans (congrArg Claimant.port e))) _
  | chan c => exact h.stopByReset c

theorem BesideWrite.resetAwaiting {q : Option Post} (hq : ∀ e : Post, q = some e → e.who ≠ .port 0) :
    BesideWrite a v (s.resetAwaiting q) (t.resetAwaiting q) := by
  unfold State.resetAwaiting
  cases q with
  | none => exact h
  | some e =>
    cases hw : e.who with
    | port p =>
      dsimp only
      rw [hw]
      exact h.refuse (fun n => hq e rfl (hw.trans (congrArg Claimant.port n))) _
    | chan c =>
      dsimp only
      rw [hw]
      exact h

theorem BesideWrite.resetOwner (m : Option PostAsm) : BesideWrite a v (s.resetOwner m) (t.resetOwner m) := by
  unfold State.resetOwner
  rw [h.chans]
  repeat' split
  · exact h.stopByReset _
  all_goals exact h

omit h in
theorem BesideWrite.resetStall : ∀ (l : List StallEntry) {s t : State}, BesideWrite a v s t →
    (∀ e ∈ l, e.post.who ≠ .port 0) →
    BesideWrite a v (l.foldl (fun u e => u.resetClaimant e.post) s) (l.foldl (fun u e => u.resetClaimant e.post) t)
  | [], _, _, h, _ => h
  | e :: l, _, _, h, hl =>
    BesideWrite.resetStall l (h.resetClaimant (hl e List.mem_cons_self)) fun x hx => hl x (List.mem_cons_of_mem _ hx)

/-- No post of P0 waits at the ring. -/
theorem BesideWrite.resetRing {r : RingId} (hs : ∀ e ∈ s.rings[r].stall, e.post.who ≠ .port 0)
    (ha : ∀ e : Post, s.rings[r].awaiting = some e → e.who ≠ .port 0) : BesideWrite a v (s.resetRing r) (t.resetRing r) := by
  unfold State.resetRing
  dsimp only
  rw [h.rings]
  exact ((BesideWrite.resetStall _ ((h.modRing r _).resetAwaiting ha) hs).resetOwner _)

end

/-! ## O31: RING_RESET -/

/-- A RING_RESET write of P0 reaches the ring engine (R9). -/
theorem exec_ringReset {s : State} (h : s.ready 0) (r : RingId) : exec (.ringReset 0 r) s =
    .next ((s.taking 0 .write 0x3FDFD#18 (BitVec.ofNat 16 (0x200 + r.val))).doRingReset r) := by
  rw [exec_portWord h (i := .ringReset 0 r) rfl 13 rfl, State.portWindow_write _ _ rfl (.inr rfl)]
  show Host.Outcome.next (State.writeControl 0 (Control.ringReset r).word _) = _
  unfold State.writeControl
  rw [controlOf_ringReset]
  rfl

theorem exec_ringReset_disabled {s : State} (h : s.ready 0) {r : RingId} (he : s.recs[r].enable = false) :
    exec (.ringReset 0 r) s = .next (s.written 0) := by
  rw [exec_ringReset h]
  unfold State.doRingReset
  rw [if_neg (by show ¬s.recs[r].enable = true; rw [he]; exact Bool.false_ne_true)]
  exact congrArg _ (State.completeWrite_accept _ _ _ _ _ _)

theorem exec_ringReset_enabled {s : State} (h : s.ready 0) {r : RingId} (he : s.recs[r].enable = true) :
    exec (.ringReset 0 r) s =
      .next (((s.taking 0 .write 0x3FDFD#18 (BitVec.ofNat 16 (0x200 + r.val))).resetRing r).completeWrite 0) := by
  rw [exec_ringReset h]
  unfold State.doRingReset
  rw [if_pos (by exact he)]

/-- No post of P0 waits at the ring: the reset and the end of the write do not meet. -/
theorem exec_ringReset_beside {s : State} (h : s.ready 0) {r : RingId} (he : s.recs[r].enable = true)
    (hs : ∀ e ∈ s.rings[r].stall, e.post.who ≠ .port 0) (ha : ∀ e : Post, s.rings[r].awaiting = some e → e.who ≠ .port 0) :
    exec (.ringReset 0 r) s = .next ((s.resetRing r).written 0) := by
  rw [exec_ringReset_enabled h he]
  exact congrArg _ (((BesideWrite.taking _ _ h.2).resetRing hs ha).completeWrite)

/-- The write of P0 that asked for the reset, in progress still or refused by it, ends. -/
theorem Halting.completeWrite {F H : ChanId → Bool} {R : PortId → Prop} {s t : State} (h : Halting F H R s t) {c : Cycle}
    (hc : s.ports[(0 : PortId)].cycle = some c) (hd : c.dir = .write) :
    (t.completeWrite 0).ports[(0 : PortId)].cycle = none ∧ (t.completeWrite 0).ports[(0 : PortId)].last = some .write := by
  by_cases hR : R 0
  · obtain ⟨hn, hl, -⟩ := h.refused 0 c hc hd hR
    unfold State.completeWrite State.completeCycle
    rw [State.modPort_port_same, hn]
    exact ⟨hn, hl⟩
  · obtain ⟨d, hk, -⟩ := h.held 0 c hc hR
    rw [State.completeWrite_of_cycle hk, State.modPort_port_same]
    exact ⟨rfl, rfl⟩

/-- The request of a channel that has been stopped is abandoned. -/
theorem Request.outlive_of_halted {H : ChanId → Bool} {q : Request} {c : ChanId} {y : ChanStep} (hi : q.issuer = .chan c y)
    (hc : H c = true) : q.outlive H = { q with abandoned := true } := by
  unfold Request.outlive
  rw [hi]
  exact if_pos hc

/-- Settles O31: `Halting` of the whole reset says what each clause asks; where an assembly alone stops its channel, nothing of P0
waits at the ring, and the state is that of the reset with the write ended. -/
theorem ringResetCommand : Obligations.RingResetCommand := by
  intro s r h
  refine ⟨exec_ringReset_disabled h, fun he => ?_,
    fun c m u he hs ha hm ho hi hf hk hq hp st hst hu => ?_⟩
  · obtain ⟨v, hv⟩ : ∃ v : Word, exec (.ringReset 0 r) s =
        .next (((s.taking 0 .write 0x3FDFD#18 v).resetRing r).completeWrite 0) := ⟨_, exec_ringReset_enabled h he⟩
    have hh := Halting.resetRing (s.taking 0 .write 0x3FDFD#18 v) r
    have hr := (s.taking 0 .write 0x3FDFD#18 v).resetRing_ring_eq r
    have hb (k : RingId) (n : k ≠ r) (hk : s.rings[k].spared (s.haltedBy r)) :=
      State.resetRing_ring_other (s := s.taking 0 .write 0x3FDFD#18 v) n hk
    have hrecs := ((Quiet.refl (s.taking 0 .write 0x3FDFD#18 v)).resetRing r).config
    have hc : (s.taking 0 .write 0x3FDFD#18 v).ports[(0 : PortId)].cycle = some _ :=
      congrArg Port.cycle (State.modPort_port_same s 0 _)
    obtain ⟨hc0, hl0⟩ := hh.completeWrite hc rfl
    obtain ⟨-, -, -, -, -, -, hrecs, -⟩ := hrecs
    generalize (s.taking 0 .write 0x3FDFD#18 v).resetRing r = u at hv hh hr hb hrecs hc0 hl0
    refine ⟨_, hv, hr, hb, hrecs, hc0, hl0, fun q c n hq hd hw => ?_, fun c hc => ⟨hh.halted c hc, ?_, ?_⟩, fun c hc => ?_⟩
    · have e : (s.taking 0 .write 0x3FDFD#18 v).ports[q] = s.ports[q] :=
        State.modPort_port_other s _ (Ne.symm n)
      have ht : (u.completeWrite 0).ports[q] = u.ports[q] := State.modPort_port_other u _ (Ne.symm n)
      rw [ht, ← e]
      exact hh.refused q c ((congrArg Port.cycle e).trans hq) hd hw
    · intro q y hq hy
      refine hh.engine.trans ?_
      rw [← Request.outlive_of_halted hy hc]
      exact congrArg (Option.map (·.outlive (s.haltedBy r))) hq
    · intro x y hx hy
      refine hh.prog.trans ?_
      rw [← Request.outlive_of_halted hy hc]
      exact congrArg (Option.map fun x : Access => { x with req := x.req.outlive (s.haltedBy r) }) hx
    · obtain ⟨x, hx, hi⟩ := hh.stands c hc
      rw [show (u.completeWrite 0).chans[c] = u.chans[c] from rfl, hx]
      exact ⟨hi, rfl⟩
  · rw [exec_ringReset_beside h he (by rw [hs]; exact fun _ he => nomatch he) (by rw [ha]; exact fun _ he => nomatch he)]
    exact congrArg (fun x : State => Host.Outcome.next (x.written 0)) (State.resetRing_alone hs hm ho hi hf ha hk hq hp hst hu)

end Sys2Proof.Machine

/-! PROOFS. The commit of a ring record (R159, R160, R91, R165, R167): the candidate taken or rejected, the ring's reset under the
old configuration beside P0's write of the table word, and the word's way to memory (O37). -/

namespace Sys2Proof.Machine

/-! ## A commit -/

theorem candidate_eq {n : Nat} {live d : Vector Word n} {staged : Vector (Option Word) n}
    (h : ∀ k : Fin n, d[k] = match staged[k] with | some x => x | none => live[k]) : candidate live staged = d := by
  apply Vector.ext
  intro k hk
  unfold candidate
  rw [Vector.getElem_ofFn]
  exact (h ⟨k, hk⟩).symm

/-- The TABLE detail of a ring's control word (Table 11-2). -/
theorem tableDetail_ringCtl (r : RingId) (x : TableReason) :
    tableDetail (ringIndex r 7) x = BitVec.ofNat 16 (0x97 + 8 * r.val + 4096 * x.code) := by
  have hr := r.isLt
  have hm : ringIndex r 7 % 512 = 0x97 + 8 * r.val := by
    unfold ringIndex
    omega
  unfold tableDetail
  rw [hm]

section
variable {s : State} {r : RingId} {d : Vector Word 7} {v : Word}

/-- Disabling, and a candidate that passes (R160, R91). -/
theorem State.commitRing_install (hc : candidate s.recs[r].data s.recs[r].staged = d) (hd : s.recs[r].damaged = false)
    (hv : v.getLsbD 0 = false ∨ s.ringReject r d = none) : s.commitRing r v = s.installRing r d (v.getLsbD 0) := by
  unfold State.commitRing
  dsimp only
  rw [hc, hd, if_neg Bool.false_ne_true]
  unfold bit
  split
  · next h0 => rw [h0]
  · next h0 =>
    rw [hv.resolve_left h0, (Bool.not_eq_false _).mp h0]

/-- A candidate that fails, and the commit of a damaged record (R160, R167). -/
theorem State.commitRing_reject {x : TableReason} (hc : candidate s.recs[r].data s.recs[r].staged = d)
    (hx : s.recs[r].damaged = false ∧ v.getLsbD 0 = true ∧ s.ringReject r d = some x ∨
      s.recs[r].damaged = true ∧ x = .parity) :
    s.commitRing r v = (s.modRec r (·.unstage)).deliver 0 .table (BitVec.ofNat 16 (0x97 + 8 * r.val + 4096 * x.code)) := by
  rw [← tableDetail_ringCtl]
  unfold State.commitRing bit
  dsimp only
  obtain ⟨hd, hv, hr⟩ | ⟨hd, rfl⟩ := hx
  · rw [hc, hd, if_neg Bool.false_ne_true, hv, if_neg (fun e => Bool.noConfusion e), hr]
    rfl
  · rw [hd]
    rfl

end

/-- A ring with nothing in it is reset already. -/
theorem State.resetRing_of_reset {s : State} {r : RingId} (h : s.rings[r] = Ring.reset) : s.resetRing r = s := by
  unfold State.resetRing
  dsimp only
  rw [State.modRing_self (by rw [h]; rfl), h]
  rfl

/-! ## The commit beside P0's write of the table word -/

section
variable {a : Addr} {v : Word} {s t : State} (h : BesideWrite a v s t)
include h

theorem BesideWrite.modRec (r : RingId) (f : RingRec → RingRec) : BesideWrite a v (s.modRec r f) (t.modRec r f) := by
  obtain ⟨hn, w, hw, rfl⟩ := h
  exact ⟨hn, w, hw, rfl⟩

/-- The write passes to memory: its state is the one beside it, with the request made. -/
theorem BesideWrite.toMemory (k : AccKind) (g : Option WatchTag) :
    t.toMemory 0 k a g = s.requested 0 .write a v .memory (portRequest 0 k a g) := by
  obtain ⟨_, w, _, rfl⟩ := h
  exact State.toMemory_accept _ _ _ _ _ _ _ _

end

/-- P0's write of a ring's control word commits the record, and passes to memory (R10, R152). -/
theorem exec_ringCommit {s : State} (h : s.ready 0) (r : RingId) (v : Word) {a : Addr}
    (ha : a = BitVec.ofNat 18 (0x3FE97 + 8 * r.val)) : exec (.ringCommit r v) s =
      .next (((s.taking 0 .write a v).commitRing r v).toMemory 0 (.write v) a none) := by
  have hr := r.isLt
  have hn : ringIndex r 7 = 0x97 + 8 * r.val := by unfold ringIndex; omega
  have hat : tableAddr (ringIndex r 7) = a := by
    rw [ha, hn]
    show BitVec.ofNat 18 (0x3FE00 + (0x97 + 8 * r.val)) = _
    rw [← Nat.add_assoc]
  have hi : cycleOf (.ringCommit r v) = some (0, .write, a, v) := hat ▸ rfl
  have ht : a.toNat = 0x3FE00 + ringIndex r 7 := hat ▸ tableAddr_toNat (by omega)
  rw [exec_table h hi (ht ▸ Nat.le_add_right _ _)]
  unfold State.tableCycle
  dsimp only
  rw [if_pos rfl, ht, Nat.add_sub_cancel_left, hn, tableWordOf_ringCtl]
  rfl

/-! ## O37 -/

section
variable {s : State} {r : RingId} {d : Vector Word 7} {v : Word} {a : Addr}
  (hc : candidate s.recs[r].data s.recs[r].staged = d) (ha : a = BitVec.ofNat 18 (0x3FE97 + 8 * r.val)) (h : s.ready 0)
include hc ha h

theorem exec_ringCommit_install (hd : s.recs[r].damaged = false) (hv : v.getLsbD 0 = false ∨ s.ringReject r d = none) :
    exec (.ringCommit r v) s =
      .next (((s.taking 0 .write a v).installRing r d (v.getLsbD 0)).toMemory 0 (.write v) a none) := by
  rw [exec_ringCommit h r v ha, State.commitRing_install (s := s.taking 0 .write a v) hc hd hv]

/-- No post of P0 waits at the ring: the reset and the write do not meet. -/
theorem exec_ringCommit_beside (hd : s.recs[r].damaged = false) (hv : v.getLsbD 0 = false ∨ s.ringReject r d = none)
    (hs : ∀ e ∈ s.rings[r].stall, e.post.who ≠ .port 0) (hw : ∀ e : Post, s.rings[r].awaiting = some e → e.who ≠ .port 0) :
    exec (.ringCommit r v) s = .next ((s.installRing r d (v.getLsbD 0)).requested 0 .write a v .memory
      (portRequest 0 (.write v) a none)) := by
  rw [exec_ringCommit_install hc ha h hd hv]
  exact congrArg _ ((((BesideWrite.taking a v h.2).resetRing hs hw).modRec r _).toMemory _ _)

theorem exec_ringCommit_reject {x : TableReason} (hx : s.recs[r].damaged = false ∧ v.getLsbD 0 = true ∧
      s.ringReject r d = some x ∨ s.recs[r].damaged = true ∧ x = .parity) :
    exec (.ringCommit r v) s = .next ((s.commitRing r v).requested 0 .write a v .memory (portRequest 0 (.write v) a none)) := by
  rw [exec_ringCommit h r v ha, State.commitRing_reject (s := s.taking 0 .write a v) hc hx, State.commitRing_reject hc hx]
  exact congrArg _ ((((BesideWrite.taking a v h.2).modRec r _).deliver 0 .table _).toMemory _ _)

end

/-- The reset of a ring at which no post of P0 waits, its CONTROL write left out. -/
theorem State.resetRing_of_exec {s t : State} {r : RingId} (h : s.ready 0) (he : s.recs[r].enable = true)
    (hs : ∀ e ∈ s.rings[r].stall, e.post.who ≠ .port 0) (hw : ∀ e : Post, s.rings[r].awaiting = some e → e.who ≠ .port 0)
    (ht : exec (.ringReset 0 r) s = .next t) :
    ({ t with ports := upd t.ports 0 fun _ => s.ports[(0 : PortId)] } : State) = s.resetRing r := by
  rw [exec_ringReset_beside h he hs hw] at ht
  obtain rfl := Host.Outcome.next.inj ht
  show ((s.resetRing r).written 0).modPort 0 (fun _ => s.ports[(0 : PortId)]) = _
  have hp : (s.resetRing r).ports[(0 : PortId)] = s.ports[(0 : PortId)] := (Halting.resetRing s r).resting 0 h.2
  unfold State.written
  rw [State.modPort_modPort]
  unfold State.modPort
  rw [upd_id _ _ _ hp.symm]

/-- Settles O37: the commit installs or rejects by its first check that decides, and its word goes to memory. -/
theorem ringCommit : Obligations.RingCommit := by
  intro s r v d a hd ha
  have hc : candidate s.recs[r].data s.recs[r].staged = d := candidate_eq hd
  refine ⟨fun hn hv => ⟨fun h => ⟨_, exec_ringCommit_install hc ha h hn hv, ?_⟩, fun h he hs hw t ht => ?_, fun hr => ?_⟩,
    fun x hx => ⟨State.commitRing_reject hc hx, fun h => exec_ringCommit_reject hc ha h hx⟩⟩
  · obtain ⟨-, -, -, -, -, hwin, hrecs, -⟩ := ((Quiet.refl (s.taking 0 .write a v)).resetRing r).config
    have hring := (s.taking 0 .write a v).resetRing_ring_eq r
    generalize hu : (s.taking 0 .write a v).resetRing r = u at hwin hrecs hring
    unfold State.installRing
    rw [hu]
    have hrec (f : RingRec → RingRec) : ((u.modRec r f).toMemory 0 (.write v) a none).recs = upd s.recs r f :=
      congrArg (upd · r f) hrecs
    refine ⟨hrec _, congrArg Ring.head hring, congrArg Ring.tail hring, congrArg Ring.count hring,
      congrArg Ring.postAsm hring, congrArg Ring.takeAsm hring, congrArg Ring.stall hring, hwin, ?_⟩
    exact (upd_get _ _ _ _).trans (if_pos rfl)
  · rw [exec_ringCommit_beside hc ha h hn hv hs hw, State.resetRing_of_exec h he hs hw ht]
    rfl
  · show s.commitRing r v = _
    rw [State.commitRing_install hc hn hv]
    unfold State.installRing
    rw [State.resetRing_of_reset hr]

end Sys2Proof.Machine

/-! PROOFS. Cycles at LOCK windows (R96 to R101): what a try or wait read answers (O42, O43), and what a write to a lock word does
(O44). -/

namespace Sys2Proof.Machine

/-! ## Cycles at LOCK windows (R15) -/

/-- The lock unit takes the cycle at word offset `o` of a window whose link, moved by the offset, names the lock. -/
theorem State.rightfulCycle_lock {s : State} {w : WinId} {o : Nat} {a : Addr} (hk : s.windows[w].ctl.winKind = some .lock)
    (hb : a.toNat = winBase s.windows[w].data + o) (p : PortId) (d : Dir) (v : Word) :
    s.rightfulCycle p w d a v = s.lockCycle p s.windows[w].ctl.link.toNat o d := by
  unfold State.rightfulCycle
  dsimp only
  rw [hk, hb, Nat.add_sub_cancel_left]

theorem lockId_ofNat {l : LockId} {n : Nat} (h : n = l.val) : Fin.ofNat 16 n = l :=
  Fin.ext ((congrArg (· % 16) h).trans (Nat.mod_eq_of_lt l.isLt))

theorem State.lockCycle_read (s : State) (p : PortId) {l : LockId} {k o : Nat} (h : k + o / 2 = l.val) :
    s.lockCycle p k o .read = s.lockRead p l (decide (o % 2 = 1)) := by
  unfold State.lockCycle
  rw [lockId_ofNat h]

theorem State.lockCycle_write (s : State) (p : PortId) {l : LockId} {k o : Nat} (h : k + o / 2 = l.val) :
    s.lockCycle p k o .write = s.writeLock p l := by
  unfold State.lockCycle
  rw [lockId_ofNat h]

/-- A rightful cycle at a word of a LOCK window reaches the lock unit. -/
theorem exec_lock {i : Instr} {p : PortId} {d : Dir} {a : Addr} {v : Word} {s : State} {w : WinId} {l : LockId} {o : Nat}
    (rd : s.ready p) (h : cycleOf i = some (p, d, a, v)) (ha : s.atLock p d a w l o) :
    exec i s = .next ((s.taking p d a v).lockCycle p s.windows[w].ctl.link.toNat o d) := by
  obtain ⟨hw, hk, -, hb, hr⟩ := ha
  rw [exec_window_rightful rd h hw (by rw [hk]; decide) hr]
  exact congrArg _ (State.rightfulCycle_lock (s := s.taking p d a v) hk hb p d v)

/-! ## Reads (R96, R97, R98) -/

/-- A lock read does not look at the reading port's record. -/
theorem State.readLock_taking (s : State) (wait : Bool) (p : PortId) (l : LockId) (d : Dir) (a : Addr) (v : Word) :
    (s.taking p d a v).readLock wait p l = ((s.readLock wait p l).1.taking p d a v, (s.readLock wait p l).2) := by
  have hlock : (s.taking p d a v).locks = s.locks := rfl
  unfold State.readLock
  rw [hlock]
  cases s.locks[l].holder with
  | none => rfl
  | some h =>
    dsimp only
    repeat' split
    all_goals rfl

/-- A rightful read of a lock word is answered at once. -/
theorem exec_lockRead {i : Instr} {p : PortId} {a : Addr} {v : Word} {s : State} {w : WinId} {l : LockId} {o : Nat}
    (rd : s.ready p) (h : cycleOf i = some (p, .read, a, v)) (ha : s.atLock p .read a w l o) :
    exec i s = .next ((s.readLock (decide (o % 2 = 1)) p l).1.answered p (s.readLock (decide (o % 2 = 1)) p l).2) := by
  have ⟨_, _, hl, _⟩ := ha
  rw [exec_lock rd h ha, State.lockCycle_read _ _ hl]
  unfold State.lockRead
  rw [State.readLock_taking]
  exact congrArg _ (State.completeRead_accept _ _ _ _ _ _ _)

/-- A claimant that stands neither as holder nor in the queue joins its end (R94). -/
theorem Lock.queue_of_absent {k : Lock} {c : Claimant} (hh : k.holder ≠ some c) (hw : c ∉ k.waiters) :
    k.queue c = { k with waiters := k.waiters ++ [c] } := if_neg (not_or.mpr ⟨hh, hw⟩)

/-- Changes that agree on the lock are one. -/
theorem State.modLock_congr {s : State} {l : LockId} {f g : Lock → Lock} (h : f s.locks[l] = g s.locks[l]) :
    s.modLock l f = s.modLock l g := by
  unfold State.modLock
  rw [upd_congr _ _ h]

section
variable {s : State} {p : PortId} {l : LockId} {wait : Bool}

/-- The first line of the table of R97: a FREE lock is granted. -/
theorem State.readLock_free (h : s.locks[l].holder = none) :
    s.readLock wait p l = (s.modLock l fun k => { k with
      holder := some (.port p)
      timer := if s.leases[l] = 0 then none else some (s.leases[l]).toNat }, lockWord 1 (some (.port p))) := by
  unfold State.readLock State.grantLock
  rw [h, State.leaseOf_eq]

theorem State.readLock_owned (h : s.locks[l].holder = some (.port p)) :
    s.readLock wait p l = (s, lockWord 2 (some (.port p))) := by
  unfold State.readLock
  rw [h]
  exact if_pos rfl

variable {c : Claimant} (h : s.locks[l].holder = some c) (hc : c ≠ .port p)
include h hc

theorem State.readLock_queued (hq : .port p ∈ s.locks[l].waiters) : s.readLock wait p l = (s, lockWord 3 (some c)) := by
  unfold State.readLock
  rw [h]
  dsimp only
  rw [if_neg hc, if_pos hq]

/-- A wait read that finds a place joins the queue. -/
theorem State.readLock_joins (hq : Claimant.port p ∉ s.locks[l].waiters) (hl : s.locks[l].waiters.length < 7) :
    s.readLock true p l =
      (s.modLock l fun k => { k with waiters := k.waiters ++ [.port p] }, lockWord 3 (some c)) := by
  have hn : s.locks[l].holder ≠ some (.port p) := fun e => hc (Option.some.inj (h.symm.trans e))
  have hj : s.queueLock l (.port p) = s.modLock l fun k => { k with waiters := k.waiters ++ [.port p] } :=
    State.modLock_congr (Lock.queue_of_absent hn hq)
  unfold State.readLock
  rw [h]
  dsimp only
  rw [if_neg hc, if_neg hq, if_pos ⟨rfl, hl⟩, hj]

/-- A try read, and a wait read of a full queue, find the lock BUSY (R97, R98). -/
theorem State.readLock_busy (hq : Claimant.port p ∉ s.locks[l].waiters)
    (hb : wait = false ∨ 7 ≤ s.locks[l].waiters.length) : s.readLock wait p l = (s, lockWord 4 (some c)) := by
  have hn : ¬(wait = true ∧ s.locks[l].waiters.length < Config.lockQueueMax) := fun ⟨hw, hl⟩ =>
    hb.elim (fun e => Bool.false_ne_true (e.symm.trans hw)) (Nat.not_le.mpr hl)
  unfold State.readLock
  rw [h]
  dsimp only
  rw [if_neg hc, if_neg hq, if_neg hn]

end

/-- Settles O42: the lines of the table of R97 are the branches of the lock read. -/
theorem lockReads : Obligations.LockReads := by
  intro s p a w l i o rd ha hi
  have hcy : cycleOf i = some (p, .read, a, 0) := by
    obtain ⟨rfl, -⟩ | ⟨rfl, -⟩ := hi
    · rfl
    · rfl
  rw [exec_lockRead rd hcy ha]
  refine ⟨fun hh => ?_, fun hh => ?_, fun h hh hp => ⟨fun hq => ?_, fun hq => ⟨fun ht => ?_, fun ht hl => ?_⟩⟩⟩
  · rw [State.readLock_free hh]
    rfl
  · rw [State.readLock_owned hh]
    rfl
  · rw [State.readLock_queued hh hp hq]
    rfl
  · obtain ⟨-, ho⟩ | ⟨hw, -⟩ := hi
    · rw [State.readLock_busy hh hp hq (.inl (decide_eq_false (by omega)))]
      rfl
    · cases ht.symm.trans hw
  · obtain ⟨hw, -⟩ | ⟨-, ho⟩ := hi
    · cases ht.symm.trans hw
    · rw [decide_eq_true ho, State.readLock_joins hh hp hq hl]
      rfl

/-- Settles O43: a full queue leaves a wait read the lines OWNED, QUEUED and BUSY, none of which changes the lock. -/
theorem fullQueueIsBusy : Obligations.FullQueueIsBusy := by
  intro s p a w l o h rd ha ho hh hf
  rw [exec_lockRead rd rfl ha]
  refine ⟨fun hp hq => ?_, fun hp => ?_, fun hp hq => ?_⟩
  · rw [State.readLock_busy hh hp hq (.inr hf.ge)]
    rfl
  · subst hp
    rw [State.readLock_owned hh]
    rfl
  · rw [State.readLock_queued hh hp hq]
    rfl

/-! ## Writes (R100, R101) -/

section
variable {s : State} {p : PortId} {l : LockId}

/-- A write by the holder releases the lock. -/
theorem State.writeLock_held (h : s.locks[l].holder = some (.port p)) :
    s.writeLock p l = (s.releaseLock l).completeWrite p := if_pos h

/-- A waiter's write cancels its wait. -/
theorem State.writeLock_waiting (h : s.locks[l].holder.isSome = true) (hp : s.locks[l].holder ≠ some (.port p))
    (hq : .port p ∈ s.locks[l].waiters) : s.writeLock p l = (s.leftQueue l (.port p)).completeWrite p := by
  rw [← State.dropWaiters_eq_leftQueue]
  exact (if_neg hp).trans (if_pos ⟨h, hq⟩)

/-- The write of a port that neither holds the lock nor waits for it. -/
theorem State.writeLock_refused (hp : s.locks[l].holder ≠ some (.port p))
    (hq : s.locks[l].holder = none ∨ Claimant.port p ∉ s.locks[l].waiters) : s.writeLock p l = s.refuse p .lockNotHolder := by
  refine (if_neg hp).trans (if_neg fun ⟨hs, hm⟩ => ?_)
  obtain hn | hn := hq
  · rw [hn] at hs
    exact Bool.noConfusion hs
  · exact hn hm

end

/-- A rightful write of a lock word reaches its lock. -/
theorem exec_lockWrite {p : PortId} {a : Addr} {v : Word} {s : State} {w : WinId} {l : LockId} {o : Nat}
    (rd : s.ready p) (ha : s.atLock p .write a w l o) :
    exec (.lockWrite p a v) s = .next ((s.taking p .write a v).writeLock p l) := by
  have ⟨_, _, hl, _⟩ := ha
  rw [exec_lock rd rfl ha, State.lockCycle_write _ _ hl]

/-- A release does not look at the releasing port's record. -/
theorem State.released_taking (s : State) (l : LockId) (p : PortId) (d : Dir) (a : Addr) (v : Word) :
    (s.taking p d a v).released l = (s.released l).taking p d a v := by
  have hlock : (s.taking p d a v).locks = s.locks := rfl
  unfold State.released
  rw [hlock]
  split
  · rfl
  · next q rest _ =>
    exact State.deliver_modPort (s.modLock l fun _ => s.lockHeldBy l (.port q) rest) p q
      (fun pt => pt.accept d a v .arriving) (fun _ => rfl) _ _
  · rfl

/-- The holder's write releases the lock and completes (R101). -/
theorem exec_lockWrite_held {p : PortId} {a : Addr} {v : Word} {s : State} {w : WinId} {l : LockId} {o : Nat}
    (rd : s.ready p) (ha : s.atLock p .write a w l o) (h : s.locks[l].holder = some (.port p)) :
    exec (.lockWrite p a v) s = .next ((s.released l).written p) := by
  rw [exec_lockWrite rd ha, State.writeLock_held (s := s.taking p .write a v) h, State.releaseLock_eq_released,
    State.released_taking, State.completeWrite_accept]

/-- A release with nobody waiting, to a waiting port and to a waiting channel (R101). -/
theorem State.released_nil {s : State} {l : LockId} (h : s.locks[l].waiters = []) :
    s.released l = s.modLock l fun k => { k with holder := none, timer := none } := by
  unfold State.released
  rw [h]

theorem State.released_port {s : State} {l : LockId} {q : PortId} {rest : List Claimant}
    (h : s.locks[l].waiters = .port q :: rest) : s.released l =
      (s.modLock l fun _ => s.lockHeldBy l (.port q) rest).deliver q .lockGrant (BitVec.ofNat 16 l.val) := by
  unfold State.released
  rw [h]

theorem State.modChan_congr {s : State} {c : ChanId} {f g : Chan → Chan} (h : f s.chans[c] = g s.chans[c]) :
    s.modChan c f = s.modChan c g := by
  unfold State.modChan
  rw [upd_congr _ _ h]

theorem State.released_chan {s : State} {l : LockId} {c : ChanId} {rest : List Claimant}
    (h : s.locks[l].waiters = .chan c :: rest) (hc : s.chans[c].state = .lockWait) : s.released l =
      (s.modLock l fun _ => s.lockHeldBy l (.chan c) rest).modChan c fun k => { k with state := .run } := by
  unfold State.released
  rw [h]
  refine State.modChan_congr (s := s.modLock l _) ?_
  rw [State.modLock_chans, if_pos hc]

/-- Settles O44: a write releases, cancels or is refused, by where the port stands at the lock. -/
theorem lockWrites : Obligations.LockWrites := by
  intro s p a v w l o rd ha
  refine ⟨fun hh => ?_, fun h hh hp hq => ?_, fun hp hq => ?_⟩
  · rw [exec_lockWrite_held rd ha hh]
    refine ⟨fun hw => ?_, fun q rest hw => ?_, fun c rest hw hc => ?_⟩
    · rw [State.released_nil hw]
    · rw [State.released_port hw]
    · rw [State.released_chan hw hc]
  · have hs : s.locks[l].holder.isSome = true := by rw [hh]; rfl
    have hn : s.locks[l].holder ≠ some (.port p) := fun e => hp (Option.some.inj (hh.symm.trans e))
    rw [exec_lockWrite rd ha, State.writeLock_waiting (s := s.taking p .write a v) hs hn hq]
    exact congrArg _ (State.completeWrite_accept (s.leftQueue l (.port p)) _ _ _ _ _)
  · rw [exec_lockWrite rd ha, State.writeLock_refused (s := s.taking p .write a v) hp hq, State.refuse_accept]

end Sys2Proof.Machine

/-! PROOFS. Cycles at CHANNEL windows (R15, R115): the start of a run (O46). Descriptor reads and the install of a chained
descriptor with its lock hand-over (O54). -/

namespace Sys2Proof.Machine

/-! ## Cycles at CHANNEL windows (R15) -/

theorem State.rightfulCycle_chan {s : State} {w : WinId} (hk : s.windows[w].ctl.winKind = some .channel) (p : PortId)
    (d : Dir) (a : Addr) (v : Word) : s.rightfulCycle p w d a v =
      s.chanCycle p s.windows[w].ctl.link.toNat (a.toNat - winBase s.windows[w].data) d v := by
  unfold State.rightfulCycle
  dsimp only
  rw [hk]

theorem State.chanCycle_write (s : State) (p : PortId) {c : ChanId} {k o n : Nat} (v : Word) (h : k + o / 8 = c.val)
    (hn : o % 8 = n) : s.chanCycle p k o .write v = s.writeChan p c n v := by
  obtain rfl : Fin.ofNat 4 (k + o / 8) = c := Fin.ext ((congrArg (· % 4) h).trans (Nat.mod_eq_of_lt c.isLt))
  subst hn
  rfl

/-- A rightful write of a channel word reaches its channel. -/
theorem exec_chanWrite {i : Instr} {p : PortId} {a : Addr} {v : Word} {s : State} {w : WinId} {c : ChanId} {k : Nat}
    (rd : s.ready p) (h : cycleOf i = some (p, .write, a, v)) (ha : s.atChan p .write a w c k) :
    exec i s = .next ((s.taking p .write a v).writeChan p c k v) := by
  obtain ⟨hw, hk, -, hl, hm, hr⟩ := ha
  rw [exec_window_rightful rd h hw (by rw [hk]; decide) hr, State.rightfulCycle_chan (s := s.taking p .write a v) hk]
  exact congrArg _ (State.chanCycle_write _ _ _ hl hm)

/-! ## Changes of one channel -/

/-- Two changes of one channel, with one of a lock between them, are one of the channel and one of the lock. -/
theorem State.modChan_modLock_modChan (s : State) (c : ChanId) (l : LockId) (f g : Chan → Chan) (e : Lock → Lock) :
    ((s.modChan c f).modLock l e).modChan c g = (s.modChan c fun k => g (f k)).modLock l e := by
  simp only [State.modChan, State.modLock, upd_upd]

/-! ## A lock acquired by a channel (R108) -/

theorem State.acquireForChan_free {s : State} {l : LockId} (h : s.locks[l].holder = none) (c : ChanId) :
    s.acquireForChan c l = (s.modLock l fun k => { k with
      holder := some (.chan c)
      timer := if s.leases[l] = 0 then none else some (s.leases[l]).toNat }).modChan c fun k => { k with state := .run } := by
  unfold State.acquireForChan State.grantLock
  rw [h, State.leaseOf_eq]

theorem State.acquireForChan_held {s : State} {l : LockId} (h : s.locks[l].holder.isSome = true) (c : ChanId) :
    s.acquireForChan c l = (s.modLock l fun k => { k with
      waiters := if k.holder = some (.chan c) ∨ .chan c ∈ k.waiters then k.waiters else k.waiters ++ [.chan c] }).modChan c
        fun k => { k with state := .lockWait } := by
  have hq : s.queueLock l (.chan c) = s.modLock l fun k => { k with
      waiters := if k.holder = some (.chan c) ∨ .chan c ∈ k.waiters then k.waiters else k.waiters ++ [.chan c] } := by
    refine State.modLock_congr ?_
    unfold Lock.queue
    split <;> rfl
  obtain ⟨x, hx⟩ := Option.isSome_iff_exists.mp h
  unfold State.acquireForChan
  rw [hx, hq]

/-! ## CHANNEL_START (R117, R118, R120) -/

/-- Channel `c` with a run started by port `p`, its counters cleared, in this state (R120). -/
abbrev State.runStarted (s : State) (p : PortId) (c : ChanId) (x : ChanState) : State :=
  s.modChan c fun k => { k with owner := some p, descCount := 0, wordsDone := 0, holding := none, fetchBuf := [], state := x }

section
variable {s : State} {p : PortId} {c : ChanId}

theorem State.startChan_busy (h : s.chans[c].state ≠ .idle) : s.startChan p c = s.refuse p .channelBusy := if_pos h

theorem State.startChan_rejected (h : s.chans[c].state = .idle) (hd : s.descOk p none s.chans[c].desc = false) :
    s.startChan p c = s.refuse p .channelRequest := by
  unfold State.startChan
  rw [if_neg (not_not_intro h), hd]
  rfl

theorem State.startChan_accepted (h : s.chans[c].state = .idle) (hd : s.descOk p none s.chans[c].desc = true) :
    s.startChan p c = (match s.chans[c].desc.lock with
      | some l => (s.runStarted p c .run).acquireForChan c l
      | none => s.runStarted p c .run).completeWrite p :=
  (if_neg (not_not_intro h)).trans (if_pos hd)

/-- A started channel that finds its lock FREE holds it and runs. -/
theorem State.runStarted_granted {l : LockId} (h : s.locks[l].holder = none) :
    (s.runStarted p c .run).acquireForChan c l = (s.runStarted p c .run).modLock l fun k => { k with
      holder := some (.chan c)
      timer := if s.leases[l] = 0 then none else some (s.leases[l]).toNat } := by
  rw [State.acquireForChan_free (s := s.runStarted p c .run) h]
  exact State.modChan_modLock_modChan s c l _ _ _

/-- A started channel that finds its lock HELD waits for it. -/
theorem State.runStarted_waits {l : LockId} (h : s.locks[l].holder.isSome = true) :
    (s.runStarted p c .run).acquireForChan c l = (s.runStarted p c .lockWait).modLock l fun k => { k with
      waiters := if k.holder = some (.chan c) ∨ .chan c ∈ k.waiters then k.waiters else k.waiters ++ [.chan c] } := by
  rw [State.acquireForChan_held (s := s.runStarted p c .run) h]
  exact State.modChan_modLock_modChan s c l _ _ _

end

theorem exec_channelStart {s : State} {p : PortId} {a : Addr} {w : WinId} {c : ChanId} (rd : s.ready p)
    (ha : s.atChan p .write a w c 7) : exec (.channelStart p a) s = .next ((s.taking p .write a 1).startChan p c) :=
  exec_chanWrite (v := 1) rd rfl ha

/-- An accepted start: the run begins with the lock that the fields name, and the write completes. -/
theorem exec_channelStart_accepted {s t : State} {p : PortId} {a : Addr} {w : WinId} {c : ChanId} (rd : s.ready p)
    (ha : s.atChan p .write a w c 7) (h : s.chans[c].state = .idle) (hd : s.descOk p none s.chans[c].desc = true)
    (ht : (match s.chans[c].desc.lock with
      | some l => ((s.taking p .write a 1).runStarted p c .run).acquireForChan c l
      | none => (s.taking p .write a 1).runStarted p c .run) = t.taking p .write a 1) :
    exec (.channelStart p a) s = .next (t.written p) := by
  have hs := State.startChan_accepted (s := s.taking p .write a 1) h hd
  rw [exec_channelStart rd ha, hs]
  exact congrArg _ ((congrArg (State.completeWrite p) ht).trans (State.completeWrite_accept t _ _ _ _ _))

/-- Settles O46: the branches of the start, and of the lock that an accepted start acquires. -/
theorem channelStart : Obligations.ChannelStart := by
  intro s p a w c rd ha
  refine ⟨fun h => ?_, fun h => ⟨fun hd => ?_, fun hd => ⟨fun hn => ?_, fun l hl => ⟨fun hh => ?_, fun hh => ?_⟩⟩⟩⟩
  · rw [exec_channelStart rd ha, State.startChan_busy (s := s.taking p .write a 1) h, State.refuse_accept]
  · rw [exec_channelStart rd ha, State.startChan_rejected (s := s.taking p .write a 1) h hd, State.refuse_accept]
  · refine exec_channelStart_accepted rd ha h hd ?_
    rw [hn]
    rfl
  · refine exec_channelStart_accepted rd ha h hd ?_
    rw [hl]
    exact State.runStarted_granted (s := s.taking p .write a 1) hh
  · refine exec_channelStart_accepted rd ha h hd ?_
    rw [hl]
    exact State.runStarted_waits (s := s.taking p .write a 1) hh

/-! ## Descriptor reads (R127, R128) -/

/-- A judgement changes the controllers, the fault record and the access in progress alone. -/
theorem ReadJudged.eq {s t : State} {x : Access} (h : ReadJudged s x t) :
    t = { s with inProg := none, ctls := t.ctls, fault := t.fault } := by
  obtain ⟨u, hu, -, ht⟩ := h
  have he : u = { s with inProg := none, ctls := u.ctls, fault := u.fault } := by
    rw [hu]
    split
    · unfold State.reportParity
      rw [State.deliver_eq]
    · rfl
  obtain ⟨-, rfl⟩ | ⟨g, -, rfl⟩ := ht
  · exact he
  · split
    · rw [State.deliver_eq, he]
    · exact he

/-- MEMORY_ACCESS_COMPLETE of a descriptor read that is taken up. -/
theorem exec_fetchRead {s t : State} {x : Access} {c : ChanId} {w : Word} (h : s.inProg = some x)
    (hi : x.req.issuer = .chan c .fetchRead) (ha : x.req.abandoned = false) (hp : s.chans[c].stopPending = none)
    (hw : s.cellAt x.req.addr = goodCell w) (hj : ReadJudged s x t) :
    exec (.memoryAccessComplete 0) s = .next (t.fetchReadDone c w) := by
  have hs : t.readStopped c false = none := State.readStopped_goesOn (by rw [hj.tables.2]; exact hp)
  show Host.Outcome.next (s.completeAccess 0) = _
  rw [State.completeAccess_of_chan h hi, State.grantedDone_of_readJudged hj, State.passResult_chan hi ha, hw,
    goodCell_not_bad]
  unfold State.chanAccessDone
  rw [hs]
  rfl

section
variable {s : State} {c : ChanId} {w : Word}

/-- Six words or fewer are buffered. -/
theorem State.fetchReadDone_buffers (h : s.chans[c].fetchBuf.length ≠ 6) :
    s.fetchReadDone c w = s.modChan c fun k => { k with fetchBuf := k.fetchBuf ++ [w] } := by
  unfold State.fetchReadDone
  dsimp only
  rw [if_neg (by rw [List.length_append, List.length_singleton]; omega)]
  exact State.modChan_congr rfl

theorem State.fetchReadDone_seventh (h : s.chans[c].fetchBuf.length = 6) :
    s.fetchReadDone c w = s.installDesc c (s.chans[c].fetchBuf ++ [w]) := by
  unfold State.fetchReadDone
  dsimp only
  rw [if_pos (by rw [List.length_append, List.length_singleton, h])]

end

/-! ## The install (R128, R110) -/

section
variable {s : State} {c : ChanId} {ws : List Word}

/-- A descriptor without a run owner's approval ends the run. -/
theorem State.installDesc_rejected (h : s.chans[c].owner = none ∨ ∃ p : PortId, s.chans[c].owner = some p ∧
    s.descOk p (s.keptLock c (descOfWords ws)) (descOfWords ws) = false) : s.installDesc c ws = s.endRun c .badDescriptor := by
  have hn : s.ownerAccepts c (s.keptLock c (descOfWords ws)) (descOfWords ws) = false := by
    unfold State.ownerAccepts
    obtain h | ⟨p, h, hd⟩ := h
    · rw [h]
    · rw [h]
      exact hd
  unfold State.installDesc
  rw [hn]
  rfl

theorem State.installDesc_accepted {p : PortId} (h : s.chans[c].owner = some p)
    (hd : s.descOk p (s.keptLock c (descOfWords ws)) (descOfWords ws) = true) : s.installDesc c ws =
      (s.modChan c fun k => k.installed (descOfWords ws)).chainLock c (s.heldLock c) (descOfWords ws).lock := by
  have hy : s.ownerAccepts c (s.keptLock c (descOfWords ws)) (descOfWords ws) = true := by
    unfold State.ownerAccepts
    rw [h]
    exact hd
  unfold State.installDesc
  rw [if_pos hy]

end

/-- The state after the old lock has been released (R110). -/
def State.unlocked (s : State) (old : Option LockId) : State :=
  match old with
  | some l => s.released l
  | none => s

theorem State.chainLock_kept (s : State) (c : ChanId) {old new : Option LockId} (h : old = new) : s.chainLock c old new = s := by
  subst h
  cases old with
  | none => rfl
  | some l => exact if_pos ⟨rfl, rfl⟩

/-- A lock that no new one follows is released. -/
theorem State.chainLock_released (s : State) (c : ChanId) {old : Option LockId} (h : old ≠ none) :
    s.chainLock c old none = s.unlocked old := by
  cases old with
  | none => exact absurd rfl h
  | some l => exact s.releaseLock_eq_released l

/-- A lock newly named is acquired after the release of the old one. -/
theorem State.chainLock_acquired (s : State) (c : ChanId) {old : Option LockId} {l : LockId} (h : old ≠ some l) :
    s.chainLock c old (some l) = (s.unlocked old).acquireForChan c l := by
  unfold State.chainLock
  rw [if_neg fun e => h e.2]
  cases old with
  | none => rfl
  | some k =>
    dsimp only
    rw [State.releaseLock_eq_released]
    rfl

/-- A release leaves the lease values alone. -/
theorem State.unlocked_leases (s : State) (old : Option LockId) : (s.unlocked old).leases = s.leases := by
  cases old with
  | none => rfl
  | some l =>
    show (s.released l).leases = s.leases
    unfold State.released
    split
    · rfl
    · rw [State.deliver_eq]; rfl
    · rfl

/-- Settles O54: a descriptor read is buffered or installed, and the install is the start's validation and the change of locks. -/
theorem fetchAndInstall : Obligations.FetchAndInstall := by
  intro s t x c w h hi ha hp hw hj
  rw [exec_fetchRead h hi ha hp hw hj]
  have hc : t.chans = s.chans := hj.tables.2
  have hl : t.locks = s.locks := by rw [hj.eq]
  have hle : t.leases = s.leases := by rw [hj.eq]
  have hok (p : PortId) (k : Option LockId) (d : Desc) : t.descOk p k d = s.descOk p k d := by rw [hj.eq]; rfl
  refine ⟨fun hf => ?_, fun d old kept hf hd hold hkept => ?_⟩
  · rw [State.fetchReadDone_buffers (by rw [hc]; exact hf)]
  have hheld : t.heldLock c = old := by
    have e : t.heldLock c = s.heldLock c := by unfold State.heldLock; rw [hc, hl]
    exact e.trans hold.symm
  have hk : t.keptLock c d = kept := by rw [hkept]; unfold State.keptLock; rw [hheld]
  rw [State.fetchReadDone_seventh (by rw [hc]; exact hf), hc]
  refine ⟨fun hb => ?_, fun p i j ho hdo hi' hj' => ?_⟩
  · rw [State.installDesc_rejected]
    rw [← hd, hk, hc]
    simpa only [hok] using hb
  · have hin : t.installDesc c (s.chans[c].fetchBuf ++ [w]) = i.chainLock c old d.lock := by
      rw [State.installDesc_accepted (p := p) (by rw [hc]; exact ho) (by rw [← hd, hk, hok]; exact hdo), ← hd, hheld, hi']
      rfl
    have hju : j = i.unlocked old := hj'
    have hjl : j.leases = s.leases := by
      rw [hju, State.unlocked_leases, hi', State.modChan_leases, hle]
    rw [hin]
    refine ⟨fun he => ?_, fun hne hn => ?_, fun l hne hn => ⟨fun hh => ?_, fun hh => ?_⟩⟩
    · rw [State.chainLock_kept _ _ he]
    · rw [hn] at hne ⊢
      rw [State.chainLock_released _ _ hne, hju]
    · rw [hn] at hne ⊢
      rw [State.chainLock_acquired _ _ hne, ← hju, State.acquireForChan_free hh, hjl]
    · rw [hn] at hne ⊢
      rw [State.chainLock_acquired _ _ hne, ← hju, State.acquireForChan_held hh]

end Sys2Proof.Machine

/-! PROOFS. The law of the locks (R94, R98, R101) is kept by every step (O57). An operation that touches no lock has an equation
`(s.op).locks = s.locks`; the others keep the law from state to state, without a law of the rings. -/

namespace Sys2Proof.Machine

/-! ## Operations that touch no lock -/

section
variable (s : State)

@[simp] theorem State.deliver_locks (p : PortId) (src : Source) (d : Word) : (s.deliver p src d).locks = s.locks := by
  rw [State.deliver_eq]

@[simp] theorem State.refuse_locks (p : PortId) (r : Reason) : (s.refuse p r).locks = s.locks := by
  unfold State.refuse
  split <;> simp

/-! ### Ring engine -/

@[simp] theorem State.issueRing_locks (r : RingId) (q : Post) (d : Dir) (a : Addr) :
    (s.issueRing r q d a).locks = s.locks := by
  unfold State.issueRing
  split <;> simp

@[simp] theorem State.issuePost_locks (r : RingId) (q : Post) : (s.issuePost r q).locks = s.locks :=
  s.issueRing_locks _ _ _ _

@[simp] theorem State.openPost_locks (r : RingId) (q : Post) : (s.openPost r q).locks = s.locks := by
  unfold State.openPost
  dsimp only
  split
  · split <;> simp
  · simp

@[simp] theorem State.unstall_locks (q : Post) : (s.unstall q).locks = s.locks := by
  unfold State.unstall
  split
  · rfl
  · split <;> simp

@[simp] theorem State.openHead_locks (r : RingId) : (s.openHead r).locks = s.locks := by
  unfold State.openHead
  split
  · split <;> simp
  · rfl

@[simp] theorem State.joinStall_locks (r : RingId) (q : Post) : (s.joinStall r q).locks = s.locks := by
  unfold State.joinStall
  dsimp only
  split
  · simp
  · split <;> simp

@[simp] theorem State.postWritten_locks (r : RingId) : (s.postWritten r).locks = s.locks := by
  unfold State.postWritten
  split
  · rfl
  · split <;> simp

@[simp] theorem State.tellSpace_locks (r : RingId) (b : Bool) : (s.tellSpace r b).locks = s.locks := by
  unfold State.tellSpace
  split <;> simp

@[simp] theorem State.takeRead_locks (r : RingId) : (s.takeRead r).locks = s.locks := by
  unfold State.takeRead
  split
  · rfl
  · split <;> simp

@[simp] theorem State.dropAssembly_locks (c : Claimant) (r : RingId) : (s.dropAssembly c r).locks = s.locks := by
  unfold State.dropAssembly
  dsimp only
  split <;> simp

@[simp] theorem State.closeAssembly_locks (c : ChanId) (r : RingId) : (s.closeAssembly c r).locks = s.locks := by
  unfold State.closeAssembly
  split <;> simp

@[simp] theorem State.finishLeaving_locks (r : RingId) (f : InFlight) : (s.finishLeaving r f).locks = s.locks := by
  unfold State.finishLeaving
  split
  · rfl
  · split <;> simp

@[simp] theorem State.refuseFull_locks (r : RingId) (p : PortId) : (s.refuseFull r p).locks = s.locks := by
  unfold State.refuseFull
  simp

@[simp] theorem State.takeUpTake_locks (r : RingId) (p : PortId) : (s.takeUpTake r p).locks = s.locks := by
  unfold State.takeUpTake
  dsimp only
  repeat' split
  all_goals simp

@[simp] theorem State.holdWait_locks (r : RingId) (i : HoldItem) : (s.holdWait r i).locks = s.locks := by
  unfold State.holdWait
  repeat' split
  all_goals simp

@[simp] theorem State.ringEffect_locks (r : RingId) (f : InFlight) : (s.ringEffect r f).locks = s.locks := by
  unfold State.ringEffect
  repeat' split
  all_goals simp

@[simp] theorem State.stallExpires_locks (r : RingId) (p : PortId) : (s.stallExpires r p).locks = s.locks := by
  unfold State.stallExpires
  split <;> simp

end

/-- Operations one after another that touch no lock. -/
theorem State.foldl_locks {α : Type} {f : State → α → State} (hf : ∀ (t : State) (a : α), (f t a).locks = t.locks) :
    ∀ (l : List α) (s : State), (l.foldl f s).locks = s.locks
  | [], _ => rfl
  | a :: l, s => (State.foldl_locks hf l (f s a)).trans (hf s a)

section
variable (s : State)

/-! ### Channels -/

@[simp] theorem State.closeAssemblies_locks (c : ChanId) : (s.closeAssemblies c).locks = s.locks :=
  State.foldl_locks (fun t r => t.closeAssembly_locks c r) _ s

@[simp] theorem State.withdrawFromRings_locks (c : ChanId) : (s.withdrawFromRings c).locks = s.locks := by
  unfold State.withdrawFromRings
  split <;> simp

@[simp] theorem State.deliverDone_locks (c : ChanId) (st : Status) : (s.deliverDone c st).locks = s.locks := by
  unfold State.deliverDone
  split <;> simp

@[simp] theorem State.finishLockFree_locks (c : ChanId) : (s.finishLockFree c).locks = s.locks := by
  unfold State.finishLockFree
  split
  · exact s.completeCycle_locks 0 _
  · rfl

@[simp] theorem State.detachChan_locks (c : ChanId) : (s.detachChan c).locks = s.locks := rfl

@[simp] theorem State.deliverMark_locks (c : ChanId) : (s.deliverMark c).locks = s.locks := by
  unfold State.deliverMark
  repeat' split
  all_goals simp

@[simp] theorem State.presentChan_locks (c : ChanId) : (s.presentChan c).locks = s.locks := by
  unfold State.presentChan
  dsimp only
  repeat' split
  all_goals simp

@[simp] theorem State.pickChan_locks : s.pickChan.locks = s.locks := by
  unfold State.pickChan
  repeat' split
  all_goals simp

/-! ### Ports -/

@[simp] theorem State.takenDown_locks (p : PortId) (cause : TeardownCause) : (s.takenDown p cause).locks = s.locks := by
  unfold State.takenDown
  split <;> rfl

@[simp] theorem State.ringsTorn_locks (p : PortId) : (s.ringsTorn p).locks = s.locks := by rw [State.ringsTorn_eq]

@[simp] theorem State.finishTeardown_locks (p : PortId) : (s.finishTeardown p).locks = s.locks := by
  rw [State.finishTeardown_frame]

@[simp] theorem State.toMemory_locks (p : PortId) (k : AccKind) (a : Addr) (g : Option WatchTag) :
    (s.toMemory p k a g).locks = s.locks := rfl

@[simp] theorem State.completeRead_locks (p : PortId) (w : Word) : (s.completeRead p w).locks = s.locks := rfl
@[simp] theorem State.completeWrite_locks (p : PortId) : (s.completeWrite p).locks = s.locks := rfl

@[simp] theorem State.takeNotice_locks (p : PortId) : (s.takeNotice p).locks = s.locks := by
  unfold State.takeNotice
  repeat' split
  all_goals simp

@[simp] theorem State.readPortWord_locks (p : PortId) (k : Fin 16) : (s.readPortWord p k).locks = s.locks := by
  unfold State.readPortWord
  split
  case h_1 =>
    unfold State.readTake
    simp
  case h_14 => simp
  all_goals rfl

@[simp] theorem State.writeEnd_locks (p : PortId) (v : Word) : (s.writeEnd p v).locks = s.locks := by
  unfold State.writeEnd State.endUrgent State.endSlot
  repeat' split
  all_goals simp

@[simp] theorem State.writeThreshold_locks (p : PortId) (v : Word) : (s.writeThreshold p v).locks = s.locks := by
  unfold State.writeThreshold
  split <;> simp

@[simp] theorem State.writeSignal_locks (p : PortId) (v : Word) : (s.writeSignal p v).locks = s.locks := by
  unfold State.writeSignal
  split <;> simp

@[simp] theorem State.readFree_locks (p : PortId) (r : RingId) : (s.readFree p r).locks = s.locks := by
  unfold State.readFree
  split <;> simp

@[simp] theorem State.portDone_locks (p : PortId) (k : AccKind) (w : Word) : (s.portDone p k w).locks = s.locks := by
  unfold State.portDone
  split <;> simp

@[simp] theorem State.leaveOff_locks (p : PortId) : (s.leaveOff p).locks = s.locks := by
  unfold State.leaveOff
  dsimp only
  split <;> simp

/-! ### Memory port, table and start-up -/

@[simp] theorem State.judge_locks (g : Option WatchTag) (k : AccKind) (o : Option (Word × Bool)) :
    (s.judge g k o).locks = s.locks := by
  unfold State.judge
  repeat' split
  all_goals simp

@[simp] theorem State.memUpset_locks (a : Addr) (u : Upset) : (s.memUpset a u).locks = s.locks := by rw [State.memUpset_eq]

@[simp] theorem State.memEffect_locks (q : Request) (u : Upset) : (s.memEffect q u).locks = s.locks := by
  rw [State.memEffect_eq]

@[simp] theorem State.reportParity_locks (a : Addr) (c : Nat) : (s.reportParity a c).locks = s.locks :=
  State.deliver_locks _ _ _ _

@[simp] theorem State.reportIf_locks (b : Bool) (a : Addr) (c : Nat) : (s.reportIf b a c).locks = s.locks := by
  unfold State.reportIf
  split <;> simp

@[simp] theorem State.grant_locks (u : Upset) : (s.grant u).locks = s.locks := by
  unfold State.grant State.beginAccess
  dsimp only
  repeat' split
  all_goals simp

@[simp] theorem State.rejectTable_locks (n : Nat) (r : TableReason) : (s.rejectTable n r).locks = s.locks :=
  s.deliver_locks _ _ _

@[simp] theorem State.setBinding_locks (p : PortId) (i : SlotId) (b : Option Binding) :
    (s.setBinding p i b).locks = s.locks := rfl

@[simp] theorem State.commitWin_locks (w : WinId) (v : Word) : (s.commitWin w v).locks = s.locks := by
  unfold State.commitWin
  dsimp only
  repeat' split
  all_goals simp

@[simp] theorem State.writeBinding_locks (p : PortId) (i : SlotId) (v : Word) : (s.writeBinding p i v).locks = s.locks := by
  unfold State.writeBinding
  split <;> simp

@[simp] theorem State.damageTable_locks (k : TableWord) : (s.damageTable k).locks = s.locks := by
  cases k <;> rfl

@[simp] theorem State.startAccess_locks (k : AccKind) (i : Issuer) (o : Nat) : (s.startAccess k i o).locks = s.locks := rfl

@[simp] theorem State.beginSweep_locks : s.beginSweep.locks = s.locks := by
  unfold State.beginSweep
  split <;> rfl

@[simp] theorem State.powerUp_locks : s.powerUp.locks = s.locks := by
  unfold State.powerUp
  split <;> rfl

@[simp] theorem State.rstnRises_locks : s.rstnRises.locks = s.locks := by
  unfold State.rstnRises
  split
  · rfl
  · exact State.beginSweep_locks _

@[simp] theorem State.staleDone_locks (a : Access) (u : Upset) : (s.staleDone a u).locks = s.locks := by
  unfold State.staleDone
  dsimp only
  rw [State.beginSweep_locks]
  exact State.memEffect_locks _ _ _

end

/-! ## Lock unit (R94 to R101) -/

/-- Locks at their reset values (R112). -/
theorem State.lockLaw.of_reset {s : State} (h : s.locks = State.reset.locks) : s.lockLaw := fun l => by
  rw [h, State.reset_lock]
  exact Lock.law_reset

theorem State.lockLaw.foldl {α : Type} {f : State → α → State}
    (hf : ∀ {t : State} (a : α), t.lockLaw → (f t a).lockLaw) :
    ∀ (l : List α) {t : State}, t.lockLaw → (l.foldl f t).lockLaw
  | [], _, h => h
  | a :: l, _, h => State.lockLaw.foldl hf l (hf a h)

section
variable {t : State} (h : t.lockLaw)
include h

theorem State.lockLaw.same {u : State} (e : u.locks = t.locks) : u.lockLaw := fun l => e ▸ h l

theorem State.lockLaw.modLock (l : LockId) {f : Lock → Lock} (hf : (f t.locks[l]).law) : (t.modLock l f).lockLaw := by
  intro m
  show Lock.law (upd t.locks l f)[m]
  rw [upd_get]
  split
  · next e => subst e; exact hf
  · exact h m

theorem State.lockLaw.grantLock {l : LockId} (e : t.locks[l].holder = none) (c : Claimant) : (t.grantLock l c).lockLaw :=
  h.modLock l (Lock.law_grant (h l) e _ _)

theorem State.lockLaw.queueLock {l : LockId} (hh : t.locks[l].holder.isSome = true)
    (hl : t.locks[l].waiters.length < Config.lockQueueMax) (c : Claimant) : (t.queueLock l c).lockLaw :=
  h.modLock l (Lock.law_queue (h l) _ hh hl)

theorem State.lockLaw.dropWaiters (l : LockId) (f : Claimant → Bool) : (t.dropWaiters l f).lockLaw :=
  h.modLock l (Lock.law_drop (h l) _)

/-- A release leaves the lock FREE, or hands it to the head of its queue (R101). -/
theorem State.lockLaw.releaseLock (l : LockId) : (t.releaseLock l).lockLaw := by
  unfold State.releaseLock
  split
  · next e =>
    obtain ⟨-, hlen, hnodup⟩ := h l
    exact h.modLock l ⟨fun _ => ⟨e, rfl⟩, hlen, (List.nodup_append.mp hnodup).2.1⟩
  · next c rest e =>
    intro m
    rw [State.announceGrant_locks]
    show Lock.law (upd (upd t.locks l fun k => { k with waiters := rest }) l fun k =>
      { k with holder := some c, timer := t.leaseOf l })[m]
    rw [upd_get, upd_get]
    split
    · exact Lock.law_handed (h l) e _
    · exact h m

theorem State.lockLaw.readLock (w : Bool) (p : PortId) (l : LockId) : (t.readLock w p l).1.lockLaw := by
  unfold State.readLock
  split
  · next e => exact h.grantLock e _
  · next e =>
    split
    · exact h
    · split
      · exact h
      · split
        · next k => exact h.queueLock (by rw [e]; rfl) k.2 _
        · exact h

theorem State.lockLaw.writeLock (p : PortId) (l : LockId) : (t.writeLock p l).lockLaw := by
  unfold State.writeLock
  split
  · exact (h.releaseLock l).same rfl
  · split
    · exact (h.dropWaiters l _).same rfl
    · exact h.same (State.refuse_locks _ _ _)

theorem State.lockLaw.lockCycle (p : PortId) (k o : Nat) (d : Dir) : (t.lockCycle p k o d).lockLaw := by
  cases d with
  | read => exact (h.readLock _ p _).same rfl
  | write => exact h.writeLock p _

/-- A channel acquires a lock whose queue has a place, or that is FREE (R108). -/
theorem State.lockLaw.acquireForChan {l : LockId} (hl : t.locks[l].waiters.length < Config.lockQueueMax) (c : ChanId) :
    (t.acquireForChan c l).lockLaw := by
  unfold State.acquireForChan
  split
  · next e => exact (h.grantLock e _).same rfl
  · next e => exact (h.queueLock (by rw [e]; rfl) hl _).same rfl

theorem State.lockLaw.leaveLock (c : ChanId) : (t.leaveLock c).lockLaw := by
  unfold State.leaveLock State.releaseForChan
  split
  · split
    · exact h.releaseLock _
    · exact h.dropWaiters _ _
  · exact h

/-! ## Ends of runs (R127, R130 to R133) -/

theorem State.lockLaw.endRun (c : ChanId) (st : Status) : (t.endRun c st).lockLaw := by
  have hw : ((t.modChan c fun k => k.ended st).withdrawFromRings c).lockLaw := h.same (by simp)
  unfold State.endRun
  exact (hw.leaveLock c).same (by simp)

theorem State.lockLaw.endRunByReset (c : ChanId) (st : Status) : (t.endRunByReset c st).lockLaw := by
  have hw : ((t.modChan c fun k => k.ended st).closeAssemblies c).lockLaw := h.same (by simp)
  unfold State.endRunByReset
  exact (hw.leaveLock c).same (by simp)

theorem State.lockLaw.leaveQueue (c : ChanId) : (t.leaveQueue c).lockLaw := by
  have hl : State.lockLaw (if t.chans[c].state = .lockWait then t.leaveLock c else t) := by
    split
    · exact h.leaveLock c
    · exact h
  unfold State.leaveQueue
  dsimp only
  split
  · exact hl.same rfl
  · exact hl

theorem State.lockLaw.stopRun (c : ChanId) (st : Status) : (t.stopRun c st).lockLaw := by
  unfold State.stopRun
  split
  · exact (h.leaveQueue c).same rfl
  · exact h.endRun c st

theorem State.lockLaw.stopChan (c : ChanId) (st : Status) : (t.stopChan c st).lockLaw := by
  unfold State.stopChan
  split
  · exact h
  · split
    · exact h
    · exact h.stopRun c st

theorem State.lockLaw.settleStop (c : ChanId) : (t.settleStop c).lockLaw := by
  unfold State.settleStop
  split
  · split
    · exact h
    · exact h.endRun c _
  · exact h

theorem State.lockLaw.stopByReset (c : ChanId) : (t.stopByReset c).lockLaw := by
  unfold State.stopByReset
  split
  · exact h
  · exact (h.same (t.detachChan_locks c)).endRunByReset c _

/-! ## Ring engine: a post taken up at a disabled ring, or stalled at its reset, stops its channel (R87, R89, R90) -/

theorem State.lockLaw.takeUpPost (r : RingId) (q : Post) : (t.takeUpPost r q).lockLaw := by
  unfold State.takeUpPost
  split
  · split
    · exact h.same (by simp)
    · exact h.stopChan _ _
  · repeat' split
    all_goals exact h.same (by simp)

theorem State.lockLaw.takeUp (r : RingId) (i : HoldItem) : (t.takeUp r i).lockLaw := by
  cases i with
  | post q => exact h.takeUpPost r q
  | take p => exact h.same (t.takeUpTake_locks r p)

theorem State.lockLaw.ringArrive (r : RingId) (i : HoldItem) : (t.ringArrive r i).lockLaw := by
  unfold State.ringArrive
  split
  · exact h.same (by simp)
  · exact h.takeUp r i

end

theorem State.lockLaw.takeUpHold (r : RingId) : ∀ (n : Nat) {t : State}, t.lockLaw → (t.takeUpHold r n).lockLaw
  | 0, _, h => h
  | n + 1, t, h => by
    unfold State.takeUpHold
    split
    · exact h
    · split
      · exact h
      · next i rest _ =>
        have hr : (t.modRing r fun k => { k with hold := rest }).lockLaw := h.same rfl
        exact State.lockLaw.takeUpHold r n (hr.takeUp r i)

section
variable {t : State} (h : t.lockLaw)
include h

theorem State.lockLaw.resumeRing (r : RingId) : (t.resumeRing r).lockLaw := by
  unfold State.resumeRing
  split
  · exact h
  · split
    · exact h.same (by simp)
    · exact h.takeUpHold r _

theorem State.lockLaw.resetClaimant (q : Post) : (t.resetClaimant q).lockLaw := by
  unfold State.resetClaimant
  split
  · exact h.same (by simp)
  · exact h.stopByReset _

theorem State.lockLaw.resetAwaiting (q : Option Post) : (t.resetAwaiting q).lockLaw := by
  unfold State.resetAwaiting
  repeat' split
  all_goals exact h.same (by simp)

theorem State.lockLaw.resetOwner (a : Option PostAsm) : (t.resetOwner a).lockLaw := by
  unfold State.resetOwner
  split
  · split
    · split
      · exact h.stopByReset _
      · exact h
    · exact h
  · exact h

theorem State.lockLaw.resetRing (r : RingId) : (t.resetRing r).lockLaw := by
  have hc : (t.modRing r (·.cleared)).lockLaw := h.same rfl
  unfold State.resetRing
  exact (State.lockLaw.foldl (fun e k => k.resetClaimant (StallEntry.post e)) _ (hc.resetAwaiting _)).resetOwner _

/-! ## Transfer engine -/

/-- A start takes a lock that `descOk` has found with a place (R108, R118). -/
theorem State.lockLaw.startChan (p : PortId) (c : ChanId) : (t.startChan p c).lockLaw := by
  unfold State.startChan
  dsimp only
  split
  · exact h.same (by simp)
  · split
    · next ok =>
      split
      · next l hl =>
        simp only [State.descOk, hl, Bool.and_eq_true, Bool.or_eq_true, decide_eq_true_eq] at ok
        have hroom := ok.2.resolve_left fun e => nomatch e
        have hm (f : Chan → Chan) : (t.modChan c f).lockLaw := h.same rfl
        exact ((hm _).acquireForChan hroom c).same rfl
      · exact h.same rfl
    · exact h.same (by simp)

theorem State.lockLaw.abortChan (p : PortId) (c : ChanId) : (t.abortChan p c).lockLaw := by
  unfold State.abortChan
  split
  · exact (h.stopChan c _).same rfl
  · exact h.same (by simp)

theorem State.lockLaw.writeChan (p : PortId) (c : ChanId) (k : Nat) (v : Word) : (t.writeChan p c k v).lockLaw := by
  unfold State.writeChan
  split
  · split
    · exact h.startChan p c
    · split
      · exact h.abortChan p c
      · exact h.same (by simp)
  · split <;> exact h.same (by simp)

theorem State.lockLaw.chanCycle (p : PortId) (k o : Nat) (d : Dir) (v : Word) : (t.chanCycle p k o d v).lockLaw := by
  cases d with
  | read => exact h.same rfl
  | write => exact h.writeChan p _ _ v

theorem State.lockLaw.descComplete (c : ChanId) : (t.descComplete c).lockLaw := by
  unfold State.descComplete
  dsimp only
  split
  · exact h.same (by simp)
  · exact (h.same (t.withdrawFromRings_locks c)).endRun c _

theorem State.lockLaw.wordDone (c : ChanId) (w : Word) : (t.wordDone c w).lockLaw := by
  have k : ((t.modChan c fun k =>
      { k with desc := k.desc.step w, wordsDone := k.wordsDone + 1, holding := none }).deliverMark c).lockLaw :=
    h.same (by simp)
  unfold State.wordDone
  dsimp only
  repeat' split
  · exact k.settleStop c
  · exact k
  · exact k.descComplete c
  · exact k

/-- The lock hand-over between two descriptors, where the new lock has a place (R110, R128). -/
theorem State.lockLaw.chainLock (c : ChanId) (old new : Option LockId)
    (hn : ∀ l, new = some l → old ≠ new → t.locks[l].waiters.length < Config.lockQueueMax) :
    (t.chainLock c old new).lockLaw := by
  unfold State.chainLock
  dsimp only
  split
  · exact h
  · next hne =>
    cases old with
    | none =>
      cases new with
      | none => exact h
      | some l => exact h.acquireForChan (hn l rfl fun e => nomatch e) c
    | some o =>
      cases new with
      | none => exact h.releaseLock o
      | some l =>
        have hol : some o ≠ some l := fun e => hne ⟨rfl, e⟩
        refine (h.releaseLock o).acquireForChan ?_ c
        rw [State.releaseLock_other _ fun e => hol (congrArg some e)]
        exact hn l rfl hol

/-- A chained descriptor whose lock is another one is installed where that lock has a place (R128). -/
theorem State.lockLaw.installDesc (c : ChanId) (ws : List Word) : (t.installDesc c ws).lockLaw := by
  unfold State.installDesc
  split
  · next ok =>
    have hm (f : Chan → Chan) : (t.modChan c f).lockLaw := h.same rfl
    refine (hm _).chainLock c _ _ fun l hl hne => ?_
    unfold State.ownerAccepts at ok
    split at ok
    · have hkept : t.keptLock c (descOfWords ws) = none := if_neg hne
      simp only [State.descOk, hl, hkept, Bool.and_eq_true, Bool.or_eq_true, decide_eq_true_eq] at ok
      exact ok.2.resolve_left fun e => nomatch e
    · cases ok
  · exact h.endRun c _

theorem State.lockLaw.readStopped {c : ChanId} {b : Bool} {u : State} (e : t.readStopped c b = some u) : u.lockLaw := by
  unfold State.readStopped at e
  split at e
  · cases e; exact h.settleStop c
  · split at e
    · cases e; exact h.endRun c _
    · cases e

theorem State.lockLaw.srcReadDone (c : ChanId) (w : Word) : (t.srcReadDone c w).lockLaw := by
  have hm (f : Chan → Chan) : (t.modChan c f).lockLaw := h.same rfl
  unfold State.srcReadDone
  dsimp only
  split
  · exact h.wordDone c w
  · split
    · exact (hm _).ringArrive _ _
    · exact hm _
  · exact hm _

theorem State.lockLaw.dstReadDone (c : ChanId) (w : Word) : (t.dstReadDone c w).lockLaw := by
  unfold State.dstReadDone
  split
  · exact h.wordDone c w
  · exact h.endRun c _

theorem State.lockLaw.fetchReadDone (c : ChanId) (w : Word) : (t.fetchReadDone c w).lockLaw := by
  unfold State.fetchReadDone
  dsimp only
  split
  · exact h.installDesc c _
  · exact h.same rfl

theorem State.lockLaw.sumWriteDone (c : ChanId) : (t.sumWriteDone c).lockLaw := by
  unfold State.sumWriteDone
  split
  · exact h.settleStop c
  · exact h.descComplete c

theorem State.lockLaw.chanAccessDone (c : ChanId) (k : ChanStep) (w : Word) (b : Bool) :
    (t.chanAccessDone c k w b).lockLaw := by
  have hs {u : State} : t.readStopped c b = some u → u.lockLaw := h.readStopped
  unfold State.chanAccessDone
  cases k with
  | srcRead => dsimp only; split; exacts [hs ‹_›, h.srcReadDone c w]
  | dstRead => dsimp only; split; exacts [hs ‹_›, h.dstReadDone c w]
  | fetchRead => dsimp only; split; exacts [hs ‹_›, h.fetchReadDone c w]
  | dstWrite => exact h.wordDone c w
  | sumWrite => exact h.sumWriteDone c

/-! ## Teardown and forcing (R92, R103, R105, R111, R135) -/

theorem State.lockLaw.tearLocks (p : PortId) : (t.tearLocks p).lockLaw := by
  refine State.lockLaw.foldl (fun l k => ?_) _ (State.lockLaw.foldl (fun l k => k.dropWaiters l _) _ h)
  split
  · exact k.releaseLock l
  · exact k

theorem State.lockLaw.settleRing (r : RingId) : (t.settleRing r).lockLaw := (h.same (t.openHead_locks r)).resumeRing r

theorem State.lockLaw.tearRings (p : PortId) : (t.tearRings p).lockLaw := by
  rw [State.tearRings_eq]
  refine State.lockLaw.foldl (fun r k => ?_) _ (h.same (t.ringsTorn_locks p))
  split
  · exact k.settleRing r
  · exact k

theorem State.lockLaw.tearChans (p : PortId) : (t.tearChans p).lockLaw := by
  refine State.lockLaw.foldl (fun c k => ?_) _ h
  split
  · exact k.stopChan c _
  · exact k

theorem State.lockLaw.tearDown (p : PortId) (cause : TeardownCause) : (t.tearDown p cause).lockLaw := by
  have hd : (t.takenDown p cause).lockLaw := h.same (t.takenDown_locks p cause)
  rw [State.tearDown_eq]
  exact (((hd.tearLocks p).tearRings p).tearChans p).same (State.finishTeardown_locks _ p)

theorem State.lockLaw.forceLock (l : LockId) (b : Bool) : (t.forceLock l b).lockLaw := by
  unfold State.forceLock
  split
  · exact h
  · exact (h.same (t.deliver_locks _ _ _)).releaseLock l
  · exact (h.releaseLock l).stopChan _ _

theorem State.lockLaw.leaseExpires (l : LockId) : (t.leaseExpires l).lockLaw := by
  unfold State.leaseExpires
  split
  · exact h.forceLock l _
  · exact h

/-! ## Access path -/

theorem State.lockLaw.doControl (c : Control) : (t.doControl c).lockLaw := by
  cases c with
  | dropPort n =>
    show (t.doDropPort n).lockLaw
    unfold State.doDropPort
    split
    · exact (h.same (t.setWait_locks 0 _)).tearDown n _
    · exact h.same rfl
  | ringReset r =>
    show (t.doRingReset r).lockLaw
    unfold State.doRingReset
    split
    · exact (h.resetRing r).same rfl
    · exact h.same rfl
  | lockFree l =>
    show (t.doLockFree l).lockLaw
    unfold State.doLockFree
    dsimp only
    split <;> exact (h.forceLock l _).same rfl
  | clearFault => exact h.same rfl

theorem State.lockLaw.writePortWord (p : PortId) (k : Fin 16) (v : Word) : (t.writePortWord p k v).lockLaw := by
  unfold State.writePortWord State.writeControl
  split
  case h_7 =>
    split
    · exact h.doControl _
    · exact h.same (by simp)
  case h_1 | h_5 | h_6 | h_8 => exact h.same (by simp)
  all_goals exact h.same rfl

theorem State.lockLaw.portWindow (p : PortId) (k : Fin 16) (d : Dir) (v : Word) : (t.portWindow p k d v).lockLaw := by
  unfold State.portWindow
  repeat' split
  all_goals first | exact h.writePortWord p k v | exact h.same (by simp)

theorem State.lockLaw.ringCycle (p : PortId) (r : RingId) (o : Nat) (d : Dir) (v : Word) :
    (t.ringCycle p r o d v).lockLaw := by
  unfold State.ringCycle
  repeat' split
  · exact h.ringArrive r _
  · exact h.same (by simp)
  · exact h.ringArrive r _

theorem State.lockLaw.rightfulCycle (p : PortId) (w : WinId) (d : Dir) (a : Addr) (v : Word) :
    (t.rightfulCycle p w d a v).lockLaw := by
  unfold State.rightfulCycle State.watchCycle
  dsimp only
  split
  case h_3 => exact h.ringCycle p _ _ d v
  case h_4 => exact h.lockCycle p _ _ d
  case h_5 => exact h.chanCycle p _ _ d v
  case h_2 => split <;> exact h.same rfl
  all_goals exact h.same rfl

theorem State.lockLaw.windowCycle (p : PortId) (w : WinId) (d : Dir) (a : Addr) (v : Word) :
    (t.windowCycle p w d a v).lockLaw := by
  unfold State.windowCycle
  split
  · exact h.same (by simp)
  · split
    · exact h.rightfulCycle p w d a v
    · exact h.same (by simp)

/-! ## Table unit: a commit resets its ring (R91) -/

theorem State.lockLaw.commitRing (r : RingId) (v : Word) : (t.commitRing r v).lockLaw := by
  have hi (d : Vector Word 7) (b : Bool) : (t.installRing r d b).lockLaw := (h.resetRing r).same rfl
  unfold State.commitRing
  dsimp only
  repeat' split
  all_goals first | exact hi _ _ | exact h.same (by simp)

theorem State.lockLaw.applyTable (k : TableWord) (v : Word) : (t.applyTable k v).lockLaw := by
  cases k with
  | ringCtl r => exact h.commitRing r v
  | winCtl w => exact h.same (t.commitWin_locks w v)
  | binding p i => exact h.same (t.writeBinding_locks p i v)
  | header n => exact h.same rfl
  | winData w k => exact h.same rfl
  | ringData r k => exact h.same rfl
  | lease l => exact h.same rfl
  | plain => exact h

theorem State.lockLaw.tableCycle (p : PortId) (o : Nat) (d : Dir) (a : Addr) (v : Word) :
    (t.tableCycle p o d a v).lockLaw := by
  unfold State.tableCycle
  split
  · exact h.same rfl
  · split
    · exact (h.applyTable (tableWordOf o) v).same rfl
    · exact h.same (by simp)

/-! ## Cycles -/

theorem State.lockLaw.arrive (p : PortId) (d : Dir) (a : Addr) (v : Word) : (t.arrive p d a v).lockLaw := by
  unfold State.arrive
  split
  · exact h.portWindow p _ d v
  · exact h.tableCycle p _ d a v
  · exact h.same (by simp)
  · exact h.windowCycle p _ d a v
  · exact h.same rfl

theorem State.lockLaw.modPort (p : PortId) (f : Port → Port) : (t.modPort p f).lockLaw := h.same rfl

theorem State.lockLaw.present (p : PortId) (d : Dir) (a : Addr) (v : Word) : (t.present p d a v).lockLaw := by
  unfold State.present
  split
  · exact h
  · split
    · exact h
    · exact h.modPort p _
    · exact (h.modPort p _).arrive p d a v

/-! ## Memory port and ticks -/

theorem State.lockLaw.ringReport (q : Request) (f : InFlight) (w : Word) : (t.ringReport q f w).lockLaw := by
  unfold State.ringReport
  split
  · split
    · exact h
    · exact h.same (by simp)
  · split
    · exact h.wordDone _ w
    · exact h.settleStop _

theorem State.lockLaw.ringDone (r : RingId) (q : Request) (w : Word) : (t.ringDone r q w).lockLaw := by
  unfold State.ringDone
  split
  · exact h
  · next f _ =>
    have he : (((t.modRing r fun k => { k with inFlight := none }).ringEffect r f).finishLeaving r f).lockLaw :=
      h.same (by simp)
    exact (he.ringReport q f w).resumeRing r

theorem State.lockLaw.passResult (q : Request) (w : Word) (b : Bool) : (t.passResult q w b).lockLaw := by
  unfold State.passResult
  split
  · split
    · exact h
    · exact h.same (by simp)
  · exact h.ringDone _ q w
  · split
    · exact h.settleStop _
    · exact h.chanAccessDone _ _ w b
  all_goals exact h

theorem State.lockLaw.grantedDone (a : Access) (u : Upset) : (t.grantedDone a u).lockLaw := by
  unfold State.grantedDone
  exact State.lockLaw.passResult (h.same (by simp)) _ _ _

theorem State.lockLaw.settleDue : t.settleDue.lockLaw :=
  (State.lockLaw.foldl (fun l k => k.leaseExpires l) _ h).same
    (State.foldl_locks (fun u r => State.foldl_locks (fun v p => v.stallExpires_locks r p) _ u) _ _)

theorem State.lockLaw.countDown : t.countDown.lockLaw :=
  (State.lockLaw.foldl (fun l k => k.modLock l (Lock.law_ticked (k l))) _ h).same
    (State.foldl_locks (fun u r => u.modRing_locks r _) _ _)

theorem State.lockLaw.setTick (n : Nat) : State.lockLaw { t with tick := n } := h.same rfl

theorem State.lockLaw.boundary : t.boundary.lockLaw := by
  unfold State.boundary
  split
  · exact h.settleDue.countDown.setTick 0
  · exact h

theorem State.lockLaw.clockPeriod : t.clockPeriod.lockLaw := by
  unfold State.clockPeriod
  dsimp only
  split
  · split
    · exact h.settleDue.boundary
    · exact h.settleDue.setTick _
  · exact h

/-! ## Resets and start-up (R169 to R175) -/

theorem State.lockLaw.powerDown : t.powerDown.lockLaw := by
  unfold State.powerDown
  split
  · exact .of_reset rfl
  · exact h

theorem State.lockLaw.rstnFalls : t.rstnFalls.lockLaw := by
  unfold State.rstnFalls
  split
  · split
    · exact h.same rfl
    · exact .of_reset rfl
  · exact h

theorem State.lockLaw.arriveHeld (p : PortId) : (t.arriveHeld p).lockLaw := by
  unfold State.arriveHeld
  split
  · exact h
  · split
    · exact (h.modPort p _).arrive p _ _ _
    · exact h

theorem State.lockLaw.endStartUp : t.endStartUp.lockLaw := by
  have k : (allPorts.foldl (fun (u : State) p => u.leaveOff p) { t with part := .running }).lockLaw :=
    h.same (State.foldl_locks (fun u p => u.leaveOff_locks p) _ _)
  unfold State.endStartUp State.arriveAll
  split
  · exact State.lockLaw.foldl (fun p k => k.arriveHeld p) _ k
  · exact State.lockLaw.foldl (fun p k => k.arriveHeld p) _ (k.same rfl)

theorem State.lockLaw.clearDone (i : Nat) (a : Addr) : (t.clearDone i a).lockLaw := by
  have k : (({ t with inProg := none }).memWrite a 0).lockLaw := h.same rfl
  unfold State.clearDone
  dsimp only
  split
  · exact k.same rfl
  · split
    · exact k.endStartUp
    · exact .of_reset rfl

theorem State.lockLaw.takeSwept (o : Nat) (c : MemCell) : (t.takeSwept o c).lockLaw := by
  unfold State.takeSwept
  split
  · exact h.same (by simp)
  · exact h.applyTable _ _

theorem State.lockLaw.sweepDone (i : Nat) (a : Addr) (u : Upset) : (t.sweepDone i a u).lockLaw := by
  have k : (({ t with inProg := none }).memUpset a u).lockLaw := h.same (State.memUpset_locks _ _ _)
  unfold State.sweepDone
  dsimp only
  split
  · exact (k.takeSwept _ _).same rfl
  · exact (k.takeSwept _ _).endStartUp

/-! ## Accesses, and PRSTN -/

theorem State.lockLaw.completeAccess (u : Upset) : (t.completeAccess u).lockLaw := by
  unfold State.completeAccess
  split
  · exact h
  · split
    · exact h.clearDone _ _
    · exact h.sweepDone _ _ u
    · exact h.same (by simp)
    all_goals exact h.grantedDone _ u

theorem State.lockLaw.completeClear : t.completeClear.lockLaw := by
  unfold State.completeClear
  repeat' split
  · exact h.clearDone _ _
  all_goals exact h

theorem State.lockLaw.completeSweep (u : Upset) : (t.completeSweep u).lockLaw := by
  unfold State.completeSweep
  repeat' split
  · exact h.sweepDone _ _ u
  · exact h.same (by simp)
  all_goals exact h

theorem State.lockLaw.completeStop (c : ChanId) (u : Upset) : (t.completeStop c u).lockLaw := by
  unfold State.completeStop
  repeat' split
  · exact h
  · exact h.completeAccess u
  · exact h.settleStop c

theorem State.lockLaw.prstnFalls (p : PortId) : (t.prstnFalls p).lockLaw := by
  unfold State.prstnFalls
  dsimp only
  split
  · exact (h.modPort p _).tearDown p _
  · exact h.modPort p _

end

/-! ## Every command, and every step -/

/-- A command that is no cycle. -/
theorem State.lockLaw.exec_of_event {i : Instr} {s t : State} (h : s.lockLaw) (e : exec i s = .next t)
    (hcy : cycleOf i = none) : t.lockLaw := by
  cases i with
  | ponnLow => cases e; exact h.powerDown
  | ponnHigh => cases e; exact h.same s.powerUp_locks
  | coldClearWriteComplete => cases e; exact h.completeClear
  | rstnLow => cases e; exact h.rstnFalls
  | sweepStart => cases e; exact h.same s.rstnRises_locks
  | sweepReadComplete u => cases e; exact h.completeSweep u
  | portReset p => cases e; exact h.prstnFalls p
  | teardownComplete p => cases e; exact h.same (s.finishTeardown_locks p)
  | portUp p => cases e; exact h.modPort p _
  | strobeNegated p => cases e; exact h.modPort p _
  | holdListTakeUp r => cases e; exact h.resumeRing r
  | stalledPostOpen r => cases e; exact h.same (s.openHead_locks r)
  | stallLimitExpiry r p => cases e; exact h.same (s.stallExpires_locks r p)
  | lockHandover l =>
    cases e
    split
    · exact h.releaseLock l
    · exact h
  | leaseExpiry l => cases e; exact h.leaseExpires l
  | tickBoundary => cases e; exact h.boundary
  | stopPendingComplete c u => cases e; exact h.completeStop c u
  | channelPick => cases e; exact h.same s.pickChan_locks
  | arbiterGrant u => cases e; exact h.same (s.grant_locks u)
  | memoryAccessComplete u => cases e; exact h.completeAccess u
  | _ => cases hcy

theorem State.lockLaw.exec {i : Instr} {s t : State} (h : s.lockLaw) (e : exec i s = .next t) : t.lockLaw := by
  cases hcy : cycleOf i with
  | some x =>
    obtain ⟨p, d, a, v⟩ := x
    rw [exec_of_cycleOf hcy] at e
    cases e
    exact h.present p d a v
  | none => exact h.exec_of_event e hcy

/-- Settles O57: a lock changes by grants of a FREE lock, joins of a queue that has a place, departures from a queue, releases and
ticks of its lease, and by resets, and each keeps its law. -/
theorem lockLawKept : Obligations.LockLawKept := by
  unfold Obligations.LockLawKept
  intro s t h e
  unfold Machine.step at e
  split at e
  · cases e
    exact h.clockPeriod
  · next c rest _ =>
    have hp : State.lockLaw { s with pending := rest } := h
    exact hp.exec e

end Sys2Proof.Machine

/-! PROOFS. The canonical form of memory is kept by every step (O55): up to operations that leave every word alone, a command has
the effect of one access, finds bits upset, or begins a new power-on. -/

namespace Sys2Proof.Machine

/-! ## The law of the memory (log 22) -/

theorem SameCells.memoryLaw {s t : State} (h : SameCells s t) (hs : s.memoryLaw) : t.memoryLaw := by
  unfold State.memoryLaw
  rw [h.1]
  exact hs

/-- The effect of an access is that of a write or of upset bits, whoever makes it. -/
theorem State.accessed_memoryLaw {s : State} (h : s.memoryLaw) (x : Access) (u : Upset) : (s.accessed x u).memoryLaw := by
  unfold State.accessed
  split
  · exact State.memWrite_wf _ _ h
  · exact State.memUpset_wf _ _ h
  · exact State.memEffect_wf _ _ h

theorem SameCells.withTick {s t : State} (h : SameCells s t) (n : Nat) : SameCells s { t with tick := n } := h

theorem State.clockPeriod_cells (s : State) : SameCells s s.clockPeriod := by
  have hd : SameCells s s.settleDue := ((Quiet.refl s).settleDue).sameCells
  unfold State.clockPeriod
  dsimp only
  split
  · split
    · exact hd.trans s.settleDue.boundary_cells
    · exact hd.withTick _
  · exact .refl s

/-- What a command can do to the memory: nothing, the effect of the access in progress, a grant's finding of upset bits, or
power-on, which leaves no word written (R142, R150). -/
theorem exec_memory_cases {i : Instr} {s t : State} (h : exec i s = .next t) :
    SameCells s t ∨ (∃ x u, SameCells (s.accessed x u) t) ∨ (∃ a u, SameCells (s.memUpset a u) t) ∨ t.mem = [] := by
  by_cases hp : i = .ponnLow
  · subst hp
    cases h
    show SameCells s s.powerDown ∨ _
    unfold State.powerDown
    split
    · exact .inr (.inr (.inr rfl))
    · exact .inl (.refl s)
  by_cases hg : ∃ u, i = .arbiterGrant u
  · obtain ⟨u, rfl⟩ := hg
    cases h
    exact (s.grant_cells u).imp id fun ⟨x, _, k⟩ => .inr (.inl ⟨_, u, k⟩)
  by_cases hi : ∃ u c, Completes i u c
  · obtain ⟨u, c, hi⟩ := hi
    exact (exec_completes_cells hi h).imp id fun ⟨x, _, k⟩ => .inl ⟨x, u, k⟩
  · exact .inl <| exec_cells h (fun u _ e => hg ⟨u, e⟩) (fun u e => hi ⟨u, 0, .inl e⟩)
      (fun u e => hi ⟨u, 0, .inr (.inl e)⟩)
      (fun c u e => hi ⟨u, c, .inr (.inr (.inl e))⟩) (fun e => hi ⟨0, 0, .inr (.inr (.inr e))⟩) hp

theorem State.memoryLaw.exec {i : Instr} {s t : State} (hs : s.memoryLaw) (h : exec i s = .next t) : t.memoryLaw := by
  rcases exec_memory_cases h with k | ⟨x, u, k⟩ | ⟨a, u, k⟩ | k
  · exact k.memoryLaw hs
  · exact k.memoryLaw (State.accessed_memoryLaw hs x u)
  · exact k.memoryLaw (State.memUpset_wf a u hs)
  · unfold State.memoryLaw
    rw [k]
    rfl

/-- Settles O55: every effect on the memory keeps its canonical form. -/
theorem memoryLawKept : Obligations.MemoryLawKept := by
  intro s t hs h
  unfold Machine.step at h
  split at h
  · cases h
    exact s.clockPeriod_cells.memoryLaw hs
  · next c rest _ =>
    have hq : State.memoryLaw { s with pending := rest } := hs
    exact hq.exec h

end Sys2Proof.Machine

/-! PROOFS. ARBITER_GRANT (O18) and CLEAR_FAULT (O29). -/

namespace Sys2Proof.Machine

/-! ## Grants (R139, R140) -/

theorem State.grantOrder_eq (s : State) : s.grantOrder = (List.finRange 5).map fun k => s.lastGrant + 1 + k := rfl

/-- The requester served is the first after the last-grant pointer that has a request presented (R139). -/
theorem State.nextGrant_first {s : State} {n : Fin 5} {r : Request} (hr : s.reqs[s.lastGrant + 1 + n] = some r)
    (hb : ∀ m : Fin 5, m.val < n.val → s.reqs[s.lastGrant + 1 + m] = none) :
    s.nextGrant = some (s.lastGrant + 1 + n) := by
  unfold State.nextGrant
  rw [State.grantOrder_eq]
  refine find?_finRange_map _ n ?_ fun m hm => ?_
  · rw [hr]
    rfl
  · rw [hb m hm]
    rfl

theorem State.nextGrant_none {s : State} (h : ∀ q : Fin 5, s.reqs[q] = none) : s.nextGrant = none := by
  unfold State.nextGrant
  refine List.find?_eq_none.mpr fun q _ => ?_
  rw [h q]
  exact Bool.false_ne_true

/-- While an access is in progress, in start-up, or with no request, nothing is granted (R139, R171). -/
theorem State.grant_idle {s : State} (h : s.part ≠ .running ∨ s.inProg.isSome = true ∨ ∀ q : Fin 5, s.reqs[q] = none)
    (u : Upset) : s.grant u = s := by
  unfold State.grant
  split
  · next hg =>
    obtain ⟨hrun, hidle⟩ := hg
    rcases h with h | h | h
    · exact absurd hrun h
    · rw [hidle] at h
      exact nomatch h
    · rw [State.nextGrant_none h]
  · rfl

/-- The request of the requester to be served becomes the access in progress. -/
theorem State.grant_next {s : State} {q : Fin 5} {r : Request} (hp : s.part = .running) (hi : s.inProg = none)
    (hn : s.nextGrant = some q) (hr : s.reqs[q] = some r) (u : Upset) : s.grant u = s.beginAccess q r u := by
  unfold State.grant
  rw [if_pos ⟨hp, hi⟩, hn]
  dsimp only
  rw [hr]

theorem State.beginAccess_single {r : Request} (h : ∀ v : Word, r.kind ≠ .pair v) (s : State) (q : Fin 5) (u : Upset) :
    s.beginAccess q r u = { s with
      reqs := upd s.reqs q fun _ => none, lastGrant := q, inProg := some { req := r, old := none } } := by
  unfold State.beginAccess
  dsimp only
  split
  · next v e => exact absurd e (h v)
  · rfl

/-- Bits upset in a written word are as if stored so (log 13). -/
theorem State.memUpset_written {s : State} {a : Addr} {c : MemCell} {u : Upset} (h : Mem.get? s.mem a.toNat = some c)
    (hu : u ≠ 0) : s.memUpset a u = { s with mem := Mem.set s.mem a.toNat (c.flipped u) } := by
  unfold State.memUpset
  rw [if_neg hu, h]

/-- An unwritten word stays undefined (log 1, log 13). -/
theorem State.memUpset_unwritten {s : State} {a : Addr} (h : Mem.get? s.mem a.toNat = none) (u : Upset) :
    s.memUpset a u = s := by
  unfold State.memUpset
  rw [h]
  exact ite_self s

/-- A pair's old word is read with the grant, bits upset then being as if stored so (log 12, log 13). -/
theorem State.beginAccess_pair {r : Request} {v : Word} (h : r.kind = .pair v) (s : State) (q : Fin 5) (u : Upset) :
    s.beginAccess q r u = { s with
      reqs := upd s.reqs q fun _ => none
      lastGrant := q
      mem := (s.memUpset r.addr u).mem
      inProg := some {
        req := r
        old := some (((s.memUpset r.addr u).cellAt r.addr).word, ((s.memUpset r.addr u).cellAt r.addr).bad) } } := by
  have hm : ({ s.modReq q fun _ => none with lastGrant := q } : State).memUpset r.addr u =
      { s.memUpset r.addr u with reqs := upd s.reqs q fun _ => none, lastGrant := q } := by
    generalize ht : ({ s.modReq q fun _ => none with lastGrant := q } : State) = t
    have hmem : t.mem = s.mem := ht ▸ rfl
    by_cases hu : u = 0
    · rw [hu, State.memUpset_zero, State.memUpset_zero, ← ht]
      rfl
    · cases hc : Mem.get? s.mem r.addr.toNat with
      | none =>
        rw [State.memUpset_unwritten hc, State.memUpset_unwritten (hmem ▸ hc), ← ht]
        rfl
      | some c =>
        rw [State.memUpset_written hc hu, State.memUpset_written (hmem ▸ hc) hu, hmem, ← ht]
        rfl
  unfold State.beginAccess
  rw [h]
  dsimp only
  rw [hm, State.memUpset_eq]
  rfl

/-- Settles O18: the first requester in the order of R139 is served, and its access begins. -/
theorem roundRobinGrant : Obligations.RoundRobinGrant := by
  intro s
  refine ⟨fun u h => congrArg Host.Outcome.next (s.grant_idle h u), fun n q r hp hi hq hr hb => ?_⟩
  subst hq
  have granted (m : Memory) (u : Upset) : exec (.arbiterGrant u) { s with mem := m } =
      .next (({ s with mem := m } : State).beginAccess (s.lastGrant + 1 + n) r u) :=
    congrArg Host.Outcome.next
      (State.grant_next (s := { s with mem := m }) hp hi (State.nextGrant_first (s := { s with mem := m }) hr hb) hr u)
  refine ⟨fun h u => ?_, fun v h => ?_, fun v h u => ⟨fun c hc hu => ?_, fun hc => ?_⟩⟩
  · exact (granted s.mem u).trans (congrArg _ (s.beginAccess_single h _ u))
  · refine (granted s.mem 0).trans (congrArg _ ?_)
    rw [State.beginAccess_pair h, State.memUpset_zero]
  · refine (granted s.mem u).trans ((congrArg _ ?_).trans (granted _ 0).symm)
    rw [State.beginAccess_pair h, State.beginAccess_pair h, State.memUpset_zero, State.memUpset_written hc hu]
  · refine (granted s.mem u).trans ((congrArg _ ?_).trans (granted s.mem 0).symm)
    rw [State.beginAccess_pair h, State.beginAccess_pair h, State.memUpset_zero, State.memUpset_unwritten hc]

/-! ## CLEAR_FAULT (R148) -/

/-- CLEAR_FAULT empties the fault record, and its write completes (R148). -/
theorem exec_clearFault {s : State} (h : s.ready 0) :
    exec (.clearFault 0) s = .next (({ s with fault := none } : State).written 0) := by
  rw [exec_portWord h (i := .clearFault 0) rfl 13 rfl, State.portWindow_write _ _ rfl (.inr rfl)]
  show Host.Outcome.next (State.doClearFault _) = _
  exact congrArg _ (State.completeWrite_accept { s with fault := none } 0 _ _ _ _)

/-- A delivery does not depend on the fault record, and leaves it. -/
theorem State.deliver_withFault (s : State) (p : PortId) (src : Source) (d : Word) (f : Option FaultRec) :
    ({ s with fault := f } : State).deliver p src d = { s.deliver p src d with fault := f } := by
  by_cases ht : s.takesDelivery p src = true
  · cases hb : s.boundSlot p src with
    | none => rw [State.deliver_unbound hb, State.deliver_unbound (s := { s with fault := f }) hb]
    | some i =>
      rw [State.deliver_eq_latch ht hb, State.deliver_eq_latch (s := { s with fault := f }) ht hb]
      rfl
  · rw [Bool.not_eq_true] at ht
    rw [State.deliver_untaken ht, State.deliver_untaken (s := { s with fault := f }) ht]

theorem State.reportParity_fault (s : State) (a : Addr) (code : Nat) :
    (s.reportParity a code).fault = loadFault s.fault a code := by
  unfold State.reportParity
  rw [State.deliver_eq]

/-- Settles O29: the record is emptied whatever it holds, and a PARITY delivery made before stands. -/
theorem clearFault : Obligations.ClearFault := by
  refine fun s h => ⟨exec_clearFault h, fun a code => ⟨State.reportParity_fault _ a code, ?_⟩⟩
  have hr : (s.reportParity a code).ready 0 := by
    unfold State.ready
    rw [State.reportParity_ports]
    exact h
  have he : ({ s.reportParity a code with fault := none } : State) =
      ({ s with fault := none } : State).deliver 0 .parity (BitVec.ofNat 16 code) := by
    unfold State.reportParity
    rw [s.deliver_withFault _ _ _ (loadFault s.fault a code), s.deliver_withFault _ _ _ none]
  rw [exec_clearFault hr, he]

end Sys2Proof.Machine

/-! PROOFS. Who issues the requests and the access in progress (R137, R138, R141): the blocks present requests of their own and no
clear writes or sweep reads, and leave the access in progress its issuer. `IssuersKept s t` says it of the states before and after
each of their operations, in the form that extends a chain. -/

namespace Sys2Proof.Machine

/-- An issuer other than start-up control, whose accesses are made in any part state (R141). -/
def Issuer.ofBlock (i : Issuer) : Prop := ∀ x : PartState, i.madeIn x

theorem Issuer.ofBlock_port (p : PortId) : (Issuer.port p).ofBlock := fun _ => trivial
theorem Issuer.ofBlock_ring (r : RingId) : (Issuer.ring r).ofBlock := fun _ => trivial
theorem Issuer.ofBlock_chan (c : ChanId) (k : ChanStep) : (Issuer.chan c k).ofBlock := fun _ => trivial

theorem State.chanRequest_ofBlock (s : State) (c : ChanId) (k : ChanStep) : (s.chanRequest c k).issuer.ofBlock := by
  cases k <;> exact Issuer.ofBlock_chan c _

theorem Request.discardFor_issuer (c : ChanId) (q : Request) : (q.discardFor c).issuer = q.issuer := by
  unfold Request.discardFor
  split <;> rfl

/-- No request is one of start-up control. -/
def State.blocksAsk (s : State) : Prop := ∀ (q : Fin 5) (r : Request), s.reqs[q] = some r → r.issuer.ofBlock

/-- The issuer of the access in progress. -/
def State.carriedFor (s : State) : Option Issuer := s.inProg.map (·.req.issuer)

/-- See the head of this file. -/
structure IssuersKept (s t : State) : Prop where
  carried : t.carriedFor = s.carriedFor
  asked : s.blocksAsk → t.blocksAsk

theorem IssuersKept.carries {s t : State} (h : IssuersKept s t) {a : Access} (ha : t.inProg = some a) :
    ∃ b : Access, s.inProg = some b ∧ b.req.issuer = a.req.issuer := by
  have hc := h.carried
  unfold State.carriedFor at hc
  rw [ha] at hc
  exact Option.map_eq_some_iff.mp hc.symm

theorem IssuersKept.idle_iff {s t : State} (h : IssuersKept s t) : t.inProg = none ↔ s.inProg = none := by
  have idle (u : State) : u.carriedFor = none ↔ u.inProg = none := Option.map_eq_none_iff
  rw [← idle t, ← idle s, h.carried]

theorem IssuersKept.refl (s : State) : IssuersKept s s := ⟨rfl, id⟩

theorem IssuersKept.trans {s t u : State} (h : IssuersKept s t) (k : IssuersKept t u) : IssuersKept s u :=
  ⟨k.carried.trans h.carried, k.asked ∘ h.asked⟩

theorem IssuersKept.foldl {α : Type} {f : State → α → State}
    (hf : ∀ {s t : State} (a : α), IssuersKept s t → IssuersKept s (f t a)) :
    ∀ (l : List α) {s t : State}, IssuersKept s t → IssuersKept s (l.foldl f t)
  | [], _, _, h => h
  | a :: l, _, _, h => IssuersKept.foldl hf l (hf a h)

section
variable {s t : State} (h : IssuersKept s t)
include h

/-! ## Changes of the state -/

/-- A change of neither the requests nor the access in progress. -/
theorem IssuersKept.same {u : State} (hq : u.reqs = t.reqs := by rfl) (hp : u.inProg = t.inProg := by rfl) : IssuersKept s u := by
  refine h.trans ⟨?_, fun k q r hr => k q r (hq ▸ hr)⟩
  unfold State.carriedFor
  rw [hp]

theorem IssuersKept.modPort (p : PortId) (f : Port → Port) : IssuersKept s (t.modPort p f) := h.same
theorem IssuersKept.modRing (r : RingId) (f : Ring → Ring) : IssuersKept s (t.modRing r f) := h.same
theorem IssuersKept.modLock (l : LockId) (f : Lock → Lock) : IssuersKept s (t.modLock l f) := h.same
theorem IssuersKept.modChan (c : ChanId) (f : Chan → Chan) : IssuersKept s (t.modChan c f) := h.same
theorem IssuersKept.setWait (p : PortId) (w : CycleWait) : IssuersKept s (t.setWait p w) := h.same
theorem IssuersKept.completeCycle (p : PortId) (e : CycleEnd) : IssuersKept s (t.completeCycle p e) := h.same
theorem IssuersKept.completeRead (p : PortId) (w : Word) : IssuersKept s (t.completeRead p w) := h.same
theorem IssuersKept.completeWrite (p : PortId) : IssuersKept s (t.completeWrite p) := h.same

/-- A request that is presented is a block's, or stands for one of the same issuer. -/
theorem IssuersKept.modReq (q : Fin 5) {f : Option Request → Option Request}
    (hf : ∀ r, f t.reqs[q] = some r → r.issuer.ofBlock ∨ ∃ r', t.reqs[q] = some r' ∧ r'.issuer = r.issuer) :
    IssuersKept s (t.modReq q f) := by
  refine h.trans ⟨rfl, fun k m r hr => ?_⟩
  rw [State.modReq_reqs, upd_get] at hr
  split at hr
  · next e =>
    subst e
    rcases hf r hr with hb | ⟨r', hr', he⟩
    · exact hb
    · exact he ▸ k q r' hr'
  · exact k m r hr

theorem IssuersKept.ask (q : Fin 5) {r : Request} (hr : r.issuer.ofBlock) : IssuersKept s (t.modReq q fun _ => some r) :=
  h.modReq q fun _ e => Option.some.inj e ▸ .inl hr

theorem IssuersKept.withdraw (q : Fin 5) : IssuersKept s (t.modReq q fun _ => none) := h.modReq q fun _ e => nomatch e

/-- A change of the access in progress that leaves its issuer. -/
theorem IssuersKept.mapProg {f : Access → Access} (hf : ∀ a, (f a).req.issuer = a.req.issuer) :
    IssuersKept s { t with inProg := t.inProg.map f } := by
  refine h.trans ⟨?_, id⟩
  unfold State.carriedFor
  rw [Option.map_map]
  exact congrArg (fun g => t.inProg.map g) (funext hf)

theorem IssuersKept.deliver (p : PortId) (src : Source) (d : Word) : IssuersKept s (t.deliver p src d) := by
  rw [State.deliver_eq]
  exact h.same

theorem IssuersKept.refuse (p : PortId) (r : Reason) : IssuersKept s (t.refuse p r) := by
  unfold State.refuse
  split
  · exact h
  · exact ((h.modPort p _).deliver p _ _).completeCycle p _

/-! ## Lock unit -/

theorem IssuersKept.releaseLock (l : LockId) : IssuersKept s (t.releaseLock l) :=
  h.same (t.releaseLock_reqs l).1 (t.releaseLock_reqs l).2

theorem IssuersKept.readLock (w : Bool) (p : PortId) (l : LockId) : IssuersKept s (t.readLock w p l).1 := by
  unfold State.readLock
  repeat' split
  all_goals exact h.same

theorem IssuersKept.writeLock (p : PortId) (l : LockId) : IssuersKept s (t.writeLock p l) := by
  unfold State.writeLock
  split
  · exact (h.releaseLock l).completeWrite p
  · split
    · exact h.same
    · exact h.refuse p _

theorem IssuersKept.acquireForChan (c : ChanId) (l : LockId) : IssuersKept s (t.acquireForChan c l) := by
  unfold State.acquireForChan
  split <;> exact h.same

theorem IssuersKept.leaveLock (c : ChanId) : IssuersKept s (t.leaveLock c) := by
  unfold State.leaveLock State.releaseForChan
  split
  · split
    · exact h.releaseLock _
    · exact h.same
  · exact h

/-! ## Ring engine -/

/-- The request of a port's redirected access is its ring's (R138). -/
theorem IssuersKept.issueRing (r : RingId) (q : Post) (d : Dir) (a : Addr) : IssuersKept s (t.issueRing r q d a) := by
  unfold State.issueRing
  split
  · exact ((h.modRing r _).ask _ (Issuer.ofBlock_ring r)).setWait _ _
  · exact h.modRing r _

theorem IssuersKept.issuePost (r : RingId) (q : Post) : IssuersKept s (t.issuePost r q) := h.issueRing _ _ _ _

theorem IssuersKept.openPost (r : RingId) (q : Post) : IssuersKept s (t.openPost r q) := by
  unfold State.openPost
  dsimp only
  split
  · split <;> exact h.same
  · exact (h.modRing r _).issuePost r q

theorem IssuersKept.unstall (q : Post) : IssuersKept s (t.unstall q) := by
  unfold State.unstall
  split
  · exact h
  · split
    · exact h.modChan _ _
    · exact h

theorem IssuersKept.openHead (r : RingId) : IssuersKept s (t.openHead r) := by
  unfold State.openHead
  split
  · split
    · exact h
    · exact ((h.modRing r _).unstall _).openPost r _
  · exact h

theorem IssuersKept.joinStall (r : RingId) (q : Post) : IssuersKept s (t.joinStall r q) := by
  unfold State.joinStall
  dsimp only
  split
  · exact h.same
  · split <;> exact h.same

theorem IssuersKept.postWritten (r : RingId) : IssuersKept s (t.postWritten r) := by
  unfold State.postWritten
  split
  · exact h
  · split
    · exact (h.modRing r _).openHead r
    · exact h.modRing r _

theorem IssuersKept.tellSpace (r : RingId) (b : Bool) : IssuersKept s (t.tellSpace r b) := by
  unfold State.tellSpace
  split
  · exact h.deliver _ _ _
  · exact h

theorem IssuersKept.takeRead (r : RingId) : IssuersKept s (t.takeRead r) := by
  unfold State.takeRead
  split
  · exact h
  · split
    · exact ((h.modRing r _).tellSpace r _).openHead r
    · exact h.modRing r _

theorem IssuersKept.dropAssembly (c : Claimant) (r : RingId) : IssuersKept s (t.dropAssembly c r) := by
  unfold State.dropAssembly
  dsimp only
  split
  · exact (h.modRing r _).openHead r
  · exact h.modRing r _

theorem IssuersKept.closeAssembly (c : ChanId) (r : RingId) : IssuersKept s (t.closeAssembly c r) := by
  unfold State.closeAssembly
  split
  · exact h.modRing r _
  · exact h.dropAssembly _ r

theorem IssuersKept.closeAssemblies (c : ChanId) : IssuersKept s (t.closeAssemblies c) :=
  IssuersKept.foldl (fun r k => k.closeAssembly c r) _ h

theorem IssuersKept.finishLeaving (r : RingId) (f : InFlight) : IssuersKept s (t.finishLeaving r f) := by
  unfold State.finishLeaving
  split
  · exact h
  · split
    · exact h.dropAssembly _ r
    · exact h

/-! ## Ends of runs -/

theorem IssuersKept.deliverDone (c : ChanId) (st : Status) : IssuersKept s (t.deliverDone c st) := by
  unfold State.deliverDone
  split
  · exact h.deliver _ _ _
  · exact h

theorem IssuersKept.withdrawFromRings (c : ChanId) : IssuersKept s (t.withdrawFromRings c) := by
  unfold State.withdrawFromRings
  split
  · exact (h.modRing _ _).closeAssemblies c
  · exact h.closeAssemblies c

theorem IssuersKept.finishLockFree (c : ChanId) : IssuersKept s (t.finishLockFree c) := by
  unfold State.finishLockFree
  split
  · exact h.completeWrite 0
  · exact h

theorem IssuersKept.endRun (c : ChanId) (st : Status) : IssuersKept s (t.endRun c st) :=
  ((((h.modChan c _).withdrawFromRings c).leaveLock c).deliverDone c st).finishLockFree c

theorem IssuersKept.leaveQueue (c : ChanId) : IssuersKept s (t.leaveQueue c) := by
  have k : IssuersKept s (if t.chans[c].state = .lockWait then t.leaveLock c else t) := by
    split
    · exact h.leaveLock c
    · exact h
  unfold State.leaveQueue
  dsimp only
  split
  · exact k.modRing _ _
  · exact k

theorem IssuersKept.stopRun (c : ChanId) (st : Status) : IssuersKept s (t.stopRun c st) := by
  unfold State.stopRun
  split
  · exact (h.leaveQueue c).modChan c _
  · exact h.endRun c st

theorem IssuersKept.stopChan (c : ChanId) (st : Status) : IssuersKept s (t.stopChan c st) := by
  unfold State.stopChan
  split
  · exact h
  · split
    · exact h
    · exact h.stopRun c st

theorem IssuersKept.settleStop (c : ChanId) : IssuersKept s (t.settleStop c) := by
  unfold State.settleStop
  split
  · split
    · exact h
    · exact h.endRun c _
  · exact h

/-- What a stopped run leaves at the arbiter and at the memory port keeps its issuer (log 24). -/
theorem IssuersKept.detachChan (c : ChanId) : IssuersKept s (t.detachChan c) := by
  have hq : IssuersKept s (t.modReq reqOfEngine fun q => q.map (·.discardFor c)) := by
    refine h.modReq _ fun r hr => .inr ?_
    obtain ⟨r', hr', e⟩ := Option.map_eq_some_iff.mp hr
    exact ⟨r', hr', e ▸ (r'.discardFor_issuer c).symm⟩
  exact (hq.mapProg (f := fun a => { a with req := a.req.discardFor c }) fun a => a.req.discardFor_issuer c).same

theorem IssuersKept.stopByReset (c : ChanId) : IssuersKept s (t.stopByReset c) := by
  unfold State.stopByReset
  split
  · exact h
  · exact ((((h.detachChan c).modChan c _).closeAssemblies c).leaveLock c).deliverDone c _

/-! ## Take-up and ring reset -/

theorem IssuersKept.refuseFull (r : RingId) (p : PortId) : IssuersKept s (t.refuseFull r p) := (h.deliver _ _ _).refuse p _

theorem IssuersKept.takeUpPost (r : RingId) (q : Post) : IssuersKept s (t.takeUpPost r q) := by
  unfold State.takeUpPost
  repeat' split
  · exact h.refuse _ _
  · exact h.stopChan _ _
  · exact h.issuePost r q
  · exact h.openPost r q
  · exact h.joinStall r q
  · exact h.refuseFull r _
  · exact h.refuse _ _
  · exact h.joinStall r q

theorem IssuersKept.takeUpTake (r : RingId) (p : PortId) : IssuersKept s (t.takeUpTake r p) := by
  unfold State.takeUpTake
  dsimp only
  repeat' split
  · exact h.refuse p _
  · exact h.refuse p _
  · exact h.issueRing r _ _ _
  · exact h.refuse p _
  · exact (h.modRing r _).issueRing r _ _ _

theorem IssuersKept.takeUp (r : RingId) (i : HoldItem) : IssuersKept s (t.takeUp r i) := by
  cases i with
  | post q => exact h.takeUpPost r q
  | take p => exact h.takeUpTake r p

theorem IssuersKept.ringArrive (r : RingId) (i : HoldItem) : IssuersKept s (t.ringArrive r i) := by
  unfold State.ringArrive State.holdWait
  split
  · repeat' split
    all_goals exact h.same
  · exact h.takeUp r i

end

theorem IssuersKept.takeUpHold (r : RingId) : ∀ (n : Nat) {s t : State}, IssuersKept s t → IssuersKept s (t.takeUpHold r n)
  | 0, _, _, h => h
  | n + 1, s, t, h => by
    unfold State.takeUpHold
    split
    · exact h
    · split
      · exact h
      · exact IssuersKept.takeUpHold r n ((h.modRing r _).takeUp r _)

section
variable {s t : State} (h : IssuersKept s t)
include h

theorem IssuersKept.resumeRing (r : RingId) : IssuersKept s (t.resumeRing r) := by
  unfold State.resumeRing
  split
  · exact h
  · split
    · exact (h.modRing r _).issuePost r _
    · exact IssuersKept.takeUpHold r _ h

theorem IssuersKept.resetRing (r : RingId) : IssuersKept s (t.resetRing r) := by
  have claimant {u : State} (k : IssuersKept s u) (q : Post) : IssuersKept s (u.resetClaimant q) := by
    unfold State.resetClaimant
    split
    · exact k.refuse _ _
    · exact k.stopByReset _
  have awaiting (q : Option Post) : IssuersKept s ((t.modRing r (·.cleared)).resetAwaiting q) := by
    unfold State.resetAwaiting
    repeat' split
    · exact (h.modRing r _).refuse _ _
    all_goals exact h.modRing r _
  have owner {u : State} (k : IssuersKept s u) (a : Option PostAsm) : IssuersKept s (u.resetOwner a) := by
    unfold State.resetOwner
    repeat' split
    · exact k.stopByReset _
    all_goals exact k
  have fold : ∀ (l : List StallEntry) {u : State}, IssuersKept s u →
      IssuersKept s (l.foldl (fun t e => t.resetClaimant e.post) u) := by
    intro l
    induction l with
    | nil => exact id
    | cons e l ih => exact fun k => ih (claimant k e.post)
  exact owner (fold _ (awaiting _)) _

/-! ## Transfer engine -/

theorem IssuersKept.startChan (p : PortId) (c : ChanId) : IssuersKept s (t.startChan p c) := by
  unfold State.startChan
  dsimp only
  repeat' split
  · exact h.refuse p _
  · exact ((h.modChan c _).acquireForChan c _).completeWrite p
  · exact h.same
  · exact h.refuse p _

theorem IssuersKept.abortChan (p : PortId) (c : ChanId) : IssuersKept s (t.abortChan p c) := by
  unfold State.abortChan
  split
  · exact (h.stopChan c _).completeWrite p
  · exact h.refuse p _

theorem IssuersKept.writeChan (p : PortId) (c : ChanId) (k : Nat) (v : Word) : IssuersKept s (t.writeChan p c k v) := by
  unfold State.writeChan
  repeat' split
  · exact h.startChan p c
  · exact h.abortChan p c
  · exact h.refuse p _
  · exact h.same
  · exact h.refuse p _

theorem IssuersKept.deliverMark (c : ChanId) : IssuersKept s (t.deliverMark c) := by
  unfold State.deliverMark
  repeat' split
  · exact h.deliver _ _ _
  all_goals exact h

theorem IssuersKept.descComplete (c : ChanId) : IssuersKept s (t.descComplete c) := by
  unfold State.descComplete
  dsimp only
  split
  · exact (h.withdrawFromRings c).modChan c _
  · exact (h.withdrawFromRings c).endRun c _

theorem IssuersKept.wordDone (c : ChanId) (w : Word) : IssuersKept s (t.wordDone c w) := by
  have k : IssuersKept s ((t.modChan c fun k =>
    { k with desc := k.desc.step w, wordsDone := k.wordsDone + 1, holding := none }).deliverMark c) :=
    (h.modChan c _).deliverMark c
  unfold State.wordDone
  dsimp only
  repeat' split
  · exact k.settleStop c
  · exact k
  · exact k.descComplete c
  · exact k

theorem IssuersKept.chainLock (c : ChanId) (old new : Option LockId) : IssuersKept s (t.chainLock c old new) := by
  have k : IssuersKept s (match old with | some l => t.releaseLock l | none => t) := by
    split
    · exact h.releaseLock _
    · exact h
  unfold State.chainLock
  dsimp only
  split
  · exact h
  · split
    · exact k.acquireForChan c _
    · exact k

theorem IssuersKept.fetchReadDone (c : ChanId) (w : Word) : IssuersKept s (t.fetchReadDone c w) := by
  unfold State.fetchReadDone State.installDesc
  dsimp only
  repeat' split
  · exact (h.modChan c _).chainLock c _ _
  · exact h.endRun c _
  · exact h.modChan c _

theorem IssuersKept.readStopped {c : ChanId} {b : Bool} {u : State} (e : t.readStopped c b = some u) : IssuersKept s u := by
  unfold State.readStopped at e
  split at e
  · cases e
    exact h.settleStop c
  · split at e
    · cases e
      exact h.endRun c _
    · cases e

theorem IssuersKept.srcReadDone (c : ChanId) (w : Word) : IssuersKept s (t.srcReadDone c w) := by
  unfold State.srcReadDone
  dsimp only
  repeat' split
  · exact h.wordDone c w
  · exact (h.modChan c _).ringArrive _ _
  all_goals exact h.modChan c _

theorem IssuersKept.dstReadDone (c : ChanId) (w : Word) : IssuersKept s (t.dstReadDone c w) := by
  unfold State.dstReadDone
  split
  · exact h.wordDone c w
  · exact h.endRun c _

theorem IssuersKept.sumWriteDone (c : ChanId) : IssuersKept s (t.sumWriteDone c) := by
  unfold State.sumWriteDone
  split
  · exact h.settleStop c
  · exact h.descComplete c

theorem IssuersKept.chanAccessDone (c : ChanId) (k : ChanStep) (w : Word) (b : Bool) :
    IssuersKept s (t.chanAccessDone c k w b) := by
  unfold State.chanAccessDone
  repeat' split
  · next e => exact h.readStopped e
  · exact h.srcReadDone c w
  · next e => exact h.readStopped e
  · exact h.dstReadDone c w
  · next e => exact h.readStopped e
  · exact h.fetchReadDone c w
  · exact h.wordDone c w
  · exact h.sumWriteDone c

/-- The transfer engine presents a post's write, issued by its ring, or an access of the channel's own (R126). -/
theorem IssuersKept.pickChan : IssuersKept s t.pickChan := by
  unfold State.pickChan State.presentChan
  dsimp only
  repeat' split
  · exact h
  · exact (h.same (u := State.modRing { t with lastChan := _ } _ _)).ask _ (Issuer.ofBlock_ring _)
  · exact h
  · exact (h.same (u := { t with lastChan := _ })).ask _ (t.chanRequest_ofBlock _ _)
  all_goals exact h

/-! ## Teardown and forcing -/

theorem IssuersKept.abandonCycle (p : PortId) : IssuersKept s (t.abandonCycle p) :=
  ((h.modPort p _).withdraw _).mapProg fun a => a.abandonFor_issuer p

theorem IssuersKept.tearRings (p : PortId) : IssuersKept s (t.tearRings p) := by
  have torn : IssuersKept s (t.ringsTorn p) := by
    rw [State.ringsTorn_eq]
    exact h.same
  rw [State.tearRings_eq]
  unfold State.ringsSettled
  refine IssuersKept.foldl (fun r k => ?_) _ torn
  split
  · exact (k.openHead r).resumeRing r
  · exact k

theorem IssuersKept.tearChans (p : PortId) : IssuersKept s (t.tearChans p) := by
  refine IssuersKept.foldl (fun c k => ?_) _ h
  split
  · exact k.stopChan c _
  · exact k

theorem IssuersKept.withdrawn (p : PortId) : IssuersKept s (t.withdrawn p) := by
  have locks : IssuersKept s (t.tearLocks p) := by
    rw [State.tearLocks_frame]
    exact h.same
  exact (locks.tearRings p).tearChans p

theorem IssuersKept.endDrop (p : PortId) : IssuersKept s (t.endDrop p) := by
  unfold State.endDrop
  split
  · split
    · exact h.completeWrite 0
    · exact h.abandonCycle 0
  · exact h

theorem IssuersKept.forceLock (l : LockId) (b : Bool) : IssuersKept s (t.forceLock l b) := by
  unfold State.forceLock
  split
  · exact h
  · exact (h.deliver _ _ _).releaseLock l
  · exact (h.releaseLock l).stopChan _ _

/-! ## Access path -/

/-- A cycle that passes to memory is its port's request (R16). -/
theorem IssuersKept.toMemory (p : PortId) (k : AccKind) (a : Addr) (g : Option WatchTag) : IssuersKept s (t.toMemory p k a g) :=
  (h.ask _ (Issuer.ofBlock_port p)).setWait p _

theorem IssuersKept.ringCycle (p : PortId) (r : RingId) (o : Nat) (d : Dir) (v : Word) :
    IssuersKept s (t.ringCycle p r o d v) := by
  unfold State.ringCycle State.readFree
  repeat' split
  · exact h.ringArrive r _
  · exact h.completeRead p _
  · exact h.refuse p _
  · exact h.ringArrive r _

theorem IssuersKept.lockCycle (p : PortId) (k o : Nat) (d : Dir) : IssuersKept s (t.lockCycle p k o d) := by
  cases d with
  | read => exact (h.readLock _ p _).completeRead p _
  | write => exact h.writeLock p _

theorem IssuersKept.chanCycle (p : PortId) (k o : Nat) (d : Dir) (v : Word) : IssuersKept s (t.chanCycle p k o d v) := by
  cases d with
  | read => exact h.completeRead p _
  | write => exact h.writeChan p _ _ v

theorem IssuersKept.rightfulCycle (p : PortId) (w : WinId) (d : Dir) (a : Addr) (v : Word) :
    IssuersKept s (t.rightfulCycle p w d a v) := by
  unfold State.rightfulCycle State.watchCycle
  dsimp only
  split
  · exact h.toMemory p _ a _
  · split <;> exact h.toMemory p _ a _
  · exact h.ringCycle p _ _ d v
  · exact h.lockCycle p _ _ d
  · exact h.chanCycle p _ _ d v
  · exact h.toMemory p _ a _

theorem IssuersKept.windowCycle (p : PortId) (w : WinId) (d : Dir) (a : Addr) (v : Word) :
    IssuersKept s (t.windowCycle p w d a v) := by
  unfold State.windowCycle
  repeat' split
  · exact h.refuse p _
  · exact h.rightfulCycle p w d a v
  · exact h.refuse p _

theorem IssuersKept.doRingReset (r : RingId) : IssuersKept s (t.doRingReset r) := by
  unfold State.doRingReset
  split
  · exact (h.resetRing r).completeWrite 0
  · exact h.completeWrite 0

theorem IssuersKept.doLockFree (l : LockId) : IssuersKept s (t.doLockFree l) := by
  unfold State.doLockFree
  dsimp only
  split
  · exact (h.forceLock l true).setWait 0 _
  · exact (h.forceLock l true).completeWrite 0

/-! ## Memory port and ticks -/

theorem IssuersKept.reportIf (b : Bool) (a : Addr) (c : Nat) : IssuersKept s (t.reportIf b a c) := by
  unfold State.reportIf
  split
  · exact (h.same (u := { t with fault := _ })).deliver 0 _ _
  · exact h

theorem IssuersKept.judge (g : Option WatchTag) (k : AccKind) (o : Option (Word × Bool)) : IssuersKept s (t.judge g k o) := by
  unfold State.judge
  repeat' split
  · exact h.deliver _ _ _
  all_goals exact h

theorem IssuersKept.portDone (p : PortId) (k : AccKind) (w : Word) : IssuersKept s (t.portDone p k w) := by
  unfold State.portDone
  split <;> exact h.same

theorem IssuersKept.ringEffect (r : RingId) (f : InFlight) : IssuersKept s (t.ringEffect r f) := by
  unfold State.ringEffect
  repeat' split
  · exact h.postWritten r
  · exact h.takeRead r
  · exact h

theorem IssuersKept.ringReport (q : Request) (f : InFlight) (w : Word) : IssuersKept s (t.ringReport q f w) := by
  unfold State.ringReport
  repeat' split
  · exact h
  · exact h.portDone _ _ w
  · exact h.wordDone _ w
  · exact h.settleStop _

theorem IssuersKept.ringDone (r : RingId) (q : Request) (w : Word) : IssuersKept s (t.ringDone r q w) := by
  unfold State.ringDone
  split
  · exact h
  · exact ((((h.modRing r _).ringEffect r _).finishLeaving r _).ringReport q _ w).resumeRing r

theorem IssuersKept.passResult (q : Request) (w : Word) (b : Bool) : IssuersKept s (t.passResult q w b) := by
  unfold State.passResult
  repeat' split
  · exact h
  · exact h.portDone _ _ w
  · exact h.ringDone _ q w
  · exact h.settleStop _
  · exact h.chanAccessDone _ _ w b
  all_goals exact h

theorem IssuersKept.leaseExpires (l : LockId) : IssuersKept s (t.leaseExpires l) := by
  unfold State.leaseExpires
  split
  · exact h.forceLock l _
  · exact h

theorem IssuersKept.stallExpires (r : RingId) (p : PortId) : IssuersKept s (t.stallExpires r p) := by
  unfold State.stallExpires
  split
  · exact (h.modRing r _).refuseFull r p
  · exact h

theorem IssuersKept.settleDue : IssuersKept s t.settleDue :=
  IssuersKept.foldl (fun r k => IssuersKept.foldl (fun p k => k.stallExpires r p) _ k) _
    (IssuersKept.foldl (fun l k => k.leaseExpires l) _ h)

theorem IssuersKept.countDown : IssuersKept s t.countDown :=
  IssuersKept.foldl (fun r k => k.modRing r _) _ (IssuersKept.foldl (fun l k => k.modLock l _) _ h)

end

end Sys2Proof.Machine

/-! PROOFS. The law of start-up control and of the ports' states is kept by every step (O56). An operation of the blocks is quiet
and keeps issuers; the others are a teardown, which is made while RUNNING, a part reset, and start-up control's own steps. -/

namespace Sys2Proof.Machine

/-! ## The law -/

/-- Both laws together: each needs the other, since a teardown is made only while RUNNING. -/
structure State.startUpLaw (s : State) : Prop where
  made : ∀ a : Access, s.inProg = some a → a.req.issuer.madeIn s.part
  asked : s.blocksAsk
  unpowered : s.ponn = false → s.part = .coldClear ∧ s.inProg = none
  ports : s.portLaw

theorem State.startUpLaw_iff (s : State) : s.startUpLaw ↔ s.startLaw ∧ s.portLaw :=
  ⟨fun h => ⟨⟨h.made, h.asked, h.unpowered⟩, h.ports⟩, fun ⟨⟨made, asked, unpowered⟩, ports⟩ =>
    ⟨made, asked, unpowered, ports⟩⟩

/-- A port while the part is RUNNING. -/
def Port.on (pt : Port) : Prop := pt.state ≠ .off ∧ (pt.teardown.isSome = true → pt.state = .down)

theorem State.portLaw_running {s : State} (h : s.part = .running) : s.portLaw ↔ ∀ p : PortId, s.ports[p].on := by
  unfold State.portLaw Port.on
  rw [h]
  simp

theorem State.portLaw_startUp {s : State} (h : s.part ≠ .running) :
    s.portLaw ↔ ∀ p : PortId, s.ports[p].state = .off ∧ s.ports[p].teardown = none := by
  refine forall_congr' fun p => ?_
  simp only [h, iff_true, ne_eq, not_false_eq_true]
  refine and_congr_right fun ho => ?_
  rw [ho]
  cases s.ports[p].teardown <;> simp

/-- The ports, given one by one, of a part that is RUNNING. -/
theorem State.portLaw_of_on {s : State} {f : PortId → Port} (hr : s.part = .running) (hs : s.ports = Vector.ofFn f)
    (hf : ∀ p, (f p).on) : s.portLaw := by
  refine (State.portLaw_running hr).mpr fun p => ?_
  rw [hs, Fin.getElem_fin, Vector.getElem_ofFn]
  exact hf p

/-- Every port OFF, as a part reset leaves them (R168). -/
theorem State.portLaw_of_off {s : State} {f : PortId → Port} (hr : s.part ≠ .running) (hs : s.ports = Vector.ofFn f)
    (hf : ∀ p, (f p).state = .off ∧ (f p).teardown = none) : s.portLaw := by
  refine (State.portLaw_startUp hr).mpr fun p => ?_
  rw [hs, Fin.getElem_fin, Vector.getElem_ofFn]
  exact hf p

/-- A port that is not OFF shows that the part is RUNNING (R168). -/
theorem State.startUpLaw.running {s : State} (h : s.startUpLaw) {p : PortId} (hp : s.ports[p].state ≠ .off) :
    s.part = .running := by
  by_contra hr
  exact hp ((h.ports p).1.mpr hr)

theorem State.startUpLaw.on {s : State} (h : s.startUpLaw) (hr : s.part = .running) (p : PortId) : s.ports[p].on :=
  (State.portLaw_running hr).mp h.ports p

/-- The part is powered wherever it has left COLD_CLEAR (R169). -/
theorem State.startUpLaw.powered {s : State} (h : s.startUpLaw) (hp : s.part ≠ .coldClear) : s.ponn = true := by
  by_contra hn
  exact hp (h.unpowered (Bool.eq_false_iff.mpr hn)).1

/-- The part is powered while an access is in progress (R169). -/
theorem State.startUpLaw.powered_of_access {s : State} (h : s.startUpLaw) {a : Access} (ha : s.inProg = some a) :
    s.ponn = true := by
  by_contra hn
  exact nomatch ha.symm.trans (h.unpowered (Bool.eq_false_iff.mpr hn)).2

section
variable {s t : State}

/-- The part's state, power, and the ports' states and teardowns are the same, and issuers are kept. -/
structure Standing (s t : State) : Prop extends IssuersKept s t where
  part : t.part = s.part
  ponn : t.ponn = s.ponn
  ports : ∀ p : PortId, t.ports[p].state = s.ports[p].state ∧ t.ports[p].teardown = s.ports[p].teardown

theorem Standing.trans {u : State} (h : Standing s t) (k : Standing t u) : Standing s u :=
  ⟨h.toIssuersKept.trans k.toIssuersKept, k.part.trans h.part, k.ponn.trans h.ponn,
    fun p => ⟨(k.ports p).1.trans (h.ports p).1, (k.ports p).2.trans (h.ports p).2⟩⟩

theorem Standing.same (part : t.part = s.part := by rfl) (ponn : t.ponn = s.ponn := by rfl)
    (ports : t.ports = s.ports := by rfl) (reqs : t.reqs = s.reqs := by rfl) (inProg : t.inProg = s.inProg := by rfl) :
    Standing s t := ⟨(IssuersKept.refl s).same reqs inProg, part, ponn, fun _ => ports ▸ ⟨rfl, rfl⟩⟩

/-- An operation of the blocks: quiet, and without a new issuer. -/
theorem Quiet.standing (q : Quiet s t) (k : IssuersKept s t) : Standing s t := by
  obtain ⟨part, ponn, -⟩ := q.config
  refine ⟨k, part, ponn, fun p => ?_⟩
  obtain ⟨state, -, -, teardown⟩ := q.ports p
  exact ⟨state, teardown⟩

/-- Where issuers are kept, only the ports' states are left to look at. -/
theorem State.startUpLaw.kept (h : s.startUpLaw) (k : IssuersKept s t) (part : t.part = s.part) (ponn : t.ponn = s.ponn)
    (ports : t.portLaw) : t.startUpLaw := by
  refine ⟨fun a ha => ?_, k.asked h.asked, fun hn => ?_, ports⟩
  · obtain ⟨b, hb, hi⟩ := k.carries ha
    rw [part, ← hi]
    exact h.made b hb
  · rw [part, k.idle_iff]
    exact h.unpowered (ponn ▸ hn)

theorem State.startUpLaw.stand (h : s.startUpLaw) (k : Standing s t) : t.startUpLaw := by
  refine h.kept k.toIssuersKept k.part k.ponn fun p => ?_
  rw [(k.ports p).1, (k.ports p).2, k.part]
  exact h.ports p

theorem State.startUpLaw.quiet (h : s.startUpLaw) (q : Quiet s t) (k : IssuersKept s t) : t.startUpLaw :=
  h.stand (q.standing k)

theorem State.startUpLaw.same (h : s.startUpLaw) (part : t.part = s.part := by rfl) (ponn : t.ponn = s.ponn := by rfl)
    (ports : t.ports = s.ports := by rfl) (reqs : t.reqs = s.reqs := by rfl) (inProg : t.inProg = s.inProg := by rfl) :
    t.startUpLaw := h.stand (.same part ponn ports reqs inProg)

end

/-! ## Table unit -/

section
variable (s : State)

theorem Standing.rejectTable (n : Nat) (r : TableReason) : Standing s (s.rejectTable n r) :=
  ((Quiet.refl s).rejectTable n r).standing ((IssuersKept.refl s).deliver _ _ _)

theorem Standing.commitWin (w : WinId) (v : Word) : Standing s (s.commitWin w v) := by
  have unstaged (r : TableReason) : Standing s ((s.modWin w (·.unstage)).rejectTable (winIndex w 3) r) :=
    Standing.trans .same (Standing.rejectTable _ _ r)
  unfold State.commitWin
  dsimp only
  repeat' split
  · exact unstaged _
  · exact .same
  · exact .same
  · exact unstaged _

theorem Standing.commitRing (r : RingId) (v : Word) : Standing s (s.commitRing r v) := by
  have unstaged (x : TableReason) : Standing s ((s.modRec r (·.unstage)).rejectTable (ringIndex r 7) x) :=
    Standing.trans .same (Standing.rejectTable _ _ x)
  have installed (d : Vector Word 7) (en : Bool) : Standing s (s.installRing r d en) :=
    (((Quiet.refl s).resetRing r).standing ((IssuersKept.refl s).resetRing r)).trans .same
  unfold State.commitRing
  dsimp only
  repeat' split
  · exact unstaged _
  · exact installed _ _
  · exact installed _ _
  · exact unstaged _

theorem Standing.writeBinding (p : PortId) (i : SlotId) (v : Word) : Standing s (s.writeBinding p i v) := by
  unfold State.writeBinding
  split
  · exact .same
  · exact Standing.trans (t := s.setBinding p i none) .same (Standing.rejectTable _ _ _)

theorem Standing.applyTable (k : TableWord) (v : Word) : Standing s (s.applyTable k v) := by
  cases k with
  | winCtl w => exact .commitWin s w v
  | ringCtl r => exact .commitRing s r v
  | binding p i => exact .writeBinding s p i v
  | _ => exact .same

theorem Standing.takeSwept (o : Nat) (c : MemCell) : Standing s (s.takeSwept o c) := by
  unfold State.takeSwept
  split
  · have reported : Standing s (s.reportParity (tableAddr o) 8) :=
      ((Quiet.refl s).reportParity _ _).standing ((IssuersKept.refl s).reportIf true _ _)
    have damaged (k : TableWord) : Standing s ((s.reportParity (tableAddr o) 8).damageTable k) := by
      cases k <;> exact reported.trans .same
    exact (damaged _).trans (Standing.rejectTable _ _ _)
  · exact .applyTable s _ _

end

/-! ## Changes of one port, and ends of cycles -/

section
variable {t : State} (h : t.startUpLaw)
include h

/-- A change of a port's record that keeps its state and its teardown. -/
theorem State.startUpLaw.modPort (p : PortId) {f : Port → Port}
    (hf : ∀ pt, (f pt).state = pt.state ∧ (f pt).teardown = pt.teardown := by exact fun _ => ⟨rfl, rfl⟩) :
    (t.modPort p f).startUpLaw := by
  refine h.kept ((IssuersKept.refl t).modPort p f) rfl rfl fun q => ?_
  rw [State.modPort_port]
  split
  · rw [(hf _).1, (hf _).2]
    exact h.ports q
  · exact h.ports q

/-- While RUNNING a port may take any state but OFF (R168, R178). -/
theorem State.startUpLaw.modPort_on (hr : t.part = .running) {p : PortId} {f : Port → Port} (hf : (f t.ports[p]).on) :
    (t.modPort p f).startUpLaw := by
  refine h.kept ((IssuersKept.refl t).modPort p f) rfl rfl ((State.portLaw_running (s := t.modPort p f) hr).mpr fun q => ?_)
  rw [State.modPort_port]
  split
  · next e => exact e ▸ hf
  · exact h.on hr q

theorem State.startUpLaw.completeRead (p : PortId) (w : Word) : (t.completeRead p w).startUpLaw :=
  h.quiet ((Quiet.refl t).completeRead p w) ((IssuersKept.refl t).completeRead p w)

theorem State.startUpLaw.completeWrite (p : PortId) : (t.completeWrite p).startUpLaw :=
  h.quiet ((Quiet.refl t).completeWrite p) ((IssuersKept.refl t).completeWrite p)

theorem State.startUpLaw.refuse (p : PortId) (r : Reason) : (t.refuse p r).startUpLaw :=
  h.quiet ((Quiet.refl t).refuse p r) ((IssuersKept.refl t).refuse p r)

theorem State.startUpLaw.deliver (p : PortId) (src : Source) (d : Word) : (t.deliver p src d).startUpLaw :=
  h.quiet ((Quiet.refl t).deliver p src d) ((IssuersKept.refl t).deliver p src d)

theorem State.startUpLaw.setWait (p : PortId) (w : CycleWait) : (t.setWait p w).startUpLaw := h.modPort p

/-! ## Teardowns (R178) -/

/-- A teardown in progress is one of a port that is DOWN, so the part is RUNNING. -/
theorem State.startUpLaw.finishTeardown (p : PortId) : (t.finishTeardown p).startUpLaw := by
  unfold State.finishTeardown
  split
  · next ht =>
    have hr : t.part = .running := h.running (p := p) (by rw [(h.ports p).2 ht.1]; decide)
    have k : (t.modPort p (·.afterTeardown)).startUpLaw := by
      refine h.modPort_on hr ⟨?_, fun e => nomatch e⟩
      unfold Port.afterTeardown
      dsimp only
      split <;> decide
    exact k.quiet ((Quiet.refl _).endDrop p) ((IssuersKept.refl _).endDrop p)
  · exact h

theorem State.startUpLaw.tearDown (hr : t.part = .running) (p : PortId) (cause : TeardownCause) :
    (t.tearDown p cause).startUpLaw := by
  have down : (t.modPort p (·.tornDown cause)).startUpLaw :=
    h.modPort_on hr ⟨show PortState.down ≠ .off by decide, fun _ => rfl⟩
  have taken : (t.takenDown p cause).startUpLaw := by
    unfold State.takenDown
    split
    · exact down.same
    · exact (down.quiet ((Quiet.refl _).abandonCycle p) ((IssuersKept.refl _).abandonCycle p)).same
  rw [State.tearDown_eq]
  exact (taken.quiet ((Quiet.refl _).withdrawn p) ((IssuersKept.refl _).withdrawn p)).finishTeardown p

theorem State.startUpLaw.prstnFalls (p : PortId) : (t.prstnFalls p).startUpLaw := by
  have k : (t.modPort p fun pt => { pt with prstn := false }).startUpLaw := h.modPort p
  unfold State.prstnFalls
  dsimp only
  split
  · next hr => exact k.tearDown hr.1 p .prstn
  · exact k

/-! ## Access path -/

theorem State.startUpLaw.readPortWord (p : PortId) (k : Fin 16) : (t.readPortWord p k).startUpLaw := by
  unfold State.readPortWord
  split
  case h_1 =>
    have taken : (t.takeNotice p).startUpLaw := by
      unfold State.takeNotice
      repeat' split
      all_goals exact h.same
    exact taken.completeRead p _
  case h_10 => exact State.startUpLaw.completeRead (h.modPort p) p _
  case h_11 => exact State.startUpLaw.completeRead (h.modPort p) p _
  case h_13 => exact State.startUpLaw.completeRead (t := { t with fault := none }) h.same p _
  case h_14 => exact h.refuse p _
  all_goals exact h.completeRead p _

/-- A change of the controller's words that completes its write. -/
theorem State.startUpLaw.ownWrite (p : PortId) (f : Controller → Controller) : ((t.modCtl p f).completeWrite p).startUpLaw :=
  State.startUpLaw.completeWrite (t := t.modCtl p f) h.same p

theorem State.startUpLaw.writeEnd (p : PortId) (v : Word) : (t.writeEnd p v).startUpLaw := by
  unfold State.writeEnd State.endUrgent State.endSlot
  repeat' split
  all_goals first | exact h.ownWrite p _ | exact h.refuse p _

theorem State.startUpLaw.doControl (c : Control) : (t.doControl c).startUpLaw := by
  cases c with
  | dropPort n =>
    show (t.doDropPort n).startUpLaw
    unfold State.doDropPort
    split
    · next hu => exact (h.setWait 0 _).tearDown (h.running (p := n) (by rw [hu]; decide)) n .drop
    · exact h.completeWrite 0
  | ringReset r => exact h.quiet ((Quiet.refl t).doRingReset r) ((IssuersKept.refl t).doRingReset r)
  | lockFree l => exact h.quiet ((Quiet.refl t).doLockFree l) ((IssuersKept.refl t).doLockFree l)
  | clearFault => exact State.startUpLaw.completeWrite (t := { t with fault := none }) h.same 0

theorem State.startUpLaw.writePortWord (p : PortId) (k : Fin 16) (v : Word) : (t.writePortWord p k v).startUpLaw := by
  unfold State.writePortWord
  split
  · exact h.writeEnd p v
  · exact h.ownWrite p _
  · exact h.ownWrite p _
  · exact h.ownWrite p _
  · unfold State.writeThreshold
    split
    · exact h.ownWrite p _
    · exact h.refuse p _
  · unfold State.writeSignal
    split
    · exact (h.deliver _ _ _).completeWrite p
    · exact h.refuse p _
  · unfold State.writeControl
    split
    · exact h.doControl _
    · exact h.refuse p _
  · exact h.refuse p _

theorem State.startUpLaw.portWindow (p : PortId) (k : Fin 16) (d : Dir) (v : Word) : (t.portWindow p k d v).startUpLaw := by
  cases d with
  | read =>
    unfold State.portWindow
    dsimp only
    repeat' split
    · exact h.refuse p _
    · exact h.refuse p _
    · exact h.readPortWord p k
  | write =>
    unfold State.portWindow
    dsimp only
    repeat' split
    · exact h.refuse p _
    · exact h.refuse p _
    · exact h.writePortWord p k v

theorem State.startUpLaw.toMemory (p : PortId) (k : AccKind) (a : Addr) (g : Option WatchTag) : (t.toMemory p k a g).startUpLaw :=
  h.quiet ((Quiet.refl t).toMemory p k a g) ((IssuersKept.refl t).toMemory p k a g)

/-! ### Cycles -/

theorem State.startUpLaw.tableCycle (p : PortId) (o : Nat) (d : Dir) (a : Addr) (v : Word) :
    (t.tableCycle p o d a v).startUpLaw := by
  cases d with
  | read => exact h.toMemory p _ a _
  | write =>
    unfold State.tableCycle
    dsimp only
    split
    · exact (h.stand (.applyTable t _ v)).toMemory p _ a _
    · exact h.refuse p _

theorem State.startUpLaw.arrive (p : PortId) (d : Dir) (a : Addr) (v : Word) : (t.arrive p d a v).startUpLaw := by
  unfold State.arrive
  split
  · exact h.portWindow p _ d v
  · exact h.tableCycle p _ d a v
  · exact h.refuse p _
  · exact h.quiet ((Quiet.refl t).windowCycle p _ d a v) ((IssuersKept.refl t).windowCycle p _ d a v)
  · exact h.toMemory p _ a _

theorem State.startUpLaw.present (p : PortId) (d : Dir) (a : Addr) (v : Word) : (t.present p d a v).startUpLaw := by
  unfold State.present
  split
  · exact h
  · split
    · exact h
    · exact h.modPort p
    · exact State.startUpLaw.arrive (h.modPort p) p d a v

/-! ## The end of start-up (R171) -/

theorem State.startUpLaw.arriveHeld (p : PortId) : (t.arriveHeld p).startUpLaw := by
  unfold State.arriveHeld
  split
  · exact h
  · split
    · exact (h.setWait p _).arrive p _ _ _
    · exact h

end

theorem State.startUpLaw.foldl {α : Type} {f : State → α → State}
    (hf : ∀ {t : State} (a : α), t.startUpLaw → (f t a).startUpLaw) :
    ∀ (l : List α) {t : State}, t.startUpLaw → (l.foldl f t).startUpLaw
  | [], _, h => h
  | a :: l, _, h => State.startUpLaw.foldl hf l (hf a h)

theorem State.startUpLaw.arriveAll {t : State} (h : t.startUpLaw) : t.arriveAll.startUpLaw := by
  unfold State.arriveAll
  split
  · exact State.startUpLaw.foldl (fun p k => k.arriveHeld p) _ h
  · exact State.startUpLaw.foldl (fun p k => k.arriveHeld p) _ h.same

/-- The ports leave OFF together, and nothing but their controllers changes besides (R171). -/
theorem State.leaveOff_all (s : State) : allPorts.foldl (fun u p => u.leaveOff p) s = { s with
    ports := Vector.ofFn fun p : PortId => (s.ports[p]).leaveOff
    ctls := (allPorts.foldl (fun u p => u.leaveOff p) s).ctls } := by
  have one (u : State) (p : PortId) : u.leaveOff p =
      { u with ports := upd u.ports p (·.leaveOff), ctls := (u.leaveOff p).ctls } := by
    unfold State.leaveOff
    dsimp only
    split <;> rfl
  have fold : ∀ (l : List PortId) (u : State), l.foldl (fun u p => u.leaveOff p) u = { u with
      ports := l.foldl (fun v p => upd v p (·.leaveOff)) u.ports
      ctls := (l.foldl (fun u p => u.leaveOff p) u).ctls } := by
    intro l
    induction l with
    | nil => exact fun _ => rfl
    | cons p l ih =>
      intro u
      rw [List.foldl_cons, List.foldl_cons, ih, one u p]
  rw [fold, foldl_upd_allPorts]

/-- A port that leaves OFF is UP or DOWN, and has no teardown in progress (R171). -/
theorem Port.leaveOff_on {pt : Port} (h : pt.teardown = none) : pt.leaveOff.on := by
  unfold Port.leaveOff
  split
  · exact ⟨show PortState.up ≠ .off by decide, fun e => nomatch h ▸ e⟩
  · exact ⟨show PortState.down ≠ .off by decide, fun _ => rfl⟩

/-- At the end of start-up, with no access in progress, every port leaves OFF (R171). -/
theorem State.startUpLaw.endStartUp {t : State} (h : t.startUpLaw) (hp : t.part ≠ .running) (hon : t.ponn = true)
    (hi : t.inProg = none) : t.endStartUp.startUpLaw := by
  have k : (allPorts.foldl (fun (u : State) p => u.leaveOff p) { t with part := .running }).startUpLaw := by
    rw [State.leaveOff_all]
    have off := (State.portLaw_startUp hp).mp h.ports
    exact ⟨fun a ha => (nomatch hi.symm.trans ha), h.asked, fun hn => (nomatch hon.symm.trans hn),
      State.portLaw_of_on rfl rfl fun p => Port.leaveOff_on (off p).2⟩
  exact k.arriveAll

/-! ## Start-up control's accesses and the resets (R141, R169, R170, R173) -/

theorem State.startUpLaw.startAccess {t : State} (h : t.startUpLaw) (k : AccKind) {i : Issuer} (o : Nat)
    (hi : i.madeIn t.part) (hon : t.ponn = true) : (t.startAccess k i o).startUpLaw := by
  refine ⟨fun a ha => ?_, h.asked, fun hn => (nomatch hon.symm.trans hn), h.ports⟩
  cases ha
  exact hi

/-- The access in progress is over. -/
theorem State.startUpLaw.idle {t : State} (h : t.startUpLaw) : State.startUpLaw { t with inProg := none } :=
  ⟨fun _ ha => (nomatch ha), h.asked, fun hn => ⟨(h.unpowered hn).1, rfl⟩, h.ports⟩

theorem State.reset_blocksAsk {s : State} (h : s.reqs = State.reset.reqs) : s.blocksAsk := by
  intro q r hr
  rw [h, State.reset_req] at hr
  exact nomatch hr

theorem State.startUpLaw.powerDown {t : State} (h : t.startUpLaw) : t.powerDown.startUpLaw := by
  unfold State.powerDown
  split
  · rw [State.resetBlocks_eq]
    exact ⟨fun _ ha => (nomatch ha), State.reset_blocksAsk rfl, fun _ => ⟨rfl, rfl⟩,
      State.portLaw_of_off nofun rfl fun _ => ⟨rfl, rfl⟩⟩
  · exact h

theorem State.warmReset_startUpLaw {s : State} (hon : s.ponn = true) : s.warmReset.startUpLaw := by
  rw [State.warmReset_eq]
  refine ⟨fun a ha => ?_, State.reset_blocksAsk rfl, fun hn => (nomatch hon.symm.trans hn),
    State.portLaw_of_off nofun rfl fun _ => ⟨rfl, rfl⟩⟩
  obtain ⟨b, -, rfl⟩ := Option.map_eq_some_iff.mp ha
  trivial

section
variable {t : State} (h : t.startUpLaw)
include h

theorem State.startUpLaw.powerUp : t.powerUp.startUpLaw := by
  unfold State.powerUp
  split
  · exact h
  · next hn =>
    obtain ⟨hp, -⟩ := h.unpowered (Bool.eq_false_iff.mpr hn)
    have k : State.startUpLaw { t with ponn := true } := ⟨h.made, h.asked, fun e => (nomatch e), h.ports⟩
    exact k.startAccess _ _ hp rfl

theorem State.startUpLaw.rstnFalls : t.rstnFalls.startUpLaw := by
  unfold State.rstnFalls
  split
  · split
    · exact h.same
    · next hp => exact State.warmReset_startUpLaw (h.powered hp)
  · exact h

theorem State.startUpLaw.beginSweep : t.beginSweep.startUpLaw := by
  unfold State.beginSweep
  split
  · next hs => exact h.startAccess _ _ hs.1 (h.powered (by rw [hs.1]; decide))
  · exact h

theorem State.startUpLaw.rstnRises : t.rstnRises.startUpLaw := by
  unfold State.rstnRises
  split
  · exact h
  · exact State.startUpLaw.beginSweep (t := { t with rstn := true }) h.same

/-! ## Accesses -/

theorem State.startUpLaw.memUpset (a : Addr) (u : Upset) : (t.memUpset a u).startUpLaw := by
  rw [State.memUpset_eq]
  exact h.same

theorem State.startUpLaw.memEffect (q : Request) (u : Upset) : (t.memEffect q u).startUpLaw := by
  rw [State.memEffect_eq]
  exact h.same

/-- A clear write is made in COLD_CLEAR, and so is the next one (R141, R170). -/
theorem State.startUpLaw.clearDone {x : Access} (hx : t.inProg = some x) {i : Nat} (hi : x.req.issuer = .clear i) (a : Addr) :
    (t.clearDone i a).startUpLaw := by
  have hp : t.part = .coldClear := by
    have made := h.made x hx
    rw [hi] at made
    exact made
  have hon : t.ponn = true := h.powered_of_access hx
  have k : (({ t with inProg := none } : State).memWrite a 0).startUpLaw := h.idle.same
  unfold State.clearDone
  dsimp only
  split
  · exact k.startAccess _ _ hp hon
  · split
    · exact k.endStartUp (show t.part ≠ _ by rw [hp]; decide) hon rfl
    · exact State.warmReset_startUpLaw hon

/-- A sweep read is made in SWEEP, and so is the next one (R141, R175). -/
theorem State.startUpLaw.sweepDone {x : Access} (hx : t.inProg = some x) {i : Nat} (hi : x.req.issuer = .sweep i) (a : Addr)
    (u : Upset) : (t.sweepDone i a u).startUpLaw := by
  have hp : t.part = .sweep := by
    have made := h.made x hx
    rw [hi] at made
    exact made
  have read : Standing { t with inProg := none } (({ t with inProg := none } : State).memUpset a u) := by
    rw [State.memUpset_eq]
    exact .same
  have swept := read.trans (.takeSwept _ (sweepOffset i) ((({ t with inProg := none } : State).memUpset a u).cellAt a))
  have k := h.idle.stand swept
  have hsweep := swept.part.trans hp
  unfold State.sweepDone
  dsimp only
  split
  · exact k.startAccess _ _ hsweep (k.powered (by rw [hsweep]; decide))
  · exact k.endStartUp (by rw [hsweep]; decide) (k.powered (by rw [hsweep]; decide)) (swept.idle_iff.mpr rfl)

theorem State.startUpLaw.staleDone (x : Access) (u : Upset) : (t.staleDone x u).startUpLaw :=
  State.startUpLaw.beginSweep (t := { ({ t with inProg := none } : State).memEffect x.req u with fault := none })
    (h.idle.memEffect x.req u).same

/-- A granted access passes its result to its issuer (R137). -/
theorem State.startUpLaw.grantedDone (x : Access) (u : Upset) : (t.grantedDone x u).startUpLaw :=
  (h.idle.memEffect x.req u).quiet ((((Quiet.refl _).reportIf _ _ _).judge _ _ _).passResult _ _ _)
    ((((IssuersKept.refl _).reportIf _ _ _).judge _ _ _).passResult _ _ _)

theorem State.startUpLaw.completeAccess (u : Upset) : (t.completeAccess u).startUpLaw := by
  unfold State.completeAccess
  split
  · exact h
  · next x hx =>
    split
    · next i hi => exact h.clearDone hx hi _
    · next i hi => exact h.sweepDone hx hi _ u
    · exact h.staleDone x u
    all_goals exact h.grantedDone x u

theorem State.startUpLaw.completeClear : t.completeClear.startUpLaw := by
  unfold State.completeClear
  split
  · next x hx =>
    split
    · next i hi => exact h.clearDone hx hi _
    · exact h
  · exact h

theorem State.startUpLaw.completeSweep (u : Upset) : (t.completeSweep u).startUpLaw := by
  unfold State.completeSweep
  split
  · next x hx =>
    split
    · next i hi => exact h.sweepDone hx hi _ u
    · split
      · exact h.staleDone x u
      · exact h
    · exact h
  · exact h

theorem State.startUpLaw.settleStop (c : ChanId) : (t.settleStop c).startUpLaw :=
  h.quiet ((Quiet.refl t).settleStop c) ((IssuersKept.refl t).settleStop c)

theorem State.startUpLaw.completeStop (c : ChanId) (u : Upset) : (t.completeStop c u).startUpLaw := by
  unfold State.completeStop
  repeat' split
  · exact h
  · exact h.completeAccess u
  · exact h.settleStop c

/-- A block's access may be in progress in any part state but COLD_CLEAR (R141, R169). -/
theorem State.startUpLaw.carry (hp : t.part ≠ .coldClear) {a : Access} (ha : a.req.issuer.ofBlock) :
    State.startUpLaw { t with inProg := some a } :=
  ⟨fun _ hb => Option.some.inj hb ▸ ha _, h.asked, fun hn => absurd (h.unpowered hn).1 hp, h.ports⟩

/-- A granted request is a block's (R139). -/
theorem State.startUpLaw.beginAccess {q : Fin 5} {r : Request} (hr : t.reqs[q] = some r) (hp : t.part = .running) (u : Upset) :
    (t.beginAccess q r u).startUpLaw := by
  have block : r.issuer.ofBlock := h.asked q r hr
  have withdrawn : Standing t { t.modReq q fun _ => none with lastGrant := q } :=
    ⟨((IssuersKept.refl t).withdraw q).same, rfl, rfl, fun _ => ⟨rfl, rfl⟩⟩
  unfold State.beginAccess
  dsimp only
  split
  · refine ((h.stand withdrawn).memUpset r.addr u).carry ?_ block
    rw [State.memUpset_eq]
    exact hp ▸ nofun
  · exact (h.stand withdrawn).carry (hp ▸ nofun) block

theorem State.startUpLaw.grant (u : Upset) : (t.grant u).startUpLaw := by
  unfold State.grant
  split
  · next hg =>
    split
    · split
      · next hr => exact h.beginAccess hr hg.1 u
      · exact h
    · exact h
  · exact h

/-! ## Ticks and pins -/

theorem State.startUpLaw.settleDue : t.settleDue.startUpLaw := h.quiet (Quiet.refl t).settleDue (IssuersKept.refl t).settleDue

theorem State.startUpLaw.withTick (n : Nat) : State.startUpLaw { t with tick := n } := h.same

theorem State.startUpLaw.boundary : t.boundary.startUpLaw := by
  unfold State.boundary
  split
  · exact (h.quiet (Quiet.refl t).settleDue.countDown (IssuersKept.refl t).settleDue.countDown).withTick 0
  · exact h

theorem State.startUpLaw.clockPeriod : t.clockPeriod.startUpLaw := by
  unfold State.clockPeriod
  dsimp only
  split
  · split
    · exact h.settleDue.boundary
    · exact h.settleDue.withTick _
  · exact h

/-- A port goes UP only while the part is RUNNING and no teardown is in progress there (R172, R177). -/
theorem State.startUpLaw.prstnRises (p : PortId) :
    (t.modPort p fun pt => pt.prstnRises (decide (t.part = .running))).startUpLaw := by
  by_cases hr : t.part = .running
  · obtain ⟨hon, hdown⟩ := h.on hr p
    refine h.modPort_on hr ?_
    unfold Port.prstnRises
    split
    · next hu => exact ⟨show PortState.up ≠ .off by decide, fun e => nomatch hu.2.2 ▸ e⟩
    · exact ⟨hon, hdown⟩
  · refine h.modPort p fun pt => ?_
    unfold Port.prstnRises
    rw [if_neg fun e => hr (of_decide_eq_true e.1)]
    exact ⟨rfl, rfl⟩

end

/-! ## Every command, and every step -/

theorem State.startUpLaw.exec {i : Instr} {s t : State} (h : s.startUpLaw) (e : exec i s = .next t) : t.startUpLaw := by
  cases hcy : cycleOf i with
  | some x =>
    obtain ⟨p, d, a, v⟩ := x
    rw [exec_of_cycleOf hcy] at e
    cases e
    exact h.present p d a v
  | none =>
    cases i with
    | ponnLow => cases e; exact h.powerDown
    | ponnHigh => cases e; exact h.powerUp
    | coldClearWriteComplete => cases e; exact h.completeClear
    | rstnLow => cases e; exact h.rstnFalls
    | sweepStart => cases e; exact h.rstnRises
    | sweepReadComplete u => cases e; exact h.completeSweep u
    | portReset p => cases e; exact h.prstnFalls p
    | teardownComplete p => cases e; exact h.finishTeardown p
    | portUp p => cases e; exact h.prstnRises p
    | strobeNegated p =>
      cases e
      refine h.modPort p fun pt => ?_
      unfold Port.strobeNegated
      split <;> exact ⟨rfl, rfl⟩
    | holdListTakeUp r => cases e; exact h.quiet ((Quiet.refl s).resumeRing r) ((IssuersKept.refl s).resumeRing r)
    | stalledPostOpen r => cases e; exact h.quiet ((Quiet.refl s).openHead r) ((IssuersKept.refl s).openHead r)
    | stallLimitExpiry r p => cases e; exact h.quiet ((Quiet.refl s).stallExpires r p) ((IssuersKept.refl s).stallExpires r p)
    | lockHandover l =>
      cases e
      split
      · exact h.quiet ((Quiet.refl s).releaseLock l) ((IssuersKept.refl s).releaseLock l)
      · exact h
    | leaseExpiry l => cases e; exact h.quiet ((Quiet.refl s).leaseExpires l) ((IssuersKept.refl s).leaseExpires l)
    | tickBoundary => cases e; exact h.boundary
    | stopPendingComplete c u => cases e; exact h.completeStop c u
    | channelPick => cases e; exact h.quiet (Quiet.refl s).pickChan (IssuersKept.refl s).pickChan
    | arbiterGrant u => cases e; exact h.grant u
    | memoryAccessComplete u => cases e; exact h.completeAccess u
    | _ => cases hcy

/-- Settles O56: a port leaves OFF with the whole part, a teardown is made while RUNNING, and no block asks for an access of
start-up control. -/
theorem portLawKept : Obligations.PortLawKept := by
  intro s t hs hp h
  refine t.startUpLaw_iff.mp ?_
  unfold Machine.step at h
  split at h
  · cases h
    exact (s.startUpLaw_iff.mpr ⟨hs, hp⟩).clockPeriod
  · next c rest _ =>
    exact (({ s with pending := rest } : State).startUpLaw_iff.mpr ⟨hs, hp⟩).exec h

end Sys2Proof.Machine

/-! PROOFS. The commit of a window entry (R156, R165, R167): the candidate taken or rejected, and P0's write of the control word
(O35). -/

namespace Sys2Proof.Machine

/-- The TABLE detail of a window's control word (Table 11-2). -/
theorem tableDetail_winCtl (w : WinId) (x : TableReason) :
    tableDetail (winIndex w 3) x = BitVec.ofNat 16 (0x13 + 4 * w.val + 4096 * x.code) := by
  have hw := w.isLt
  have hm : winIndex w 3 % 512 = 0x13 + 4 * w.val := by
    unfold winIndex
    omega
  unfold tableDetail
  rw [hm]

theorem winCtlOf_none_iff (v : Word) : (winCtlOf v).kind = 0 ↔ v.toNat % 8 = 0 := by
  rw [← (winCtlOf_fields v).1]
  exact BitVec.toNat_inj.symm

section
variable {s : State} {w : WinId} {d : Vector Word 3} {v : Word}
  (hc : candidate s.windows[w].data s.windows[w].staged = d)
include hc

/-- A commit of kind NONE (R156, log 25). -/
theorem State.commitWin_none (hd : s.windows[w].damaged = false) (hv : v.toNat % 8 = 0) :
    s.commitWin w v = s.modWin w fun _ => .installed false d (winCtlOf v) := by
  unfold State.commitWin
  dsimp only
  rw [hc, hd, if_neg Bool.false_ne_true, if_pos ((winCtlOf_none_iff v).mpr hv)]

/-- A candidate that passes (R156). -/
theorem State.commitWin_install (hd : s.windows[w].damaged = false) (hv : v.toNat % 8 ≠ 0)
    (hr : s.winReject w d (winCtlOf v) = none) :
    s.commitWin w v = s.modWin w fun _ => .installed true d (winCtlOf v) := by
  unfold State.commitWin
  dsimp only
  rw [hc, hd, if_neg Bool.false_ne_true, if_neg (mt (winCtlOf_none_iff v).mp hv), hr]

/-- A candidate that fails, and the commit of a damaged entry (R156, R165, R167). -/
theorem State.commitWin_reject {x : TableReason}
    (hx : s.windows[w].damaged = false ∧ v.toNat % 8 ≠ 0 ∧ s.winReject w d (winCtlOf v) = some x ∨
      s.windows[w].damaged = true ∧ x = .parity) :
    s.commitWin w v = (s.modWin w (·.unstage)).deliver 0 .table (BitVec.ofNat 16 (0x13 + 4 * w.val + 4096 * x.code)) := by
  rw [← tableDetail_winCtl]
  unfold State.commitWin
  dsimp only
  obtain ⟨hd, hv, hr⟩ | ⟨hd, rfl⟩ := hx
  · rw [hc, hd, if_neg Bool.false_ne_true, if_neg (mt (winCtlOf_none_iff v).mp hv), hr]
    rfl
  · rw [hd]
    rfl

end

/-- A window's commit does not look at ports' cycles. -/
theorem State.commitWin_taking (s : State) (p : PortId) (dir : Dir) (a : Addr) (u : Word) (w : WinId) (v : Word) :
    (s.taking p dir a u).commitWin w v = (s.commitWin w v).taking p dir a u := by
  obtain ⟨d, hc⟩ : ∃ d, candidate s.windows[w].data s.windows[w].staged = d := ⟨_, rfl⟩
  have hreject {x : TableReason} (hx : s.windows[w].damaged = false ∧ v.toNat % 8 ≠ 0 ∧
      s.winReject w d (winCtlOf v) = some x ∨ s.windows[w].damaged = true ∧ x = .parity) :
      (s.taking p dir a u).commitWin w v = (s.commitWin w v).taking p dir a u := by
    rw [State.commitWin_reject (s := s.taking p dir a u) hc hx, State.commitWin_reject hc hx]
    exact State.deliver_modPort (s.modWin w (·.unstage)) p 0 (fun pt => pt.accept dir a u .arriving) (fun _ => rfl) _ _
  cases hd : s.windows[w].damaged with
  | true => exact hreject (.inr ⟨hd, rfl⟩)
  | false =>
    by_cases hv : v.toNat % 8 = 0
    · rw [State.commitWin_none (s := s.taking p dir a u) hc hd hv, State.commitWin_none hc hd hv]
      rfl
    · cases hr : s.winReject w d (winCtlOf v) with
      | none =>
        rw [State.commitWin_install (s := s.taking p dir a u) hc hd hv hr, State.commitWin_install hc hd hv hr]
        rfl
      | some x => exact hreject (.inl ⟨hd, hv, hr⟩)

/-- P0's write of a window's control word commits the entry, and passes to memory (R10, R152). -/
theorem exec_windowCommit {s : State} (h : s.ready 0) (w : WinId) (v : Word) {a : Addr}
    (ha : a = BitVec.ofNat 18 (0x3FE13 + 4 * w.val)) : exec (.windowCommit w v) s =
      .next ((s.commitWin w v).requested 0 .write a v .memory (portRequest 0 (.write v) a none)) := by
  have hw := w.isLt
  have hn : winIndex w 3 = 0x13 + 4 * w.val := by unfold winIndex; omega
  exact exec_tableWrite (i := .windowCommit w v) (k := .winCtl w) (n := winIndex w 3) h rfl (by omega) (by omega) ha
    (hn ▸ tableWordOf_winCtl w) (s.commitWin_taking 0 .write a v w v)

/-- Settles O35: the commit installs or rejects by its first check that decides, and its word goes to memory. -/
theorem windowCommit : Obligations.WindowCommit := by
  intro s w v d a hd ha
  have hc : candidate s.windows[w].data s.windows[w].staged = d := candidate_eq hd
  exact ⟨State.commitWin_none hc, State.commitWin_install hc, fun x => State.commitWin_reject hc,
    fun h => exec_windowCommit h w v ha⟩

end Sys2Proof.Machine

/-! PROOFS. The checks of a window candidate (R157, R158, Table 9-2) and of a ring candidate (R160): each check in numbers, then the
checks in their order (O36). -/

namespace Sys2Proof.Machine

/-! ## Ranges (R157 checks 4 and 5, R160 checks 2 and 3) -/

theorem Range.meets_iff (g h : Range) :
    g.meets h = true ↔ 0 < g.len ∧ 0 < h.len ∧ g.base < h.base + h.len ∧ h.base < g.base + g.len := by
  unfold Range.meets
  simp only [Bool.and_eq_true, decide_eq_true_eq, and_assoc]

theorem Range.not_inSpan_iff (g : Range) : (!g.inSpan) = true ↔ 0x3FDF0 < g.base + g.len := by
  unfold Range.inSpan
  rw [Bool.not_eq_true', decide_eq_false_iff_not]
  exact Nat.not_le

/-- A window has a word: length 0 names 65536. -/
theorem winLen_pos (d : Vector Word 3) : 0 < winLen d := by
  unfold winLen
  split <;> omega

/-- A range with a word meets a window's. -/
theorem winRange_meets_iff (d : Vector Word 3) {base len : Nat} (h : 0 < len) :
    (winRange d).meets { base := base, len := len } = true ↔ base < winBase d + winLen d ∧ winBase d < base + len := by
  rw [Range.meets_iff]
  show 0 < winLen d ∧ 0 < len ∧ winBase d < base + len ∧ base < winBase d + winLen d ↔ _
  have := winLen_pos d
  omega

/-- A range with a word meets a ring's storage, which may be empty. -/
theorem storage_meets_iff (k : RingRec) {base len : Nat} (h : 0 < len) :
    k.storage.meets { base := base, len := len } = true ↔ 0 < k.capacity * k.entrySize ∧
      base < k.base + k.capacity * k.entrySize ∧ k.base < base + len := by
  rw [Range.meets_iff]
  show 0 < k.capacity * k.entrySize ∧ 0 < len ∧ k.base < base + len ∧ base < k.base + k.capacity * k.entrySize ↔ _
  generalize k.capacity * k.entrySize = n
  omega

/-- The range of a window candidate is taken (R157 check 5). -/
theorem State.winRange_taken_iff (s : State) (w : WinId) (d : Vector Word 3) : (!s.winRangeFree w (winRange d)) = true ↔
    (∃ v : WinId, v ≠ w ∧ s.windows[v].valid = true ∧ winBase d < winBase s.windows[v].data + winLen s.windows[v].data ∧
      winBase s.windows[v].data < winBase d + winLen d) ∨
    ∃ r : RingId, s.recs[r].enable = true ∧ 0 < s.recs[r].capacity * s.recs[r].entrySize ∧
      winBase d < s.recs[r].base + s.recs[r].capacity * s.recs[r].entrySize ∧ s.recs[r].base < winBase d + winLen d := by
  have hw (v : WinId) := winRange_meets_iff s.windows[v].data (base := winBase d) (winLen_pos d)
  have hr (r : RingId) := storage_meets_iff s.recs[r] (base := winBase d) (winLen_pos d)
  simp only [← hw, ← hr]
  rw [Bool.not_eq_true', ← Bool.not_eq_true, State.winRangeFree_iff, not_and_or]
  push Not
  simp only [ne_eq, Bool.not_eq_false]
  rfl

/-- The storage of a ring candidate is taken (R160 check 3). -/
theorem State.storage_taken_iff (s : State) (r : RingId) {base len : Nat} (h : 0 < len) :
    (!s.storageFree r { base := base, len := len }) = true ↔
    (∃ v : WinId, s.windows[v].valid = true ∧ base < winBase s.windows[v].data + winLen s.windows[v].data ∧
      winBase s.windows[v].data < base + len) ∨
    ∃ q : RingId, q ≠ r ∧ s.recs[q].enable = true ∧ 0 < s.recs[q].capacity * s.recs[q].entrySize ∧
      base < s.recs[q].base + s.recs[q].capacity * s.recs[q].entrySize ∧ s.recs[q].base < base + len := by
  have hw (v : WinId) := winRange_meets_iff s.windows[v].data (base := base) h
  have hr (q : RingId) := storage_meets_iff s.recs[q] (base := base) h
  simp only [← hw, ← hr]
  rw [Bool.not_eq_true', ← Bool.not_eq_true, State.storageFree_iff, not_and_or]
  push Not
  simp only [ne_eq, Bool.not_eq_false]

/-! ## Window kinds (Table 9-2) -/

/-- The code of a kind in a control word (Table 11-9). -/
def WinKind.code : WinKind → Nat
  | .plain => 1
  | .watch => 2
  | .ring => 3
  | .lock => 4
  | .channel => 5

theorem WinCtl.winKind_none_iff (c : WinCtl) : c.winKind = .none ↔ c.kind.toNat = 0 ∨ 6 ≤ c.kind.toNat := by
  have h : ∀ k : BitVec 3, ({ WinCtl.none with kind := k } : WinCtl).winKind = .none ↔ k.toNat = 0 ∨ 6 ≤ k.toNat := by decide
  exact h c.kind

theorem WinCtl.winKind_some_iff (c : WinCtl) (k : WinKind) : c.winKind = some k ↔ c.kind.toNat = k.code := by
  have h : ∀ b : BitVec 3, ({ WinCtl.none with kind := b } : WinCtl).winKind = some k ↔ b.toNat = k.code := by
    cases k <;> decide
  exact h c.kind

/-- The shape of a candidate by its kind's code (R157 check 3, Table 9-2). -/
def BadShape (kind len link count : Nat) : Prop :=
  kind = 3 ∧ ¬(len = 2 ∧ link < 8) ∨
  kind = 4 ∧ ¬(1 ≤ count ∧ count ≤ 16 ∧ len = 2 * count ∧ link + count ≤ 16) ∨
  kind = 5 ∧ ¬(1 ≤ count ∧ count ≤ 4 ∧ len = 8 * count ∧ link + count ≤ 4)

theorem not_shapeOk_iff (k : WinKind) (d : Vector Word 3) (c : WinCtl) :
    (!shapeOk k d c) = true ↔ BadShape k.code (winLen d) c.link.toNat c.count.toNat := by
  rw [Bool.not_eq_true', ← Bool.not_eq_true]
  unfold shapeOk BadShape
  cases k
  case plain | watch => simp [WinKind.code]
  all_goals
    simp only [WinKind.code, Bool.and_eq_true, decide_eq_true_eq, true_and]
    omega

/-- Windows of one kind map an object in common, where the candidate's shape is good (R157 check 6). -/
theorem mapped_meets_iff {k : WinKind} {d : Vector Word 3} {c : WinCtl}
    (h : ¬BadShape k.code (winLen d) c.link.toNat c.count.toNat) (x : WinCtl) :
    (mapped k x).meets (mapped k c) = true ↔
      k.code = 3 ∧ x.link.toNat = c.link.toNat ∨
      (k.code = 4 ∨ k.code = 5) ∧ 0 < x.count.toNat ∧ c.link.toNat < x.link.toNat + x.count.toNat ∧
        x.link.toNat < c.link.toNat + c.count.toNat := by
  rw [Range.meets_iff]
  unfold BadShape at h
  cases k
  all_goals
    simp only [mapped, WinKind.code, true_and, true_or, or_true] at h ⊢
    omega

theorem State.mapped_taken_iff (s : State) (w : WinId) {k : WinKind} {d : Vector Word 3} {c : WinCtl}
    (h : ¬BadShape k.code (winLen d) c.link.toNat c.count.toNat) : (!s.notMapped w k c) = true ↔
    ∃ v : WinId, v ≠ w ∧ s.windows[v].valid = true ∧ s.windows[v].ctl.kind.toNat = k.code ∧
      (k.code = 3 ∧ s.windows[v].ctl.link.toNat = c.link.toNat ∨
        (k.code = 4 ∨ k.code = 5) ∧ 0 < s.windows[v].ctl.count.toNat ∧
          c.link.toNat < s.windows[v].ctl.link.toNat + s.windows[v].ctl.count.toNat ∧
          s.windows[v].ctl.link.toNat < c.link.toNat + c.count.toNat) := by
  simp only [← mapped_meets_iff h, ← WinCtl.winKind_some_iff]
  rw [Bool.not_eq_true', ← Bool.not_eq_true, State.notMapped_iff]
  push Not
  simp only [ne_eq, Bool.not_eq_false]

theorem WinKind.watch_iff (k : WinKind) : k = .watch ↔ k.code = 2 := by cases k <;> decide

theorem WinKind.code_known (k : WinKind) : ¬(k.code = 0 ∨ 6 ≤ k.code) := by cases k <;> decide

/-! ## Rings (R160 check 1) -/

theorem not_ringShapeOk_iff (k : RingRec) : (!ringShapeOk k) = true ↔
    ¬(1 ≤ k.entrySize ∧ k.entrySize ≤ 4 ∧ 1 ≤ k.capacity ∧ k.capacity ≤ 4096 ∧ 1 ≤ k.watermark ∧
      k.watermark ≤ k.capacity ∧ 1 ≤ k.stallLimit ∧ k.policy ≤ 1) := by
  unfold ringShapeOk
  simp only [Bool.not_eq_true', ← Bool.not_eq_true, Bool.and_eq_true, decide_eq_true_eq, and_assoc]

/-! ## O36 -/

/-- Settles O36: check by check, in the order of R157 and of R160. -/
theorem candidateChecks : Obligations.CandidateChecks := by
  refine ⟨fun s w d c base len link count kind hbase hlen hlink hcount hkind => ?_,
    fun s r d base size cap mark limit policy hbase hsize hcap hmark hlimit hpolicy => ?_⟩
  · obtain rfl : base = winBase d := hbase.trans (winWords_eq d).2.symm
    obtain rfl : len = winLen d := hlen
    subst hlink hcount
    unfold State.winReject
    cases hk : c.winKind with
    | none => exact (if_pos (hkind ▸ c.winKind_none_iff.mp hk)).symm
    | some k =>
      obtain rfl : kind = k.code := hkind.trans ((c.winKind_some_iff k).mp hk)
      rw [if_neg k.code_known]
      refine if_congr (and_congr_left' k.watch_iff) rfl (if_ctx_congr (not_shapeOk_iff k d c) (fun _ => rfl) fun hs => ?_)
      exact if_congr (Range.not_inSpan_iff _) rfl
        (if_congr (s.winRange_taken_iff w d) rfl (if_congr (s.mapped_taken_iff w hs) rfl rfl))
  · obtain ⟨hb, hs, hp, -⟩ := (recOf d).fields_eq
    obtain rfl : base = (recOf d).base := hbase.trans hb.symm
    obtain rfl : size = (recOf d).entrySize := hsize.trans hs.symm
    obtain rfl : cap = (recOf d).capacity := hcap
    obtain rfl : mark = (recOf d).watermark := hmark
    obtain rfl : limit = (recOf d).stallLimit := hlimit
    obtain rfl : policy = (recOf d).policy := hpolicy.trans hp.symm
    refine if_ctx_congr (not_ringShapeOk_iff _) (fun _ => rfl) fun hshape => ?_
    obtain ⟨hsize, -, hcap, -⟩ := not_not.mp hshape
    exact if_congr (Range.not_inSpan_iff _) rfl (if_congr (s.storage_taken_iff r (Nat.mul_pos hcap hsize)) rfl rfl)

end Sys2Proof.Machine

/-! PROOFS. The tick generator (O2): a boundary or a CLK period with no expiry outstanding, and the outstanding expiries of an earlier
boundary, of which the first can be taken before it (R154, R103, R77, logs 3 to 5). -/

namespace Sys2Proof.Machine

/-! ## Steps one after another that mostly change nothing -/

/-- A fold that changes neither of two states before it comes to `i`, and makes the two one there, ends alike from both. -/
theorem foldl_eq_of_meet {σ : Type} {n : Nat} {f : σ → Fin n → σ} {s t : σ} {i : Fin n} :
    ∀ {l : List (Fin n)}, l.Pairwise (· < ·) → i ∈ l → (∀ j, j < i → f s j = s) → (∀ j, j < i → f t j = t) →
      f s i = f t i → l.foldl f s = l.foldl f t
  | j :: l, hl, hi, hs, ht, he => by
    obtain ⟨hj, hl⟩ := List.pairwise_cons.mp hl
    rw [List.foldl_cons, List.foldl_cons]
    obtain rfl | hi := List.mem_cons.mp hi
    · rw [he]
    · rw [hs j (hj i hi), ht j (hj i hi)]
      exact foldl_eq_of_meet hl hi hs ht he

/-! ## Outstanding leases (R103) -/

/-- `t` has no lease outstanding that `s` has not. -/
def NoNewLease (s t : State) : Prop := ∀ l : LockId, t.leaseDue l = true → s.leaseDue l = true

theorem State.leaseDue_congr {s t : State} {l : LockId} (h : t.locks[l] = s.locks[l]) : t.leaseDue l = s.leaseDue l := by
  unfold State.leaseDue
  rw [h]

/-- A grant loads the timer with 1 or more, or leaves it stopped (R102). -/
theorem State.leaseOf_ne_zero (s : State) (l : LockId) : s.leaseOf l ≠ some 0 := by
  unfold State.leaseOf
  split
  · exact fun e => nomatch e
  · next h => exact fun e => h (Option.some.inj e)

/-- A lock that is released has no holder, or a new one with its own lease (R101, R102). -/
theorem State.releaseLock_leaseDue (s : State) (l : LockId) : (s.releaseLock l).leaseDue l = false := by
  rw [Bool.eq_false_iff, ne_eq, State.leaseDue_iff, State.releaseLock_lock]
  unfold State.handedOn State.handedTo
  split
  · exact fun h => nomatch h.2
  · intro h
    exact s.leaseOf_ne_zero l ((s.leaseOf_eq l).trans h.1)

section
variable {s t : State} (h : NoNewLease s t)
include h

theorem NoNewLease.same {u : State} (e : u.locks = t.locks) : NoNewLease s u := fun l hl =>
  h l (State.leaseDue_congr (s := t) (t := u) (by rw [e]) ▸ hl)

theorem NoNewLease.releaseLock (l : LockId) : NoNewLease s (t.releaseLock l) := by
  intro m hm
  by_cases e : l = m
  · subst e
    rw [State.releaseLock_leaseDue] at hm
    exact Bool.noConfusion hm
  · exact h m (State.leaseDue_congr (t.releaseLock_other e) ▸ hm)

theorem NoNewLease.dropWaiters (l : LockId) (out : Claimant → Bool) : NoNewLease s (t.dropWaiters l out) := by
  intro m hm
  refine h m ?_
  rw [State.leaseDue_iff] at hm ⊢
  have e : (t.dropWaiters l out).locks[m] = if l = m then _ else t.locks[m] := upd_get _ _ _ _
  rw [e] at hm
  split at hm <;> exact hm

theorem NoNewLease.leaveLock (c : ChanId) : NoNewLease s (t.leaveLock c) := by
  unfold State.leaveLock State.releaseForChan
  split
  · split
    · exact h.releaseLock _
    · exact h.dropWaiters _ _
  · exact h

theorem NoNewLease.endRun (c : ChanId) (st : Status) : NoNewLease s (t.endRun c st) := by
  have hw : NoNewLease s ((t.modChan c fun k => k.ended st).withdrawFromRings c) := h.same (by simp)
  unfold State.endRun
  exact (hw.leaveLock c).same (by simp)

theorem NoNewLease.leaveQueue (c : ChanId) : NoNewLease s (t.leaveQueue c) := by
  have hl : NoNewLease s (if t.chans[c].state = .lockWait then t.leaveLock c else t) := by
    split
    · exact h.leaveLock c
    · exact h
  unfold State.leaveQueue
  dsimp only
  split
  · exact hl.same rfl
  · exact hl

theorem NoNewLease.stopChan (c : ChanId) (st : Status) : NoNewLease s (t.stopChan c st) := by
  unfold State.stopChan State.stopRun
  split
  · exact h
  · split
    · exact h
    · split
      · exact (h.leaveQueue c).same rfl
      · exact h.endRun c st

end

theorem NoNewLease.refl (s : State) : NoNewLease s s := fun _ => id

/-- A forced lock's lease is outstanding no more, and what the stop of its channel does makes none outstanding (R103, R132). -/
theorem State.forceLock_leaseDue (s : State) (l : LockId) (b : Bool) :
    NoNewLease s (s.forceLock l b) ∧ (s.forceLock l b).leaseDue l = false := by
  unfold State.forceLock
  split
  · next hn =>
    refine ⟨.refl s, ?_⟩
    unfold State.leaseDue
    rw [hn]
    exact Bool.and_false _
  · exact ⟨(NoNewLease.same (.refl s) (State.deliver_locks _ _ _ _)).releaseLock l, State.releaseLock_leaseDue _ l⟩
  · refine ⟨((NoNewLease.refl s).releaseLock l).stopChan _ _, Bool.eq_false_iff.mpr fun hd => ?_⟩
    have hr := (NoNewLease.refl (s.releaseLock l)).stopChan _ _ l hd
    rw [State.releaseLock_leaseDue] at hr
    exact Bool.noConfusion hr

theorem State.leaseExpires_early {s : State} {l : LockId} (h : s.leaseDue l = false) : s.leaseExpires l = s :=
  if_neg (Bool.eq_false_iff.mp h)

theorem State.leaseExpires_leaseDue (s : State) (l : LockId) :
    NoNewLease s (s.leaseExpires l) ∧ (s.leaseExpires l).leaseDue l = false := by
  unfold State.leaseExpires
  split
  · exact s.forceLock_leaseDue l false
  · next h => exact ⟨.refl s, Bool.eq_false_iff.mpr h⟩

/-! ## Outstanding stall limits (R77) -/

/-- The stall limit of port `p`'s entry at ring `r` has run out, and its expiry has not been taken (log 5). -/
def State.stallDue (s : State) (r : RingId) (p : PortId) : Bool := s.rings[r].stall.any (·.dueFor p)

theorem State.stallExpires_not_due {s : State} {r : RingId} {p : PortId} (h : s.stallDue r p = false) :
    s.stallExpires r p = s := if_neg (Bool.eq_false_iff.mp h)

theorem State.refuseFull_rings (s : State) (r : RingId) (p : PortId) : (s.refuseFull r p).rings = s.rings :=
  (State.refuse_rings _ _ _).trans (State.deliver_rings _ _ _ _)

/-- An expiry takes port `p`'s entries out of ring `r`'s queue, and changes nothing else of the rings. -/
theorem State.stallExpires_rings (s : State) (r : RingId) (p : PortId) :
    (s.stallExpires r p).rings = upd s.rings r fun k => { k with stall := k.stall.filter fun e => !e.dueFor p } := by
  unfold State.stallExpires
  split
  · exact State.refuseFull_rings _ _ _
  · next h =>
    have hk : s.rings[r].stall.filter (fun e => !e.dueFor p) = s.rings[r].stall :=
      List.filter_eq_self.mpr fun e he => by
        rw [Bool.not_eq_true']
        exact Bool.eq_false_iff.mpr fun hd => h (List.any_eq_true.mpr ⟨e, he, hd⟩)
    exact (upd_id _ _ _ (by rw [hk])).symm

theorem State.stallExpires_stallDue (s : State) (r : RingId) (p : PortId) :
    (s.stallExpires r p).stallDue r p = false ∧
      ∀ (k : RingId) (q : PortId), s.stallDue k q = false → (s.stallExpires r p).stallDue k q = false := by
  unfold State.stallDue
  rw [State.stallExpires_rings]
  refine ⟨?_, fun k q h => ?_⟩
  · rw [upd_get, if_pos rfl, List.any_eq_false]
    intro e he
    have hn := (List.mem_filter.mp he).2
    rwa [Bool.not_eq_true', ← Bool.not_eq_true] at hn
  · rw [upd_get]
    split
    · rw [List.any_eq_false] at h ⊢
      exact fun e he => h e (List.mem_filter.mp he).1
    · exact h

/-! ## The outstanding expiries one after another (log 5) -/

/-- The outstanding leases are taken, from lock 0 upward. -/
def State.settleLeases (s : State) : State := allLocks.foldl (fun u l => u.leaseExpires l) s

/-- The outstanding stall limits at ring `r` are taken, from port 0 upward. -/
def State.settleStalls (s : State) (r : RingId) : State := allPorts.foldl (fun v p => v.stallExpires r p) s

theorem State.settleDue_eq (s : State) : s.settleDue = allRings.foldl (fun u r => u.settleStalls r) s.settleLeases := rfl

theorem State.settleLeases_of_none {s : State} (h : ∀ l : LockId, s.leaseDue l = false) : s.settleLeases = s :=
  List.foldl_fixed' (fun l => State.leaseExpires_early (h l)) _

theorem State.settleStalls_of_none {s : State} {r : RingId} (h : ∀ p : PortId, s.stallDue r p = false) : s.settleStalls r = s :=
  List.foldl_fixed' (fun p => State.stallExpires_not_due (h p)) _

/-- With no expiry outstanding there is none to take. -/
theorem State.settleDue_of_none {s : State} (hl : ∀ l : LockId, s.leaseDue l = false)
    (hs : ∀ (r : RingId) (p : PortId), s.stallDue r p = false) : s.settleDue = s := by
  rw [State.settleDue_eq, State.settleLeases_of_none hl]
  exact List.foldl_fixed' (fun r => State.settleStalls_of_none (hs r)) _

/-- The first outstanding lease may be taken before the others. -/
theorem State.settleDue_leaseExpires {s : State} {l : LockId} (hl : ∀ k : LockId, k < l → s.leaseDue k = false) :
    s.settleDue = (s.leaseExpires l).settleDue := by
  obtain ⟨hnew, hdone⟩ := s.leaseExpires_leaseDue l
  have hsame : s.settleLeases = (s.leaseExpires l).settleLeases := by
    refine foldl_eq_of_meet (by decide) (mem_allLocks l) (fun k hk => State.leaseExpires_early (hl k hk)) (fun k hk => ?_)
      (State.leaseExpires_early hdone).symm
    exact State.leaseExpires_early (Bool.eq_false_iff.mpr fun hd => Bool.eq_false_iff.mp (hl k hk) (hnew k hd))
  rw [State.settleDue_eq, hsame, State.settleDue_eq]

/-- Where no lease is outstanding, the first outstanding stall limit may be taken before the others. -/
theorem State.settleDue_stallExpires {s : State} {r : RingId} {p : PortId} (hl : ∀ l : LockId, s.leaseDue l = false)
    (hs : ∀ (k : RingId) (q : PortId), k < r ∨ k = r ∧ q < p → s.stallDue k q = false) :
    s.settleDue = (s.stallExpires r p).settleDue := by
  obtain ⟨hdone, hnew⟩ := s.stallExpires_stallDue r p
  have hlocks (l : LockId) : (s.stallExpires r p).leaseDue l = false :=
    (State.leaseDue_congr (by rw [State.stallExpires_locks])).trans (hl l)
  have hring : s.settleStalls r = (s.stallExpires r p).settleStalls r :=
    foldl_eq_of_meet (by decide) (mem_allPorts p) (fun q hq => State.stallExpires_not_due (hs r q (.inr ⟨rfl, hq⟩)))
      (fun q hq => State.stallExpires_not_due (hnew r q (hs r q (.inr ⟨rfl, hq⟩)))) (State.stallExpires_not_due hdone).symm
  rw [State.settleDue_eq, State.settleDue_eq, State.settleLeases_of_none hl, State.settleLeases_of_none hlocks]
  exact foldl_eq_of_meet (by decide) (mem_allRings r) (fun k hk => State.settleStalls_of_none fun q => hs k q (.inl hk))
    (fun k hk => State.settleStalls_of_none fun q => hnew k q (hs k q (.inl hk))) hring

/-! ## Counting down (R154) -/

theorem foldl_upd_all {α : Type} {n : Nat} {l : List (Fin n)} (hd : l.Nodup) (hm : ∀ i, i ∈ l) (f : α → α) (v : Vector α n) :
    l.foldl (fun u i => upd u i f) v = Vector.ofFn fun i : Fin n => f v[i] := by
  apply Vector.ext
  intro j hj
  rw [Vector.getElem_ofFn]
  exact (foldl_upd (fun _ => f) l v ⟨j, hj⟩ hd).trans (if_pos (hm _))

theorem State.foldl_modLock (f : Lock → Lock) (l : List LockId) (s : State) :
    l.foldl (fun u i => u.modLock i f) s = { s with locks := l.foldl (fun v i => upd v i f) s.locks } := by
  induction l generalizing s with
  | nil => rfl
  | cons i l ih => rw [List.foldl_cons, ih]; rfl

theorem State.foldl_modRing (f : Ring → Ring) (l : List RingId) (s : State) :
    l.foldl (fun u i => u.modRing i f) s = { s with rings := l.foldl (fun v i => upd v i f) s.rings } := by
  induction l generalizing s with
  | nil => rfl
  | cons i l ih => rw [List.foldl_cons, ih]; rfl

theorem State.countDown_eq (s : State) : s.countDown = { s with
    locks := Vector.ofFn fun l : LockId => (s.locks[l]).ticked
    rings := Vector.ofFn fun r : RingId => (s.rings[r]).ticked } := by
  unfold State.countDown
  rw [State.foldl_modLock, State.foldl_modRing, foldl_upd_all nodup_allLocks mem_allLocks,
    foldl_upd_all nodup_allRings mem_allRings]

/-! ## Boundaries and CLK periods (R154) -/

theorem State.boundary_off {s : State} (h : s.ponn = false) : s.boundary = s := if_neg (Bool.eq_false_iff.mp h)

theorem State.boundary_on {s : State} (h : s.ponn = true) : s.boundary = { s.settleDue.countDown with tick := 0 } := if_pos h

theorem State.clockPeriod_off {s : State} (h : s.ponn = false) : s.clockPeriod = s := if_neg (Bool.eq_false_iff.mp h)

/-- A CLK period, by the state in which the outstanding expiries have been taken. -/
theorem State.clockPeriod_on {s : State} (h : s.ponn = true) : s.clockPeriod =
    if s.settleDue.tickLength ≤ s.settleDue.tick + 1 then s.settleDue.boundary
    else { s.settleDue with tick := s.settleDue.tick + 1 } := if_pos h

theorem step_idle {s : State} (h : s.pending = []) : step s = .next s.clockPeriod := by
  unfold step
  rw [h]

theorem exec_tickBoundary (s : State) : exec .tickBoundary s = .next s.boundary := rfl

/-- What a boundary or a CLK period makes of a state is seen from what the outstanding expiries make of it. -/
theorem ticks_of_settleDue {s t : State} (q : Quiet s t) (hp : s.ponn = true) (h : s.settleDue = t.settleDue) :
    exec .tickBoundary s = exec .tickBoundary t ∧ (s.pending = [] → step s = step t) := by
  obtain ⟨-, hponn, -, -, -, -, -, -, -, -, -, -, -, hpend⟩ := q.config
  have ht : t.ponn = true := hponn.trans hp
  refine ⟨?_, fun he => ?_⟩
  · rw [exec_tickBoundary, exec_tickBoundary, State.boundary_on hp, State.boundary_on ht, h]
  · rw [step_idle he, step_idle (hpend.trans he), State.clockPeriod_on hp, State.clockPeriod_on ht, h]

section
variable {s : State} (hp : s.ponn = true) (hl : ∀ l : LockId, s.leaseDue l = false)
  (hs : ∀ (r : RingId) (p : PortId), s.stallDue r p = false)
include hp hl hs

theorem State.boundary_quiet : s.boundary = { s with
    tick := 0
    locks := Vector.ofFn fun l : LockId => (s.locks[l]).ticked
    rings := Vector.ofFn fun r : RingId => (s.rings[r]).ticked } := by
  rw [State.boundary_on hp, State.settleDue_of_none hl hs, State.countDown_eq]

theorem State.clockPeriod_counts (ht : s.tick + 1 < s.tickLength) : s.clockPeriod = { s with tick := s.tick + 1 } := by
  rw [State.clockPeriod_on hp, State.settleDue_of_none hl hs, if_neg (Nat.not_le.mpr ht)]

theorem State.clockPeriod_ends (ht : s.tickLength ≤ s.tick + 1) : s.clockPeriod = s.boundary := by
  rw [State.clockPeriod_on hp, State.settleDue_of_none hl hs, if_pos ht]

end

/-! ## O2 -/

/-- Settles O2: a quiet period or boundary by its equation, and an outstanding expiry by what is left to take after it. -/
theorem ticksAndClock : Obligations.TicksAndClock := by
  refine ⟨fun s he => ⟨fun hp => ?_, fun hp hl hs => ⟨fun ht => ?_, fun ht => ?_⟩⟩, fun s => ⟨fun hp => ?_, fun hp hl hs => ?_⟩,
    fun s t hp h => ?_⟩
  · rw [step_idle he, State.clockPeriod_off hp]
  · rw [step_idle he, State.clockPeriod_counts hp hl hs ht]
  · rw [step_idle he, State.clockPeriod_ends hp hl hs ht, State.boundary_quiet hp hl hs]
    rfl
  · rw [exec_tickBoundary, State.boundary_off hp]
  · rw [exec_tickBoundary, State.boundary_quiet hp hl hs]
    rfl
  · rcases h with ⟨l, -, hl, ht⟩ | ⟨hl, r, p, -, hs, ht⟩
    · cases ht
      exact ticks_of_settleDue ((Quiet.refl s).leaseExpires l) hp (State.settleDue_leaseExpires hl)
    · cases ht
      exact ticks_of_settleDue ((Quiet.refl s).stallExpires r p) hp (State.settleDue_stallExpires hl hs)

end Sys2Proof.Machine

/-! PROOFS. Ports come up: the end of a teardown and PORT_UP (O33). -/

namespace Sys2Proof.Machine

/-! ## O33: TEARDOWN_COMPLETE and PORT_UP -/

theorem exec_teardownComplete (s : State) (p : PortId) : exec (.teardownComplete p) s = .next (s.finishTeardown p) := rfl

/-- A teardown waits exactly for the pending stops of the port's channels (R178). -/
theorem State.teardownWaits_iff (s : State) (p : PortId) : s.teardownWaits p = true ↔
    ∃ c : ChanId, s.chans[c].owner = some p ∧ s.chans[c].stopPending.isSome = true := by
  unfold State.teardownWaits
  rw [List.any_eq_true]
  constructor
  · rintro ⟨c, -, h⟩
    rw [Bool.and_eq_true, decide_eq_true_eq] at h
    exact ⟨c, h⟩
  · rintro ⟨c, ho, hp⟩
    exact ⟨c, mem_allChans c, by rw [ho, hp, decide_eq_true rfl]; rfl⟩

/-- TEARDOWN_COMPLETE without a teardown is no event (log 6). -/
theorem State.finishTeardown_none {s : State} {p : PortId} (h : s.ports[p].teardown = none) : s.finishTeardown p = s :=
  if_neg fun e => by rw [h] at e; exact Bool.false_ne_true e.1

/-- No DROP_PORT write waits for the teardown of `p`. -/
theorem State.endDrop_none {s : State} {p : PortId}
    (h : ∀ c : Cycle, s.ports[(0 : PortId)].cycle = some c → c.wait ≠ .control p) : s.endDrop p = s := by
  unfold State.endDrop
  refine if_neg fun e => ?_
  obtain ⟨c, hc, hw⟩ := (Option.any_eq_true _ _).mp e
  exact h c hc (of_decide_eq_true hw)

/-- The DROP_PORT write that waits completes where P0 is UP, and is abandoned where it is not (R9). -/
theorem State.endDrop_waiting {s : State} {p : PortId} {c : Cycle} (hc : s.ports[(0 : PortId)].cycle = some c)
    (hw : c.wait = .control p) :
    s.endDrop p = if s.ports[(0 : PortId)].state = .up then s.written 0 else s.abandonCycle 0 := by
  unfold State.endDrop
  rw [if_pos (by rw [hc]; exact decide_eq_true hw), State.completeWrite_of_cycle hc]
  rfl

/-- The end of a teardown leaves every port's cycle. -/
theorem State.afterTeardown_cycle (s : State) (p q : PortId) :
    (s.modPort p (·.afterTeardown)).ports[q].cycle = s.ports[q].cycle := by
  rw [State.modPort_port]
  split <;> rfl

/-- An abandoned cycle of P0, its own teardown at its end with PRSTN low, as one state (R9, R3). -/
theorem State.afterTeardown_abandoned {s : State} {p : PortId} {c : Cycle} (hc : s.ports[p].cycle = some c)
    (hr : s.ports[p].prstn = false) : (s.modPort p (·.afterTeardown)).abandonCycle p =
      { (s.modPort p fun pt => { pt with
          teardown := none, state := .down, cycle := none, pd := none, last := some .abandoned }) with
        reqs := upd s.reqs (reqOfPort p) fun _ => none
        inProg := s.inProg.map fun x =>
          if x.req.code = p.val then { x with req := { x.req with abandoned := true } } else x } := by
  have hp : (s.modPort p (·.afterTeardown)).modPort p (·.abandonCycle) = s.modPort p fun pt => { pt with
      teardown := none, state := .down, cycle := none, pd := none, last := some .abandoned } := by
    rw [State.modPort_modPort]
    refine State.modPort_congr _ _ ?_
    unfold Port.abandonCycle Port.afterTeardown
    rw [hr, hc]
    rfl
  unfold State.abandonCycle
  dsimp only
  rw [hp]
  rfl

/-- What PORT_UP changes, given what it makes of the port's record (R177). -/
theorem exec_portUp {s : State} {p : PortId} {f : Port → Port}
    (h : (s.ports[p]).prstnRises (decide (s.part = .running)) = f s.ports[p]) :
    exec (.portUp p) s = .next (s.modPort p f) := congrArg Host.Outcome.next (State.modPort_congr _ _ h)

/-- A DOWN port whose teardown is complete goes UP while RUNNING (R177). -/
theorem Port.prstnRises_up {pt : Port} {running : Bool} (hr : running = true) (hd : pt.state = .down)
    (ht : pt.teardown = none) : pt.prstnRises running = { pt with prstn := true, state := .up } := if_pos ⟨hr, hd, ht⟩

/-- Otherwise only the pin changes (R172, log 9). -/
theorem Port.prstnRises_pin {pt : Port} {running : Bool}
    (h : running = false ∨ pt.state ≠ .down ∨ pt.teardown.isSome = true) :
    pt.prstnRises running = { pt with prstn := true } := by
  refine if_neg ?_
  rintro ⟨hr, hd, ht⟩
  rw [hr, ht] at h
  rcases h with h | h | h
  · exact nomatch h
  · exact h hd
  · exact nomatch h

/-- Settles O33: the end of a teardown by what waits for it, and PORT_UP by the port's state. -/
theorem portsComeUp : Obligations.PortsComeUp := by
  intro s p
  refine ⟨fun h => ?_, fun ht hs => ?_, fun hr hd ht => ?_, fun h => ?_⟩
  · rw [exec_teardownComplete]
    rcases h with h | h
    · rw [State.finishTeardown_none h]
    · rw [State.finishTeardown_waits ((s.teardownWaits_iff p).mpr h)]
  · have hw : s.teardownWaits p = false := by
      rw [Bool.eq_false_iff, Ne, State.teardownWaits_iff]
      rintro ⟨c, ho, hc⟩
      rw [hs c ho] at hc
      exact Bool.false_ne_true hc
    have hend : exec (.teardownComplete p) s = .next ((s.modPort p (·.afterTeardown)).endDrop p) := by
      rw [exec_teardownComplete, State.finishTeardown_ends ht hw]
    rw [hend]
    refine ⟨fun hn => ?_, fun c hp hc hw hu => ?_, fun c hp hc hw => ?_⟩
    · rw [State.endDrop_none fun c hc => hn c ((s.afterTeardown_cycle p 0).symm.trans hc)]
      rfl
    · have hstate : (s.modPort p (·.afterTeardown)).ports[(0 : PortId)].state = .up := by
        rw [State.modPort_port_other _ _ hp, hu]
      rw [State.endDrop_waiting ((s.afterTeardown_cycle p 0).trans hc) hw, if_pos hstate]
      rfl
    · subst hp
      have hstate : (s.modPort 0 (·.afterTeardown)).ports[(0 : PortId)].state =
          if s.ports[(0 : PortId)].prstn then .up else .down := by
        rw [State.modPort_port_same]
        rfl
      rw [State.endDrop_waiting ((s.afterTeardown_cycle 0 0).trans hc) hw, hstate]
      refine ⟨fun hr => ?_, fun hr => ?_⟩
      · have hup : s.modPort 0 (·.afterTeardown) = s.modPort 0 fun pt => { pt with teardown := none, state := .up } := by
          refine State.modPort_congr _ _ ?_
          unfold Port.afterTeardown
          rw [hr]
          rfl
        rw [hr, if_pos (by rfl), hup]
      · rw [hr, if_neg (by decide), State.afterTeardown_abandoned hc hr]
  · exact exec_portUp (Port.prstnRises_up (decide_eq_true hr) hd ht)
  · exact exec_portUp (Port.prstnRises_pin (h.imp_left decide_eq_false))

end Sys2Proof.Machine

/-! PROOFS. The accesses of start-up control and the end of start-up where no cycle is held (O7, O8). -/

namespace Sys2Proof.Machine

/-! ## The end of start-up (R171) -/

/-- Reading a table given place by place. -/
theorem ofFn_get {α : Type} {n : Nat} (f : Fin n → α) (i : Fin n) : (Vector.ofFn f)[i] = f i := Vector.getElem_ofFn i.isLt

theorem Controller.cleared_eq (k : Controller) : k.cleared = k.torn := by
  have hs : (k.cleared).slots = (k.torn).slots := by
    apply Vector.ext
    intro i hi
    have hc : (k.cleared).slots[i] = { k.slots[i] with notice := none } := Controller.cleared_slot k ⟨i, hi⟩
    rw [hc]
    exact (ofFn_get (fun j : SlotId => ({ binding := k.slots[j].binding, notice := none } : Slot)) ⟨i, hi⟩).symm
  show { (k.torn) with slots := (k.cleared).slots } = k.torn
  rw [hs]

/-- A port leaves OFF by its PRSTN (R171). -/
theorem Port.leaveOff_eq (pt : Port) : pt.leaveOff = if pt.prstn then { pt with state := .up } else { pt with
    state := .down, cycle := none, pd := none, last := if pt.cycle.isSome then some .abandoned else pt.last } := rfl

/-- The controllers after the ports have left OFF (R171, R63). -/
theorem State.leaveOff_fold_ctl (s : State) (q : PortId) : (allPorts.foldl (fun u p => u.leaveOff p) s).ctls[q] =
    if s.ports[q].prstn then s.ctls[q] else (s.ctls[q]).torn := by
  have go : ∀ (l : List PortId) (s : State), l.Nodup → (l.foldl (fun u p => u.leaveOff p) s).ctls[q] =
      if q ∈ l ∧ s.ports[q].prstn = false then (s.ctls[q]).cleared else s.ctls[q] := by
    intro l
    induction l with
    | nil => exact fun s _ => (if_neg fun h => nomatch h.1).symm
    | cons p l ih =>
      intro s hd
      obtain ⟨hp, hl⟩ := List.nodup_cons.mp hd
      rw [List.foldl_cons, ih _ hl, State.leaveOff_ctl, State.leaveOff_port]
      by_cases e : p = q
      · subst e
        rw [if_neg fun h => hp h.1]
        simp only [List.mem_cons_self, true_and]
      · simp only [List.mem_cons, Ne.symm e, e, false_or, false_and, if_false]
  rw [go allPorts s (by decide), Controller.cleared_eq]
  cases s.ports[q].prstn
  · exact if_pos ⟨mem_allPorts q, rfl⟩
  · exact if_neg fun h => nomatch h.2

/-- Start-up ends in the state before any held cycle is classified, and then the held cycles arrive (R171). -/
theorem State.endStartUp_eq (s : State) : s.endStartUp = s.started.arriveAll := by
  have hc : (allPorts.foldl (fun (u : State) p => u.leaveOff p) { s with part := .running }).ctls = s.started.ctls := by
    apply Vector.ext
    intro i hi
    exact (State.leaveOff_fold_ctl { s with part := .running } ⟨i, hi⟩).trans
      (ofFn_get (fun p : PortId => if s.ports[p].prstn then s.ctls[p] else (s.ctls[p]).torn) ⟨i, hi⟩).symm
  unfold State.endStartUp
  rw [State.leaveOff_all, hc]
  rfl

theorem State.started_port (s : State) (p : PortId) : s.started.ports[p] = (s.ports[p]).leaveOff :=
  ofFn_get (fun p : PortId => (s.ports[p]).leaveOff) p

theorem State.started_state (s : State) (p : PortId) :
    s.started.ports[p].state = if s.ports[p].prstn then .up else .down := by
  rw [State.started_port, Port.leaveOff_eq]
  split <;> rfl

/-! ## Held cycles (R1, R171) -/

/-- Port `p` holds a cycle that has not been classified (R1). -/
def State.unclassifiedAt (s : State) (p : PortId) : Bool := (s.ports[p].cycle).any fun c => decide (c.wait = .unclassified)

theorem State.unclassifiedAt_of_cycle {s : State} {p : PortId} {c : Cycle} (h : s.ports[p].cycle = some c) :
    s.unclassifiedAt p = decide (c.wait = .unclassified) := by
  unfold State.unclassifiedAt
  rw [h]
  rfl

theorem State.unclassifiedAt_none {s : State} {p : PortId} (h : s.ports[p].cycle = none) : s.unclassifiedAt p = false := by
  unfold State.unclassifiedAt
  rw [h]
  rfl

/-- A DOWN port holds nothing after the end of start-up; an UP port holds what it held. -/
theorem State.started_unclassifiedAt (s : State) (p : PortId) : s.started.unclassifiedAt p = true ↔ s.heldOn p := by
  unfold State.unclassifiedAt
  rw [State.started_port, Port.leaveOff_eq]
  by_cases h : s.ports[p].prstn = true
  · rw [if_pos h]
    exact ⟨fun k => ⟨h, k⟩, fun k => k.2⟩
  · rw [if_neg h]
    exact ⟨fun k => (nomatch k), fun k => absurd k.1 h⟩

theorem State.started_classified {s : State} {p : PortId} (h : ¬s.heldOn p) : s.started.unclassifiedAt p = false :=
  Bool.eq_false_iff.mpr fun e => h ((s.started_unclassifiedAt p).mp e)

/-- Only a cycle that is held unclassified reaches the access path at the end of start-up (R171). -/
theorem State.arriveHeld_of_classified {s : State} {p : PortId} (h : s.unclassifiedAt p = false) : s.arriveHeld p = s := by
  unfold State.arriveHeld
  split
  · rfl
  · next c hc =>
    rw [State.unclassifiedAt_of_cycle hc] at h
    exact if_neg fun e => of_decide_eq_false h e.2

theorem State.foldl_arriveHeld_none {s : State} : ∀ {l : List PortId}, (∀ p ∈ l, s.unclassifiedAt p = false) →
    l.foldl (fun (u : State) p => u.arriveHeld p) s = s
  | [], _ => rfl
  | p :: l, h => by
    rw [List.foldl_cons, State.arriveHeld_of_classified (h p List.mem_cons_self)]
    exact State.foldl_arriveHeld_none fun q hq => h q (List.mem_cons_of_mem p hq)

/-- At most one port holds a cycle. -/
theorem State.heldCount_lt_two {s : State} {p : PortId} (h : ∀ q : PortId, q ≠ p → s.unclassifiedAt q = false) :
    s.heldCount < 2 := by
  have hsub : allPorts.filter s.unclassifiedAt ⊆ [p] := by
    intro q hq
    by_contra hn
    rw [List.mem_singleton] at hn
    exact Bool.false_ne_true ((h q hn).symm.trans (List.mem_filter.mp hq).2)
  have hnd : (allPorts.filter s.unclassifiedAt).Nodup := List.Nodup.filter _ (by decide)
  exact Nat.lt_succ_of_le (hnd.subperm hsub).length_le

/-- Two ports hold a cycle each. -/
theorem State.two_le_heldCount {s : State} {p q : PortId} (hpq : p ≠ q) (hp : s.unclassifiedAt p = true)
    (hq : s.unclassifiedAt q = true) : 2 ≤ s.heldCount := by
  have hsub : [p, q] ⊆ allPorts.filter s.unclassifiedAt := by
    intro x hx
    refine List.mem_filter.mpr ⟨mem_allPorts x, ?_⟩
    rcases List.mem_pair.mp hx with rfl | rfl
    · exact hp
    · exact hq
  have hnd : [p, q].Nodup := List.nodup_cons.mpr ⟨by rwa [List.mem_singleton], List.nodup_singleton q⟩
  exact (hnd.subperm hsub).length_le

/-- Start-up ends without a held cycle (R171). -/
theorem State.endStartUp_none {s : State} (h : ∀ p : PortId, ¬s.heldOn p) : s.endStartUp = s.started := by
  have hc (p : PortId) : s.started.unclassifiedAt p = false := State.started_classified (h p)
  rw [State.endStartUp_eq]
  unfold State.arriveAll
  rw [if_pos (State.heldCount_lt_two (p := 0) fun q _ => hc q)]
  exact State.foldl_arriveHeld_none fun p _ => hc p

theorem State.not_heldOn_of_cycle {s : State} {p : PortId} (h : s.ports[p].cycle = none) : ¬s.heldOn p := fun e => by
  obtain ⟨-, he⟩ := e
  rw [h] at he
  exact nomatch he

/-! ## The clear (R170) -/

theorem exec_ponnHigh (s : State) : exec .ponnHigh s = .next s.powerUp := rfl

theorem State.completeClear_of_clear {s : State} {a : Access} {i : Nat} (h : s.inProg = some a) (hi : a.req.issuer = .clear i) :
    s.completeClear = s.clearDone i a.req.addr := by
  unfold State.completeClear
  rw [h]
  dsimp only
  rw [hi]

/-- Without a clear write in progress its completion is no event (log 6). -/
theorem State.completeClear_of_none {s : State}
    (h : ∀ (a : Access) (i : Nat), s.inProg = some a → a.req.issuer ≠ .clear i) : s.completeClear = s := by
  unfold State.completeClear
  split
  · next a ha =>
    split
    · next i hi => exact absurd hi (h a i ha)
    · rfl
  · rfl

/-- The state in which a clear write has been made (R170). -/
def State.cleared (s : State) (a : Addr) : State :=
  { s with inProg := none, mem := Mem.set s.mem a.toNat { word := 0, par := true } }

/-- 0000H is stored with MDP high (R142, R170). -/
theorem goodCell_zero : goodCell 0 = { word := 0, par := true } := by decide

/-- A clear write by its number: the next one, the end of start-up, or a warm reset (R170, R171). -/
theorem State.clearDone_eq (s : State) (i : Nat) (a : Addr) : s.clearDone i a =
    if i + 1 < 512 then (s.cleared a).startClear (i + 1)
    else if s.rstn then (s.cleared a).endStartUp else (s.cleared a).warmReset := by
  have h : ({ s with inProg := none } : State).memWrite a 0 = s.cleared a := by
    unfold State.memWrite
    rw [goodCell_zero]
    rfl
  unfold State.clearDone
  rw [h]
  rfl

/-- COLD_CLEAR_WRITE_COMPLETE of the clear write number `i` (R170). -/
theorem exec_clear {s : State} {a : Access} {i : Nat} (h : s.inProg = some a) (hi : a.req.issuer = .clear i) :
    exec .coldClearWriteComplete s = .next (s.clearDone i a.req.addr) :=
  congrArg Host.Outcome.next (State.completeClear_of_clear h hi)

/-- The last clear write with RSTN high ends the start-up (R171). -/
theorem State.clearDone_last {s : State} (hr : s.rstn = true) (a : Addr) :
    s.clearDone 511 a = (s.cleared a).endStartUp := by
  rw [State.clearDone_eq, if_neg (by decide), if_pos hr]

theorem State.warmReset_state (s : State) (p : PortId) : s.warmReset.ports[p].state = .off := by
  rw [State.warmReset_eq]
  exact congrArg Port.state (ofFn_get (fun p : PortId => ({ Port.reset with
    prstn := s.ports[p].prstn, last := s.lastAfterWarm p } : Port)) p)

/-- Settles O7: the clear by the number of its write, and its end by RSTN. -/
theorem tableClear : Obligations.TableClear := by
  refine ⟨fun s h => ?_, fun s h => ?_, fun s h => ?_, fun s a i h hi => ⟨fun hl => ?_, fun hl hr hc => ?_, fun hl hr => ?_⟩⟩
  · rw [exec_ponnHigh]
    unfold State.powerUp
    rw [if_pos h]
  · rw [exec_ponnHigh]
    unfold State.powerUp
    rw [h]
    rfl
  · exact congrArg Host.Outcome.next (State.completeClear_of_none h)
  · rw [exec_clear h hi, State.clearDone_eq, if_pos (by omega)]
    rfl
  · subst hl
    have hnone : ∀ p : PortId, ¬(s.cleared a.req.addr).heldOn p := fun p => State.not_heldOn_of_cycle (hc p)
    rw [exec_clear h hi, State.clearDone_last hr, State.endStartUp_none hnone]
    refine ⟨_, rfl, rfl, rfl, rfl, fun p => ⟨State.started_state _ p, ?_⟩⟩
    rw [State.started_port, Port.leaveOff_eq]
    split <;> rfl
  · subst hl
    rw [exec_clear h hi, State.clearDone_eq, if_neg (by decide), if_neg (by rw [hr]; decide)]
    refine ⟨_, rfl, ?_, ?_, ?_, ?_, State.warmReset_state _⟩ <;> rw [State.warmReset_eq] <;> rfl

/-! ## The sweep (R173, R175) -/

theorem exec_sweepStart (s : State) : exec .sweepStart s = .next s.rstnRises := rfl

/-- RSTN goes high (R173). -/
theorem State.rstnRises_low {s : State} (h : s.rstn = false) : s.rstnRises = ({ s with rstn := true } : State).beginSweep := by
  unfold State.rstnRises
  rw [h]
  rfl

/-- SWEEP_READ_COMPLETE of the sweep read number `i` (R175). -/
theorem exec_sweep {s : State} {a : Access} {i : Nat} (h : s.inProg = some a) (hi : a.req.issuer = .sweep i) (u : Upset) :
    exec (.sweepReadComplete u) s = .next (s.sweepDone i a.req.addr u) := by
  refine congrArg Host.Outcome.next ?_
  unfold State.completeSweep
  rw [h]
  dsimp only
  rw [hi]

/-- A sweep read by its number, where the SRAM answers what was stored: the next one, or the end of start-up (R175). -/
theorem State.sweepDone_eq {s t : State} {i : Nat} {a : Addr}
    (h : ({ s with inProg := none } : State).takeSwept (sweepOffset i) (s.cellAt a) = t) :
    s.sweepDone i a 0 = if i + 1 < 276 then t.startSweep (i + 1) else t.endStartUp := by
  unfold State.sweepDone
  rw [State.memUpset_zero]
  have hc : ({ s with inProg := none } : State).cellAt a = s.cellAt a := rfl
  dsimp only
  rw [hc, h]
  rfl

/-- Upset bits are as if stored so, in the SRAM's cell (log 13). -/
theorem State.sweepDone_upset {s t : State} {i : Nat} {a : Addr} {u : Upset} (h : s.memUpset a u = t) :
    s.sweepDone i a u = t.sweepDone i a 0 := by
  have hm : ({ s with inProg := none } : State).memUpset a u = { s.memUpset a u with inProg := none } := by
    by_cases hu : u = 0
    · rw [hu, State.memUpset_zero, State.memUpset_zero]
    · cases hg : Mem.get? s.mem a.toNat <;> simp only [State.memUpset, if_neg hu, hg]
  unfold State.sweepDone
  rw [hm, h, State.memUpset_zero]

theorem State.takeSwept_good (s : State) (o : Nat) {c : MemCell} (h : c.bad = false) :
    s.takeSwept o c = s.applyTable (tableWordOf o) c.word := by
  unfold State.takeSwept
  rw [h]
  rfl

theorem State.takeSwept_bad (s : State) (o : Nat) {c : MemCell} (h : c.bad = true) :
    s.takeSwept o c = ((s.reportParity (tableAddr o) 8).damageTable (tableWordOf o)).rejectTable o .parity := by
  unfold State.takeSwept
  exact if_pos h

/-- The runs of the sweep's order (R175). -/
theorem sweepOffset_runs (i : Nat) : (i < 4 → sweepOffset i = i) ∧ (4 ≤ i → i < 68 → sweepOffset i = 0xE0 + (i - 4)) ∧
    (68 ≤ i → i < 196 → sweepOffset i = 0x10 + (i - 68)) ∧ (196 ≤ i → i < 260 → sweepOffset i = 0x90 + (i - 196)) ∧
    (260 ≤ i → i < 276 → sweepOffset i = 0xD0 + (i - 260)) := by
  unfold sweepOffset
  refine ⟨fun h => ?_, fun h k => ?_, fun h k => ?_, fun h k => ?_, fun h k => ?_⟩ <;> split_ifs <;> omega

/-- The sweep reads words of the table below its memory-only part (R175). -/
theorem sweepOffset_lt {i : Nat} (h : i < 276) : sweepOffset i < 512 := by
  unfold sweepOffset
  split_ifs <;> omega

/-- The TABLE detail of a swept word with a parity error (Table 11-2). -/
theorem tableDetail_parity {n : Nat} (h : n < 512) : tableDetail n .parity = BitVec.ofNat 16 (n + 10 * 4096) := by
  unfold tableDetail
  rw [Nat.mod_eq_of_lt h]
  rfl

/-- The last swept word, without a parity error, is the lease of lock 15 (R175, R162). -/
theorem State.takeSwept_last (s : State) {c : MemCell} (h : c.bad = false) :
    s.takeSwept (sweepOffset 275) c = s.writeLease 15 c.word := State.takeSwept_good s _ h

/-- Settles O8: the start of the sweep by the access in progress, and a sweep read by its parity and its number. -/
theorem sweepOfTable : Obligations.SweepOfTable := by
  refine ⟨⟨fun s h => ?_, fun s h hp hi => ?_, fun s h hn => ?_⟩,
    fun s a i t h hi hl ha => ⟨fun hb ht => ?_, fun hb ht => ?_, fun u c hm hu => ?_, fun u hm => ?_⟩, fun s => ?_, sweepOffset_runs,
    fun s a h hi hb hc => ?_⟩
  · rw [exec_sweepStart]
    unfold State.rstnRises
    rw [if_pos h]
  · rw [exec_sweepStart, State.rstnRises_low h, State.beginSweep_begins (s := { s with rstn := true }) hp rfl hi]
    rfl
  · rw [exec_sweepStart, State.rstnRises_low h]
    refine congrArg Host.Outcome.next (if_neg ?_)
    rintro ⟨hp, -, hi⟩
    rcases hn with hn | hn
    · exact hn hp
    · rw [show s.inProg = none from hi] at hn
      exact nomatch hn
  · subst ht
    rw [exec_sweep h hi, State.sweepDone_eq (State.takeSwept_good _ _ hb), if_pos (by omega)]
    rfl
  · subst ht
    rw [exec_sweep h hi, State.sweepDone_eq (State.takeSwept_bad _ _ hb), if_pos (by omega)]
    unfold State.rejectTable
    rw [tableDetail_parity (sweepOffset_lt (by omega)), ← ha]
    rfl
  · rw [exec_sweep h hi, exec_sweep (s := { s with mem := Mem.set s.mem a.req.addr.toNat (c.flipped u) }) h hi,
      State.sweepDone_upset (State.memUpset_written hm hu)]
  · rw [exec_sweep h hi, exec_sweep h hi, State.sweepDone_upset (State.memUpset_unwritten hm u)]
  · exact ⟨fun _ _ => rfl, fun _ => rfl, fun _ _ => rfl, fun _ => rfl, fun _ _ => rfl, fun _ => rfl, fun _ => rfl, rfl⟩
  · rw [exec_sweep h hi, State.sweepDone_eq (State.takeSwept_last _ hb), if_neg (by decide),
      State.endStartUp_none (s := ({ s with inProg := none } : State).writeLease 15 _)
        fun p => State.not_heldOn_of_cycle (hc p)]
    refine ⟨_, rfl, rfl, rfl, ?_, State.started_state _⟩
    show (upd s.leases 15 _)[(15 : LockId)] = _
    rw [upd_get, if_pos rfl]

end Sys2Proof.Machine

/-! PROOFS. What no block looks at in a port's cycle: whether its strobe has been negated, and whether it was held before it was
classified. Every operation of a cycle that reaches the access path goes alike with and without it (O9). -/

namespace Sys2Proof.Machine

/-! ## Veils -/

/-- A change of a port's cycle in progress, and of its PD where it has none, that no block sees: not the direction, the address or
a place that the cycle is waiting at, and in PD no more than the completion of the changed cycle shows. -/
structure Veil where
  port : PortId
  cycle : Cycle → Cycle
  pd : Option Word → Option Word
  dir_eq : ∀ c, (cycle c).dir = c.dir
  addr_eq : ∀ c, (cycle c).addr = c.addr
  moved : ∀ c w, w ≠ .unclassified → cycle { c with wait := w } = { cycle c with wait := w }
  waits : ∀ c w, w ≠ .unclassified → w ≠ .arriving → ((cycle c).wait = w ↔ c.wait = w)
  read : ∀ c (w : Word), pd (if c.strobe then some w else none) = if (cycle c).strobe then some w else none
  undriven : pd none = none

/-- The port's record under the veil. -/
def Veil.onPort (v : Veil) (pt : Port) : Port :=
  match pt.cycle with
  | some c => { pt with cycle := some (v.cycle c) }
  | none => { pt with pd := v.pd pt.pd }

theorem Veil.onPort_some (v : Veil) {pt : Port} {c : Cycle} (h : pt.cycle = some c) :
    v.onPort pt = { pt with cycle := some (v.cycle c) } := by
  unfold Veil.onPort
  rw [h]

theorem Veil.onPort_none (v : Veil) {pt : Port} (h : pt.cycle = none) : v.onPort pt = { pt with pd := v.pd pt.pd } := by
  unfold Veil.onPort
  rw [h]

/-- The state under the veil. -/
def Veil.on (v : Veil) (s : State) : State := s.modPort v.port v.onPort

section
variable (v : Veil) (s : State)

@[simp] theorem Veil.on_part : (v.on s).part = s.part := rfl
@[simp] theorem Veil.on_kind : (v.on s).kind = s.kind := rfl
@[simp] theorem Veil.on_ctls : (v.on s).ctls = s.ctls := rfl
@[simp] theorem Veil.on_windows : (v.on s).windows = s.windows := rfl
@[simp] theorem Veil.on_recs : (v.on s).recs = s.recs := rfl
@[simp] theorem Veil.on_rings : (v.on s).rings = s.rings := rfl
@[simp] theorem Veil.on_locks : (v.on s).locks = s.locks := rfl
@[simp] theorem Veil.on_chans : (v.on s).chans = s.chans := rfl
@[simp] theorem Veil.on_fault : (v.on s).fault = s.fault := rfl

/-! ### The port's record -/

theorem Veil.on_port (p : PortId) : (v.on s).ports[p] = if v.port = p then v.onPort s.ports[p] else s.ports[p] :=
  State.modPort_port s v.port p v.onPort

/-- What the veil leaves of a record, read at any port. -/
theorem Veil.on_port_field {α : Type} (g : Port → α) (hg : ∀ pt, g (v.onPort pt) = g pt) (p : PortId) :
    g (v.on s).ports[p] = g s.ports[p] := by
  rw [Veil.on_port]
  split
  · exact hg _
  · rfl

theorem Veil.on_state (p : PortId) : (v.on s).ports[p].state = s.ports[p].state :=
  v.on_port_field s Port.state (fun pt => by unfold Veil.onPort; split <;> rfl) p

theorem Veil.on_dropped (p : PortId) : (v.on s).ports[p].dropped = s.ports[p].dropped :=
  v.on_port_field s Port.dropped (fun pt => by unfold Veil.onPort; split <;> rfl) p

theorem Veil.on_refusal (p : PortId) : (v.on s).ports[p].refusal = s.ports[p].refusal :=
  v.on_port_field s Port.refusal (fun pt => by unfold Veil.onPort; split <;> rfl) p

theorem Veil.on_teardown (p : PortId) : (v.on s).ports[p].teardown = s.ports[p].teardown :=
  v.on_port_field s Port.teardown (fun pt => by unfold Veil.onPort; split <;> rfl) p

/-- The port's cycle under the veil. -/
theorem Veil.on_cycle (p : PortId) : (v.on s).ports[p].cycle = if v.port = p then (s.ports[p].cycle).map v.cycle
    else s.ports[p].cycle := by
  rw [Veil.on_port]
  split
  · unfold Veil.onPort
    split
    · next c hc => rw [hc]; rfl
    · next hc => rw [hc]; rfl
  · rfl

/-- The veil hides no cycle that waits at a place. -/
theorem Veil.on_waits (p : PortId) {w : CycleWait} (hw : w ≠ .unclassified) (ha : w ≠ .arriving) :
    ((v.on s).ports[p].cycle).any (fun c => decide (c.wait = w)) = (s.ports[p].cycle).any fun c => decide (c.wait = w) := by
  rw [Veil.on_cycle]
  split
  · cases s.ports[p].cycle with
    | none => rfl
    | some c => exact decide_eq_decide.mpr (v.waits c w hw ha)
  · rfl

/-- A change of a port's record that goes alike under the veil. -/
theorem Veil.modPort {f : Port → Port} (hf : ∀ pt, f (v.onPort pt) = v.onPort (f pt)) (p : PortId) :
    (v.on s).modPort p f = v.on (s.modPort p f) := by
  unfold Veil.on State.modPort
  congr 1
  apply Vector.ext
  intro i hi
  simp only [upd_getElem]
  by_cases hv : (v.port : Nat) = i
  · by_cases hp : (p : Nat) = i
    · simp only [if_pos hv, if_pos hp, hf]
    · simp only [if_pos hv, if_neg hp]
  · simp only [if_neg hv]

/-- A change of the rest of a port's record goes alike under the veil. -/
theorem Veil.modPort_beside {f : Port → Port}
    (hf : ∀ pt x y, f { pt with cycle := x, pd := y } = { f pt with cycle := x, pd := y }) (p : PortId) :
    (v.on s).modPort p f = v.on (s.modPort p f) := by
  refine v.modPort s (fun pt => ?_) p
  have he : f pt = { f pt with cycle := pt.cycle, pd := pt.pd } := hf pt pt.cycle pt.pd
  have hc : (f pt).cycle = pt.cycle := (congrArg Port.cycle he).trans rfl
  have hd : (f pt).pd = pt.pd := (congrArg Port.pd he).trans rfl
  cases h : pt.cycle with
  | none =>
    rw [v.onPort_none h, v.onPort_none (hc.trans h), hd]
    exact (hf pt pt.cycle (v.pd pt.pd)).trans (by rw [← hc])
  | some c =>
    rw [v.onPort_some h, v.onPort_some (hc.trans h)]
    exact (hf pt (some (v.cycle c)) pt.pd).trans (by rw [← hd])

/-- A fold of operations that go alike under the veil. -/
theorem Veil.foldl {α : Type} {f : State → α → State} (hf : ∀ (s : State) (a : α), f (v.on s) a = v.on (f s a)) :
    ∀ (l : List α) (s : State), l.foldl f (v.on s) = v.on (l.foldl f s)
  | [], _ => rfl
  | a :: l, s => by rw [List.foldl_cons, List.foldl_cons, hf, Veil.foldl hf l]

/-! ### Changes of one record -/

@[simp] theorem Veil.modCtl (p : PortId) (f : Controller → Controller) : (v.on s).modCtl p f = v.on (s.modCtl p f) := rfl
@[simp] theorem Veil.modWin (w : WinId) (f : WinEntry → WinEntry) : (v.on s).modWin w f = v.on (s.modWin w f) := rfl
@[simp] theorem Veil.modRec (r : RingId) (f : RingRec → RingRec) : (v.on s).modRec r f = v.on (s.modRec r f) := rfl
@[simp] theorem Veil.modRing (r : RingId) (f : Ring → Ring) : (v.on s).modRing r f = v.on (s.modRing r f) := rfl
@[simp] theorem Veil.modLock (l : LockId) (f : Lock → Lock) : (v.on s).modLock l f = v.on (s.modLock l f) := rfl
@[simp] theorem Veil.modChan (c : ChanId) (f : Chan → Chan) : (v.on s).modChan c f = v.on (s.modChan c f) := rfl
@[simp] theorem Veil.modReq (q : Fin 5) (f : Option Request → Option Request) :
    (v.on s).modReq q f = v.on (s.modReq q f) := rfl

/-! ### Ends of cycles, deliveries and refusals -/

@[simp] theorem Veil.completeCycle (p : PortId) (e : CycleEnd) : (v.on s).completeCycle p e = v.on (s.completeCycle p e) := by
  refine v.modPort s (fun pt => ?_) p
  unfold Veil.onPort
  cases hc : pt.cycle with
  | none => simp only [hc]
  | some c =>
    cases e with
    | read w => simp only [v.read]
    | write => simp only [v.undriven]
    | abandoned => simp only [v.undriven]

@[simp] theorem Veil.completeRead (p : PortId) (w : Word) : (v.on s).completeRead p w = v.on (s.completeRead p w) :=
  v.completeCycle s p _

@[simp] theorem Veil.completeWrite (p : PortId) : (v.on s).completeWrite p = v.on (s.completeWrite p) :=
  v.completeCycle s p _

theorem Veil.setWait (p : PortId) {w : CycleWait} (hw : w ≠ .unclassified) :
    (v.on s).setWait p w = v.on (s.setWait p w) := by
  refine v.modPort s (fun pt => ?_) p
  unfold Veil.onPort
  cases hc : pt.cycle with
  | none => simp only [Option.map_none]
  | some c => simp only [Option.map_some, v.moved c w hw]

@[simp] theorem Veil.takesDelivery (p : PortId) (src : Source) : (v.on s).takesDelivery p src = s.takesDelivery p src := by
  unfold State.takesDelivery
  rw [Veil.on_state, Veil.on_part]

@[simp] theorem Veil.deliver (p : PortId) (src : Source) (d : Word) : (v.on s).deliver p src d = v.on (s.deliver p src d) := by
  have hb : (v.on s).boundSlot p src = s.boundSlot p src := rfl
  unfold State.deliver
  rw [Veil.takesDelivery, hb]
  split
  · split <;> rfl
  · rfl

@[simp] theorem Veil.rejectTable (n : Nat) (r : TableReason) : (v.on s).rejectTable n r = v.on (s.rejectTable n r) :=
  v.deliver s 0 _ _

theorem Veil.loadRefusal (p : PortId) (a : Addr) (d : Dir) (r : Reason) :
    ((v.on s).modPort p fun pt => { pt with refusal := loadRefusal pt.refusal a d r }) =
      v.on (s.modPort p fun pt => { pt with refusal := loadRefusal pt.refusal a d r }) :=
  v.modPort_beside s (fun _ _ _ => rfl) p

/-- The cycle that a refusal ends shows the same address and direction under the veil. -/
theorem Veil.on_cycle_some {p : PortId} {c : Cycle} (h : s.ports[p].cycle = some c) :
    ∃ d, (v.on s).ports[p].cycle = some d ∧ d.addr = c.addr ∧ d.dir = c.dir := by
  rw [Veil.on_cycle, h]
  split
  · exact ⟨_, rfl, v.addr_eq c, v.dir_eq c⟩
  · exact ⟨c, rfl, rfl, rfl⟩

@[simp] theorem Veil.refuse (p : PortId) (r : Reason) : (v.on s).refuse p r = v.on (s.refuse p r) := by
  unfold State.refuse
  cases hc : s.ports[p].cycle with
  | none =>
    have hn : (v.on s).ports[p].cycle = none := by
      rw [Veil.on_cycle, hc]
      exact ite_self none
    rw [hn]
  | some c =>
    obtain ⟨d, hd, ha, hk⟩ := v.on_cycle_some s hc
    rw [hd]
    dsimp only
    rw [ha, hk, Veil.loadRefusal, Veil.deliver, Veil.completeCycle]

/-! ### Lock unit -/

@[simp] theorem Veil.grantLock (l : LockId) (c : Claimant) : (v.on s).grantLock l c = v.on (s.grantLock l c) := rfl
@[simp] theorem Veil.queueLock (l : LockId) (c : Claimant) : (v.on s).queueLock l c = v.on (s.queueLock l c) := rfl
@[simp] theorem Veil.dropWaiters (l : LockId) (out : Claimant → Bool) :
    (v.on s).dropWaiters l out = v.on (s.dropWaiters l out) := rfl

@[simp] theorem Veil.announceGrant (l : LockId) (c : Claimant) : (v.on s).announceGrant l c = v.on (s.announceGrant l c) := by
  cases c with
  | port p => exact v.deliver s p _ _
  | chan c => rfl

@[simp] theorem Veil.releaseLock (l : LockId) : (v.on s).releaseLock l = v.on (s.releaseLock l) := by
  cases h : s.locks[l].waiters <;> simp only [State.releaseLock, on_locks, h, modLock, grantLock, announceGrant]

theorem Veil.readLock (wait : Bool) (p : PortId) (l : LockId) :
    (v.on s).readLock wait p l = Prod.map v.on id (s.readLock wait p l) := by
  cases h : s.locks[l].holder with
  | none => simp only [State.readLock, on_locks, h, grantLock, Prod.map_apply, id]
  | some c =>
    simp only [State.readLock, on_locks, h, queueLock, apply_ite (Prod.map v.on id), Prod.map_apply, id]
    rfl

@[simp] theorem Veil.writeLock (p : PortId) (l : LockId) : (v.on s).writeLock p l = v.on (s.writeLock p l) := by
  simp only [State.writeLock, on_locks, releaseLock, dropWaiters, completeWrite, refuse, apply_ite v.on]

@[simp] theorem Veil.acquireForChan (c : ChanId) (l : LockId) : (v.on s).acquireForChan c l = v.on (s.acquireForChan c l) := by
  cases h : s.locks[l].holder <;> simp only [State.acquireForChan, on_locks, h, grantLock, queueLock, modChan]

@[simp] theorem Veil.releaseForChan (c : ChanId) (l : LockId) : (v.on s).releaseForChan c l = v.on (s.releaseForChan c l) := by
  simp only [State.releaseForChan, on_locks, releaseLock, dropWaiters, apply_ite v.on]

/-! ### Ring engine -/

@[simp] theorem Veil.openingCond (r : RingId) : (v.on s).openingCond r = s.openingCond r := rfl

@[simp] theorem Veil.issueRing (r : RingId) (q : Post) (d : Dir) (a : Addr) :
    (v.on s).issueRing r q d a = v.on (s.issueRing r q d a) := by
  cases h : q.who with
  | port p => simp only [State.issueRing, h, modRing, modReq, v.setWait, ne_eq, reduceCtorEq, not_false_eq_true]
  | chan c => simp only [State.issueRing, h, modRing]

@[simp] theorem Veil.issuePost (r : RingId) (q : Post) : (v.on s).issuePost r q = v.on (s.issuePost r q) :=
  v.issueRing s r q _ _

@[simp] theorem Veil.openPost (r : RingId) (q : Post) : (v.on s).openPost r q = v.on (s.openPost r q) := by
  cases h : q.who with
  | port p =>
    simp only [State.openPost, h, modRing, on_rings, issuePost, apply_ite v.on, v.setWait, ne_eq, reduceCtorEq,
      not_false_eq_true]
  | chan c => simp only [State.openPost, h, modRing, on_rings, issuePost, apply_ite v.on]

@[simp] theorem Veil.unstall (q : Post) : (v.on s).unstall q = v.on (s.unstall q) := by
  cases h : q.who <;> simp only [State.unstall, h, modChan, apply_ite v.on]

@[simp] theorem Veil.openHead (r : RingId) : (v.on s).openHead r = v.on (s.openHead r) := by
  cases h : s.rings[r].stall <;>
    simp only [State.openHead, openingCond, on_rings, h, modRing, unstall, openPost, apply_ite v.on]

@[simp] theorem Veil.joinStall (r : RingId) (q : Post) : (v.on s).joinStall r q = v.on (s.joinStall r q) := by
  cases h : q.who with
  | port p => simp only [State.joinStall, h, modRing, on_recs, v.setWait, ne_eq, reduceCtorEq, not_false_eq_true]
  | chan c => simp only [State.joinStall, h, modRing, modChan, apply_ite v.on]

@[simp] theorem Veil.dropAssembly (c : Claimant) (r : RingId) : (v.on s).dropAssembly c r = v.on (s.dropAssembly c r) := by
  simp only [State.dropAssembly, modRing, on_rings, openHead, apply_ite v.on]

@[simp] theorem Veil.closeAssembly (c : ChanId) (r : RingId) : (v.on s).closeAssembly c r = v.on (s.closeAssembly c r) := by
  simp only [State.closeAssembly, modRing, on_rings, dropAssembly, apply_ite v.on]

@[simp] theorem Veil.closeAssemblies (c : ChanId) : (v.on s).closeAssemblies c = v.on (s.closeAssemblies c) :=
  v.foldl (fun s r => v.closeAssembly s c r) _ s

/-! ### Ends of runs -/

@[simp] theorem Veil.deliverDone (c : ChanId) (st : Status) : (v.on s).deliverDone c st = v.on (s.deliverDone c st) := by
  cases h : s.chans[c].owner <;> simp only [State.deliverDone, on_chans, h, deliver]

@[simp] theorem Veil.withdrawFromRings (c : ChanId) : (v.on s).withdrawFromRings c = v.on (s.withdrawFromRings c) := by
  cases h : s.chans[c].feedRing <;> simp only [State.withdrawFromRings, on_chans, h, modRing, closeAssemblies]

@[simp] theorem Veil.leaveLock (c : ChanId) : (v.on s).leaveLock c = v.on (s.leaveLock c) := by
  cases h : s.chans[c].desc.lock <;> simp only [State.leaveLock, on_chans, h, releaseForChan]

@[simp] theorem Veil.finishLockFree (c : ChanId) : (v.on s).finishLockFree c = v.on (s.finishLockFree c) := by
  have hw := v.on_waits s 0 (w := .lockFree c) nofun nofun
  simp only [State.finishLockFree, hw, completeWrite, apply_ite v.on]

@[simp] theorem Veil.endRun (c : ChanId) (st : Status) : (v.on s).endRun c st = v.on (s.endRun c st) := by
  simp only [State.endRun, modChan, withdrawFromRings, leaveLock, deliverDone, finishLockFree]

@[simp] theorem Veil.leaveQueue (c : ChanId) : (v.on s).leaveQueue c = v.on (s.leaveQueue c) := by
  cases h : s.chans[c].feedRing <;> simp only [State.leaveQueue, on_chans, h, leaveLock, ← apply_ite v.on, modRing]

@[simp] theorem Veil.chanPresented (c : ChanId) : (v.on s).chanPresented c = s.chanPresented c := rfl

@[simp] theorem Veil.stopRun (c : ChanId) (st : Status) : (v.on s).stopRun c st = v.on (s.stopRun c st) := by
  simp only [State.stopRun, chanPresented, leaveQueue, modChan, endRun, apply_ite v.on]

@[simp] theorem Veil.stopChan (c : ChanId) (st : Status) : (v.on s).stopChan c st = v.on (s.stopChan c st) := by
  simp only [State.stopChan, on_chans, stopRun, apply_ite v.on]

@[simp] theorem Veil.detachChan (c : ChanId) : (v.on s).detachChan c = v.on (s.detachChan c) := rfl

@[simp] theorem Veil.endRunByReset (c : ChanId) (st : Status) : (v.on s).endRunByReset c st = v.on (s.endRunByReset c st) := by
  simp only [State.endRunByReset, modChan, closeAssemblies, leaveLock, deliverDone]

@[simp] theorem Veil.stopByReset (c : ChanId) : (v.on s).stopByReset c = v.on (s.stopByReset c) := by
  simp only [State.stopByReset, on_chans, detachChan, endRunByReset, apply_ite v.on]

/-! ### Take-up and ring reset -/

@[simp] theorem Veil.refuseFull (r : RingId) (p : PortId) : (v.on s).refuseFull r p = v.on (s.refuseFull r p) := by
  simp only [State.refuseFull, on_recs, deliver, refuse]

@[simp] theorem Veil.takeUpPost (r : RingId) (q : Post) : (v.on s).takeUpPost r q = v.on (s.takeUpPost r q) := by
  cases h : q.who <;> simp only [State.takeUpPost, h, on_recs, on_rings, openingCond, refuse, stopChan, issuePost, openPost,
    joinStall, refuseFull, apply_ite v.on]

@[simp] theorem Veil.takeUpTake (r : RingId) (p : PortId) : (v.on s).takeUpTake r p = v.on (s.takeUpTake r p) := by
  cases h : s.rings[r].takeAsm <;>
    simp only [State.takeUpTake, on_recs, on_rings, h, refuse, issueRing, modRing, apply_ite v.on]

@[simp] theorem Veil.takeUp (r : RingId) (i : HoldItem) : (v.on s).takeUp r i = v.on (s.takeUp r i) := by
  cases i with
  | post q => exact v.takeUpPost s r q
  | take p => exact v.takeUpTake s r p

@[simp] theorem Veil.holdWait (r : RingId) (i : HoldItem) : (v.on s).holdWait r i = v.on (s.holdWait r i) := by
  cases i with
  | take p => exact v.setWait s p nofun
  | post q =>
    cases h : q.who with
    | port p => simp only [State.holdWait, h, v.setWait, ne_eq, reduceCtorEq, not_false_eq_true]
    | chan c => simp only [State.holdWait, h]

@[simp] theorem Veil.ringArrive (r : RingId) (i : HoldItem) : (v.on s).ringArrive r i = v.on (s.ringArrive r i) := by
  simp only [State.ringArrive, on_rings, modRing, holdWait, takeUp, apply_ite v.on]

theorem Veil.takeUpHold (r : RingId) : ∀ (n : Nat) (s : State), State.takeUpHold r n (v.on s) = v.on (State.takeUpHold r n s)
  | 0, _ => rfl
  | n + 1, s => by
    cases h : s.rings[r].hold <;>
      simp only [State.takeUpHold, on_rings, h, modRing, takeUp, Veil.takeUpHold r n, apply_ite v.on]

@[simp] theorem Veil.resumeRing (r : RingId) : (v.on s).resumeRing r = v.on (s.resumeRing r) := by
  cases h : s.rings[r].awaiting <;>
    simp only [State.resumeRing, on_rings, h, modRing, issuePost, v.takeUpHold, apply_ite v.on]

@[simp] theorem Veil.resetClaimant (q : Post) : (v.on s).resetClaimant q = v.on (s.resetClaimant q) := by
  cases h : q.who <;> simp only [State.resetClaimant, h, refuse, stopByReset]

@[simp] theorem Veil.resetAwaiting (q : Option Post) : (v.on s).resetAwaiting q = v.on (s.resetAwaiting q) := by
  cases q with
  | none => rfl
  | some q => cases h : q.who <;> simp only [State.resetAwaiting, h, refuse]

@[simp] theorem Veil.resetOwner (a : Option PostAsm) : (v.on s).resetOwner a = v.on (s.resetOwner a) := by
  cases a with
  | none => rfl
  | some m => cases h : m.owner <;> simp only [State.resetOwner, h, on_chans, stopByReset, apply_ite v.on]

@[simp] theorem Veil.resetRing (r : RingId) : (v.on s).resetRing r = v.on (s.resetRing r) := by
  simp only [State.resetRing, on_rings, modRing, resetAwaiting]
  rw [v.foldl fun s (e : StallEntry) => v.resetClaimant s e.post, resetOwner]

/-! ### Transfer engine -/

@[simp] theorem Veil.descOk (p : PortId) (l : Option LockId) (d : Desc) : (v.on s).descOk p l d = s.descOk p l d := rfl

@[simp] theorem Veil.startChan (p : PortId) (c : ChanId) : (v.on s).startChan p c = v.on (s.startChan p c) := by
  cases h : s.chans[c].desc.lock <;>
    simp only [State.startChan, on_chans, h, descOk, refuse, modChan, acquireForChan, completeWrite, apply_ite v.on]

@[simp] theorem Veil.abortChan (p : PortId) (c : ChanId) : (v.on s).abortChan p c = v.on (s.abortChan p c) := by
  simp only [State.abortChan, on_chans, stopChan, completeWrite, refuse, apply_ite v.on]

@[simp] theorem Veil.writeChan (p : PortId) (c : ChanId) (k : Nat) (w : Word) :
    (v.on s).writeChan p c k w = v.on (s.writeChan p c k w) := by
  simp only [State.writeChan, on_chans, startChan, abortChan, modChan, completeWrite, refuse, apply_ite v.on]

/-! ### Table unit -/

@[simp] theorem Veil.commitWin (w : WinId) (d : Word) : (v.on s).commitWin w d = v.on (s.commitWin w d) := by
  have hr (e : Vector Word 3) (c : WinCtl) : (v.on s).winReject w e c = s.winReject w e c := rfl
  cases h : s.winReject w (candidate s.windows[w].data s.windows[w].staged) (winCtlOf d) <;>
    simp only [State.commitWin, on_windows, hr, h, modWin, rejectTable, apply_ite v.on]

@[simp] theorem Veil.installRing (r : RingId) (d : Vector Word 7) (en : Bool) :
    (v.on s).installRing r d en = v.on (s.installRing r d en) := by
  simp only [State.installRing, resetRing, modRec]

@[simp] theorem Veil.commitRing (r : RingId) (d : Word) : (v.on s).commitRing r d = v.on (s.commitRing r d) := by
  have hr (e : Vector Word 7) : (v.on s).ringReject r e = s.ringReject r e := rfl
  cases h : s.ringReject r (candidate s.recs[r].data s.recs[r].staged) <;>
    simp only [State.commitRing, on_recs, hr, h, modRec, rejectTable, installRing, apply_ite v.on]

@[simp] theorem Veil.writeBinding (p : PortId) (i : SlotId) (d : Word) :
    (v.on s).writeBinding p i d = v.on (s.writeBinding p i d) := by
  have hc : (v.on s).checkBinding p i d = s.checkBinding p i d := rfl
  cases h : s.checkBinding p i d <;> simp only [State.writeBinding, hc, h, State.setBinding, modCtl, rejectTable]

@[simp] theorem Veil.applyTable (k : TableWord) (d : Word) : (v.on s).applyTable k d = v.on (s.applyTable k d) := by
  cases k with
  | winCtl w => exact v.commitWin s w d
  | ringCtl r => exact v.commitRing s r d
  | binding p i => exact v.writeBinding s p i d
  | _ => rfl

/-! ### Teardown, and the forcing of a lock -/

@[simp] theorem Veil.abandonCycle (p : PortId) : (v.on s).abandonCycle p = v.on (s.abandonCycle p) := by
  have hp : (v.on s).modPort p (·.abandonCycle) = v.on (s.modPort p (·.abandonCycle)) := by
    refine v.modPort s (fun pt => ?_) p
    unfold Veil.onPort Port.abandonCycle
    cases pt.cycle with
    | none => simp only [v.undriven]
    | some c => simp only [v.undriven, Option.isSome_some]
  unfold State.abandonCycle
  rw [hp]
  rfl

@[simp] theorem Veil.torn (p : PortId) : (v.on s).torn p = s.torn p := by
  funext c
  cases c <;> rfl

@[simp] theorem Veil.ringGranted (r : RingId) : (v.on s).ringGranted r = s.ringGranted r := rfl

@[simp] theorem Veil.tearLocks (p : PortId) : (v.on s).tearLocks p = v.on (s.tearLocks p) := by
  simp only [State.tearLocks, torn, on_locks]
  rw [v.foldl fun u l => v.dropWaiters u l _, v.foldl fun u l => by simp only [releaseLock, apply_ite v.on]]

@[simp] theorem Veil.tearRings (p : PortId) : (v.on s).tearRings p = v.on (s.tearRings p) := by
  simp only [State.tearRings, torn, ringGranted, on_rings]
  rw [v.foldl fun u r => v.modRing u r _,
    v.foldl fun u r => by simp only [State.settleRing, openHead, resumeRing, apply_ite v.on]]

@[simp] theorem Veil.tearChans (p : PortId) : (v.on s).tearChans p = v.on (s.tearChans p) :=
  v.foldl (fun u c => by simp only [on_chans, stopChan, apply_ite v.on]) _ s

theorem Veil.tornDown (p : PortId) (cause : TeardownCause) :
    (v.on s).modPort p (·.tornDown cause) = v.on (s.modPort p (·.tornDown cause)) :=
  v.modPort_beside s (fun _ _ _ => rfl) p

@[simp] theorem Veil.startTeardown (p : PortId) (cause : TeardownCause) :
    (v.on s).startTeardown p cause = v.on (s.startTeardown p cause) := by
  simp only [State.startTeardown, tornDown, abandonCycle, ← apply_ite v.on, modCtl, tearLocks, tearRings, tearChans]

@[simp] theorem Veil.endDrop (p : PortId) : (v.on s).endDrop p = v.on (s.endDrop p) := by
  have hw := v.on_waits s 0 (w := .control p) nofun nofun
  simp only [State.endDrop, hw, on_state, completeWrite, abandonCycle, apply_ite v.on]

theorem Veil.afterTeardown (p : PortId) :
    (v.on s).modPort p (·.afterTeardown) = v.on (s.modPort p (·.afterTeardown)) :=
  v.modPort_beside s (fun _ _ _ => rfl) p

@[simp] theorem Veil.finishTeardown (p : PortId) : (v.on s).finishTeardown p = v.on (s.finishTeardown p) := by
  have hw : (v.on s).teardownWaits p = s.teardownWaits p := rfl
  unfold State.finishTeardown
  rw [on_teardown, hw]
  simp only [afterTeardown, endDrop, apply_ite v.on]

@[simp] theorem Veil.tearDown (p : PortId) (cause : TeardownCause) : (v.on s).tearDown p cause = v.on (s.tearDown p cause) := by
  simp only [State.tearDown, startTeardown, finishTeardown]

@[simp] theorem Veil.forceLock (l : LockId) (forced : Bool) : (v.on s).forceLock l forced = v.on (s.forceLock l forced) := by
  cases h : s.locks[l].holder with
  | none => simp only [State.forceLock, on_locks, h]
  | some x => cases x <;> simp only [State.forceLock, on_locks, h, deliver, releaseLock, stopChan]

/-! ### Access path -/

@[simp] theorem Veil.toMemory (p : PortId) (k : AccKind) (a : Addr) (g : Option WatchTag) :
    (v.on s).toMemory p k a g = v.on (s.toMemory p k a g) := by
  simp only [State.toMemory, modReq, v.setWait, ne_eq, reduceCtorEq, not_false_eq_true]

/-- Whether a slot is pending depends on no more of a port than its state (R39). -/
theorem Veil.slotPending : (v.on s).slotPending = s.slotPending := by
  funext p i
  unfold State.slotPending
  rw [on_state]
  rfl

theorem Veil.selected (p : PortId) : (v.on s).selected p = s.selected p := by
  have he : (v.on s).eligible = s.eligible := by
    unfold State.eligible
    rw [slotPending]
    rfl
  have hat : (v.on s).eligibleAt = s.eligibleAt := by
    unfold State.eligibleAt
    rw [he]
    rfl
  unfold State.selected
  rw [hat]
  rfl

theorem Veil.takeAnswer (p : PortId) : (v.on s).takeAnswer p = s.takeAnswer p := by
  unfold State.takeAnswer
  rw [selected]
  rfl

@[simp] theorem Veil.takeNotice (p : PortId) : (v.on s).takeNotice p = v.on (s.takeNotice p) := by
  cases h : s.selected p with
  | none => simp only [State.takeNotice, selected, h]
  | some i =>
    cases hb : s.ctls[p].slots[i].binding with
    | none => simp only [State.takeNotice, selected, h, on_ctls, hb]
    | some b =>
      simp only [State.takeNotice, selected, h, on_ctls, hb]
      rfl

@[simp] theorem Veil.readPortWord (p : PortId) (k : Fin 16) : (v.on s).readPortWord p k = v.on (s.readPortWord p k) := by
  have hb : (v.on s).readRefusalB p = v.on (s.readRefusalB p) := by
    have hr : (v.on s).modPort p (fun pt => { pt with refusal := none }) = v.on (s.modPort p fun pt => { pt with
        refusal := none }) := v.modPort_beside s (fun _ _ _ => rfl) p
    simp only [State.readRefusalB, hr, on_refusal, completeRead]
  have hi : (v.on s).readIdent p = v.on (s.readIdent p) := by
    have hr : (v.on s).modPort p (fun pt => { pt with dropped := false }) = v.on (s.modPort p fun pt => { pt with
        dropped := false }) := v.modPort_beside s (fun _ _ _ => rfl) p
    simp only [State.readIdent, hr, on_dropped, on_kind, completeRead]
  have hf : (v.on s).readFaultB p = v.on (s.readFaultB p) := v.completeRead { s with fault := none } p _
  fin_cases k <;>
    simp only [State.readPortWord, State.readTake, State.readPeek, takeNotice, takeAnswer, slotPending, completeRead, on_ctls,
      on_fault, on_refusal, refuse, hb, hi, hf]

/-! ### CONTROL and the other written words -/

@[simp] theorem Veil.doControl (c : Control) : (v.on s).doControl c = v.on (s.doControl c) := by
  cases c with
  | dropPort n =>
    simp only [State.doControl, State.doDropPort, on_state, tearDown, completeWrite, apply_ite v.on, v.setWait, ne_eq,
      reduceCtorEq, not_false_eq_true]
  | ringReset r =>
    simp only [State.doControl, State.doRingReset, on_recs, resetRing, ← apply_ite v.on, completeWrite]
  | lockFree l =>
    have hs (t : State) : (v.on s).stopsPending l (v.on t) = s.stopsPending l t := rfl
    cases h : s.stopsPending l (s.forceLock l true) <;>
      simp only [State.doControl, State.doLockFree, forceLock, hs, h, completeWrite, v.setWait, ne_eq, reduceCtorEq,
        not_false_eq_true]
  | clearFault => exact v.completeWrite { s with fault := none } 0

@[simp] theorem Veil.writeEnd (p : PortId) (w : Word) : (v.on s).writeEnd p w = v.on (s.writeEnd p w) := by
  have hu : (v.on s).endUrgent p = v.on (s.endUrgent p) := by
    cases h : mostUrgent s.ctls[p].inService <;>
      simp only [State.endUrgent, on_ctls, h, modCtl, completeWrite, refuse]
  unfold State.writeEnd
  split_ifs <;> simp only [hu, State.endSlot, on_ctls, modCtl, completeWrite, refuse, apply_ite v.on]

@[simp] theorem Veil.writePortWord (p : PortId) (k : Fin 16) (w : Word) :
    (v.on s).writePortWord p k w = v.on (s.writePortWord p k w) := by
  have ht : (v.on s).writeThreshold p w = v.on (s.writeThreshold p w) := by
    unfold State.writeThreshold
    split_ifs <;> simp only [modCtl, completeWrite, refuse]
  have hg : (v.on s).writeSignal p w = v.on (s.writeSignal p w) := by
    unfold State.writeSignal
    split_ifs <;> simp only [deliver, completeWrite, refuse]
  have hc : (v.on s).writeControl p w = v.on (s.writeControl p w) := by
    cases h : controlOf w <;> simp only [State.writeControl, h, doControl, refuse]
  fin_cases k <;>
    simp only [State.writePortWord, writeEnd, State.writePending, State.writeMask, State.writeMaskClear, modCtl, completeWrite,
      refuse, ht, hg, hc]

@[simp] theorem Veil.portWindow (p : PortId) (k : Fin 16) (d : Dir) (w : Word) :
    (v.on s).portWindow p k d w = v.on (s.portWindow p k d w) := by
  cases d <;> simp only [State.portWindow, refuse, readPortWord, writePortWord, apply_ite v.on]

@[simp] theorem Veil.tableCycle (p : PortId) (o : Nat) (d : Dir) (a : Addr) (w : Word) :
    (v.on s).tableCycle p o d a w = v.on (s.tableCycle p o d a w) := by
  cases d <;> simp only [State.tableCycle, applyTable, toMemory, refuse, apply_ite v.on]

/-! ### Windows -/

@[simp] theorem Veil.ringCycle (p : PortId) (r : RingId) (o : Nat) (d : Dir) (w : Word) :
    (v.on s).ringCycle p r o d w = v.on (s.ringCycle p r o d w) := by
  have hf : (v.on s).freeCount r = s.freeCount r := rfl
  cases d <;>
    simp only [State.ringCycle, State.readFree, State.portPost, State.portTake, hf, on_recs, ringArrive, completeRead, refuse,
      apply_ite v.on]

@[simp] theorem Veil.lockCycle (p : PortId) (link o : Nat) (d : Dir) :
    (v.on s).lockCycle p link o d = v.on (s.lockCycle p link o d) := by
  cases d <;>
    simp only [State.lockCycle, State.lockRead, readLock, Prod.map_fst, Prod.map_snd, id, completeRead, writeLock]

@[simp] theorem Veil.chanCycle (p : PortId) (link o : Nat) (d : Dir) (w : Word) :
    (v.on s).chanCycle p link o d w = v.on (s.chanCycle p link o d w) := by
  cases d <;> simp only [State.chanCycle, on_chans, completeRead, writeChan]

@[simp] theorem Veil.rightfulCycle (p : PortId) (w : WinId) (d : Dir) (a : Addr) (x : Word) :
    (v.on s).rightfulCycle p w d a x = v.on (s.rightfulCycle p w d a x) := by
  have ht (n : Nat) : (v.on s).watchTag w n = s.watchTag w n := rfl
  have hw : (v.on s).watchCycle p w d a x = v.on (s.watchCycle p w d a x) := by
    cases d <;> simp only [State.watchCycle, ht, toMemory]
  cases h : s.windows[w].ctl.winKind with
  | none => simp only [State.rightfulCycle, on_windows, h, toMemory]
  | some k =>
    cases k <;> simp only [State.rightfulCycle, on_windows, h, toMemory, hw, ringCycle, lockCycle, chanCycle]

@[simp] theorem Veil.windowCycle (p : PortId) (w : WinId) (d : Dir) (a : Addr) (x : Word) :
    (v.on s).windowCycle p w d a x = v.on (s.windowCycle p w d a x) := by
  have ht : (v.on s).takeWordWrite w d a = s.takeWordWrite w d a := rfl
  simp only [State.windowCycle, ht, on_windows, refuse, rightfulCycle, apply_ite v.on]

/-- A cycle that reaches the access path goes alike under the veil (R5). -/
theorem Veil.arrive (p : PortId) (d : Dir) (a : Addr) (x : Word) : (v.on s).arrive p d a x = v.on (s.arrive p d a x) := by
  have hc : (v.on s).classify a = s.classify a := rfl
  cases h : s.classify a <;>
    simp only [State.arrive, hc, h, portWindow, tableCycle, refuse, windowCycle, toMemory]

end

end Sys2Proof.Machine

/-! PROOFS. The held cycles at the end of start-up (R171): which of them reach the access path, in which order, and what becomes
of one whose strobe has been negated (O9). -/

namespace Sys2Proof.Machine

/-! ## Two veils -/

/-- The strobe of port `p` is negated (R2). -/
def Veil.negated (p : PortId) : Veil where
  port := p
  cycle c := { c with strobe := false }
  pd _ := none
  dir_eq _ := rfl
  addr_eq _ := rfl
  moved _ _ _ := rfl
  waits _ _ _ _ := Iff.rfl
  read _ _ := rfl
  undriven := rfl

theorem Veil.negated_on (p : PortId) (s : State) : (Veil.negated p).on s = s.modPort p (·.strobeNegated) := by
  refine State.modPort_congr _ _ ?_
  unfold Veil.onPort Port.strobeNegated
  cases s.ports[p].cycle <;> rfl

/-- The cycle without the mark that it is held unclassified (R1). -/
def Cycle.classified (c : Cycle) : Cycle := if c.wait = .unclassified then { c with wait := .arriving } else c

theorem Cycle.classified_of {c : Cycle} (h : c.wait ≠ .unclassified) : c.classified = c := if_neg h

theorem Cycle.classified_eq (c : Cycle) : ∃ w, c.classified = { c with wait := w } := by
  unfold Cycle.classified
  split
  · exact ⟨_, rfl⟩
  · exact ⟨c.wait, rfl⟩

theorem Cycle.classified_wait (c : Cycle) : c.classified.wait ≠ .unclassified := by
  unfold Cycle.classified
  split
  · exact nofun
  · assumption

/-- The cycle of port `p` is not held unclassified. -/
def Veil.classified (p : PortId) : Veil where
  port := p
  cycle := Cycle.classified
  pd := id
  dir_eq c := by obtain ⟨w, e⟩ := c.classified_eq; rw [e]
  addr_eq c := by obtain ⟨w, e⟩ := c.classified_eq; rw [e]
  moved c w hw := by
    obtain ⟨x, e⟩ := c.classified_eq
    rw [Cycle.classified_of (c := { c with wait := w }) hw, e]
  waits c w hw ha := by
    unfold Cycle.classified
    split
    · next h => exact ⟨fun e => absurd e.symm ha, fun e => absurd (e.symm.trans h) hw⟩
    · exact Iff.rfl
  read c w := by obtain ⟨x, e⟩ := c.classified_eq; rw [e]; rfl
  undriven := rfl

theorem Veil.classified_unclassifiedAt (p : PortId) (s : State) : ((Veil.classified p).on s).unclassifiedAt p = false := by
  unfold State.unclassifiedAt
  rw [Veil.on_cycle, if_pos (show (Veil.classified p).port = p from rfl)]
  cases s.ports[p].cycle with
  | none => rfl
  | some c => exact decide_eq_false c.classified_wait

theorem Veil.classified_on {s : State} {p : PortId} (h : s.unclassifiedAt p = false) : (Veil.classified p).on s = s := by
  have hp : (Veil.classified p).onPort s.ports[p] = s.ports[p] := by
    cases hc : s.ports[p].cycle with
    | none => exact Veil.onPort_none _ hc
    | some c =>
      rw [State.unclassifiedAt_of_cycle hc] at h
      have hcl : (Veil.classified p).cycle c = c := Cycle.classified_of (of_decide_eq_false h)
      rw [Veil.onPort_some _ hc, hcl, ← hc]
  show { s with ports := upd s.ports p (Veil.classified p).onPort } = s
  rw [upd_id _ _ _ hp]

/-! ## The held cycles one after another -/

/-- What reaches the access path leaves no other port's cycle unclassified that was not (R5). -/
theorem State.arriveHeld_classified {s : State} {p q : PortId} (hq : q ≠ p) (h : s.unclassifiedAt q = false) :
    (s.arriveHeld p).unclassifiedAt q = false := by
  unfold State.arriveHeld
  split
  · exact h
  · next c hc =>
    split
    · have hs : (s.setWait p .arriving).unclassifiedAt q = false := by
        have hp : (s.setWait p .arriving).ports[q] = s.ports[q] := State.modPort_port_other _ _ hq.symm
        unfold State.unclassifiedAt
        rw [hp]
        exact h
      rw [← Veil.classified_on hs, Veil.arrive]
      exact Veil.classified_unclassifiedAt q _
    · exact h

/-- Where one port alone holds a cycle, its arrival is all that happens. -/
theorem State.foldl_arriveHeld_one {s : State} {p : PortId} {l : List PortId} (hd : l.Nodup) (hm : p ∈ l)
    (h : ∀ q : PortId, q ≠ p → s.unclassifiedAt q = false) :
    l.foldl (fun (u : State) p => u.arriveHeld p) s = s.arriveHeld p := by
  induction l with
  | nil => exact nomatch hm
  | cons a l ih =>
    obtain ⟨ha, hl⟩ := List.nodup_cons.mp hd
    rw [List.foldl_cons]
    by_cases e : a = p
    · subst e
      exact State.foldl_arriveHeld_none fun q hq =>
        have hqa : q ≠ a := fun e => ha (e ▸ hq)
        State.arriveHeld_classified hqa (h q hqa)
    · rw [State.arriveHeld_of_classified (h a e)]
      exact ih hl (List.mem_of_ne_of_mem (Ne.symm e) hm)

/-- Start-up ends with one held cycle, which is then classified (R171). -/
theorem State.endStartUp_one {s : State} {p : PortId} (h : ∀ q : PortId, q ≠ p → ¬s.heldOn q) :
    s.endStartUp = s.started.arriveHeld p := by
  have hc (q : PortId) (hq : q ≠ p) : s.started.unclassifiedAt q = false := State.started_classified (h q hq)
  rw [State.endStartUp_eq]
  unfold State.arriveAll
  rw [if_pos (State.heldCount_lt_two hc)]
  exact State.foldl_arriveHeld_one (by decide) (mem_allPorts p) hc

/-- Every number below 24 names an order of the four ports (log 10). -/
theorem portOrder_perm (k : Fin 24) : (Config.portOrder k.val).Perm [0, 1, 2, 3] := by
  revert k
  decide

/-- Start-up ends with several held cycles, which are classified in an order that is free (R171, log 10). -/
theorem State.endStartUp_many {s : State} {p q : PortId} (hpq : p ≠ q) (hp : s.heldOn p) (hq : s.heldOn q) :
    ∃ l : List PortId, l.Perm [0, 1, 2, 3] ∧
      s.endStartUp = l.foldl (fun u r => u.arriveHeld r) { s.started with freeUse := s.freeUse + 1 } := by
  have hn : ¬s.started.heldCount < 2 := Nat.not_lt.mpr
    (State.two_le_heldCount hpq ((s.started_unclassifiedAt p).mpr hp) ((s.started_unclassifiedAt q).mpr hq))
  refine ⟨_, portOrder_perm (Config.startUpOrder s.freeUse), ?_⟩
  rw [State.endStartUp_eq]
  unfold State.arriveAll
  rw [if_neg hn]
  rfl

/-- The last swept word with a parity error is reported and rejected, and nothing of it is stored (R167, R175). -/
theorem State.takeSwept_lastBad (s : State) {c : MemCell} (h : c.bad = true) :
    s.takeSwept (sweepOffset 275) c = (s.reportParity 0x3FEDF#18 8).deliver 0 .table 0xA0DF#16 := by
  rw [State.takeSwept_bad _ _ h]
  unfold State.rejectTable
  rw [tableDetail_parity (sweepOffset_lt (by decide))]
  rfl

/-- The last sweep read ends the start-up (R175). -/
theorem State.sweepDone_last {s t : State} {a : Addr}
    (h : ({ s with inProg := none } : State).takeSwept (sweepOffset 275) (s.cellAt a) = t) :
    s.sweepDone 275 a 0 = t.endStartUp := by
  rw [State.sweepDone_eq h, if_neg (by decide)]

/-! ## A held cycle reaches the access path (R1, R2, R171) -/

theorem State.arriveHeld_up {s : State} {p : PortId} {c : Cycle} (hc : s.ports[p].cycle = some c)
    (hu : s.ports[p].state = .up) (hw : c.wait = .unclassified) :
    s.arriveHeld p = (s.setWait p .arriving).arrive p c.dir c.addr c.data := by
  unfold State.arriveHeld
  rw [hc]
  exact if_pos ⟨hu, hw⟩

theorem State.arriveHeld_stays {s : State} {p : PortId} {c : Cycle} (hc : s.ports[p].cycle = some c)
    (h : s.ports[p].state ≠ .up ∨ c.wait ≠ .unclassified) : s.arriveHeld p = s := by
  unfold State.arriveHeld
  rw [hc]
  exact if_neg fun e => h.elim (fun k => k e.1) fun k => k e.2

/-- The held cycle of a port, presented anew on the port without it (R1). -/
theorem exec_presentedAnew {s : State} {p : PortId} (hu : s.ports[p].state = .up) (c : Cycle) :
    exec (.cycleHeldOnOffPort p c.dir c.addr c.data) (s.modPort p fun pt => { pt with cycle := none }) =
      .next ((s.taking p c.dir c.addr c.data).arrive p c.dir c.addr c.data) := by
  have hr : (s.modPort p fun pt => { pt with cycle := none }).ready p := by
    rw [State.ready, State.modPort_port_same]
    exact ⟨hu, rfl⟩
  have ht : (s.modPort p fun pt => { pt with cycle := none }).taking p c.dir c.addr c.data =
      s.taking p c.dir c.addr c.data := State.modPort_modPort _ _ _ _
  rw [exec_ready hr rfl, ht]

section
variable {s : State} {p : PortId} {c : Cycle} (hc : s.ports[p].cycle = some c) (hd : s.ports[p].pd = none)
include hc hd

/-- A cycle whose strobe is asserted reaches the access path as if presented then. -/
theorem State.taking_of_held (hs : c.strobe = true) : s.taking p c.dir c.addr c.data = s.setWait p .arriving := by
  refine State.modPort_congr _ _ ?_
  unfold Port.accept
  rw [hc, ← hs, ← hd]
  rfl

/-- A cycle whose strobe has been negated does so with it negated (R2). -/
theorem State.taking_negated (hs : c.strobe = false) :
    (Veil.negated p).on (s.taking p c.dir c.addr c.data) = s.setWait p .arriving := by
  rw [Veil.negated_on, State.modPort_modPort]
  refine State.modPort_congr _ _ ?_
  unfold Port.accept Port.strobeNegated
  dsimp only
  rw [hc, ← hs, ← hd]
  rfl

end

/-- Settles O9: the end of start-up by how many cycles are held, and a held cycle by its strobe, which no block looks at. -/
theorem endOfStartUp : Obligations.EndOfStartUp := by
  refine ⟨fun i s t a h hi => ?_, fun s p => ⟨fun hc => ?_, fun c hc hn => ?_, fun c hc hu hw hd u he => ?_⟩⟩
  · have key : exec i s = .next t.endStartUp := by
      rcases hi with ⟨rfl, hi, hr, rfl⟩ | ⟨rfl, hi, hb, rfl⟩ | ⟨rfl, hi, hb, rfl⟩
      · rw [exec_clear h hi, State.clearDone_last hr]
        rfl
      · rw [exec_sweep h hi, State.sweepDone_last (State.takeSwept_last _ hb)]
        rfl
      · rw [exec_sweep h hi, State.sweepDone_last (State.takeSwept_lastBad _ hb)]
    rw [key]
    refine ⟨fun hn => ?_, fun p _ hn => ?_, fun p q hpq hp hq => ?_⟩
    · rw [State.endStartUp_none hn]
    · rw [State.endStartUp_one hn]
    · obtain ⟨l, hl, e⟩ := State.endStartUp_many hpq hp hq
      exact ⟨l, hl, congrArg Host.Outcome.next e⟩
  · exact State.arriveHeld_of_classified (State.unclassifiedAt_none hc)
  · exact State.arriveHeld_stays hc hn
  · rw [exec_presentedAnew hu c] at he
    cases he
    rw [State.arriveHeld_up hc hu hw]
    refine ⟨fun hs => ?_, fun hs => ?_⟩
    · rw [State.taking_of_held hc hd hs]
    · show Host.Outcome.next (State.modPort _ p (·.strobeNegated)) = _
      rw [← Veil.negated_on, ← Veil.arrive, State.taking_negated hc hd hs]

end Sys2Proof.Machine

/-! PROOFS. The queue of commands: a step takes its front command (O1), and no command touches it (O3). What is quiet leaves the
queue; the operations that are not quiet are followed here from the table unit up to the commands. -/

namespace Sys2Proof.Machine

/-! ## O1 -/

/-- Settles O1: the front of the queue decides the branch of the step. -/
theorem stepRunsFront : Obligations.StepRunsFront := by
  intro c rest s h
  unfold step
  rw [h]

/-! ## What leaves the queue -/

theorem Quiet.pending {s t : State} (h : Quiet s t) : t.pending = s.pending := by
  obtain ⟨-, -, -, -, -, -, -, -, -, -, -, -, -, hq⟩ := h.config
  exact hq

/-- A fold of operations that leave the queue leaves it. -/
theorem State.foldl_pending {α : Type} {f : State → α → State} (hf : ∀ u a, (f u a).pending = u.pending) (l : List α)
    (s : State) : (l.foldl f s).pending = s.pending :=
  List.foldlRecOn (motive := fun u => u.pending = s.pending) l f rfl fun u hu a _ => (hf u a).trans hu

section
variable (s : State)

theorem State.refuse_pending (p : PortId) (r : Reason) : (s.refuse p r).pending = s.pending :=
  ((Quiet.refl s).refuse p r).pending

theorem State.rejectTable_pending (n : Nat) (r : TableReason) : (s.rejectTable n r).pending = s.pending :=
  ((Quiet.refl s).rejectTable n r).pending

/-! ## Table unit -/

theorem State.commitWin_pending (w : WinId) (v : Word) : (s.commitWin w v).pending = s.pending := by
  unfold State.commitWin
  dsimp only
  repeat' split
  · exact State.rejectTable_pending _ _ _
  · rfl
  · rfl
  · exact State.rejectTable_pending _ _ _

theorem State.installRing_pending (r : RingId) (d : Vector Word 7) (en : Bool) :
    (s.installRing r d en).pending = s.pending := ((Quiet.refl s).resetRing r).pending

theorem State.commitRing_pending (r : RingId) (v : Word) : (s.commitRing r v).pending = s.pending := by
  unfold State.commitRing
  dsimp only
  repeat' split
  · exact State.rejectTable_pending _ _ _
  · exact s.installRing_pending r _ false
  · exact s.installRing_pending r _ true
  · exact State.rejectTable_pending _ _ _

theorem State.writeBinding_pending (p : PortId) (i : SlotId) (v : Word) : (s.writeBinding p i v).pending = s.pending := by
  unfold State.writeBinding
  split
  · rfl
  · exact State.rejectTable_pending _ _ _

theorem State.applyTable_pending (k : TableWord) (v : Word) : (s.applyTable k v).pending = s.pending := by
  cases k with
  | winCtl w => exact s.commitWin_pending w v
  | ringCtl r => exact s.commitRing_pending r v
  | binding p i => exact s.writeBinding_pending p i v
  | header | winData | ringData | lease | plain => rfl

theorem State.damageTable_pending (k : TableWord) : (s.damageTable k).pending = s.pending := by
  cases k <;> rfl

/-! ## Teardowns -/

theorem State.takenDown_pending (p : PortId) (c : TeardownCause) : (s.takenDown p c).pending = s.pending := by
  unfold State.takenDown
  split <;> rfl

theorem State.finishTeardown_pending (p : PortId) : (s.finishTeardown p).pending = s.pending := by
  unfold State.finishTeardown
  split
  · exact ((Quiet.refl (s.modPort p (·.afterTeardown))).endDrop p).pending
  · rfl

theorem State.tearDown_pending (p : PortId) (c : TeardownCause) : (s.tearDown p c).pending = s.pending := by
  rw [State.tearDown_eq, State.finishTeardown_pending, ((Quiet.refl _).withdrawn p).pending, State.takenDown_pending]

/-! ## Port window -/

theorem State.takeNotice_pending (p : PortId) : (s.takeNotice p).pending = s.pending := by
  unfold State.takeNotice
  repeat' split
  all_goals rfl

theorem State.readPortWord_pending (p : PortId) (k : Fin 16) : (s.readPortWord p k).pending = s.pending := by
  unfold State.readPortWord
  split
  case h_1 => exact s.takeNotice_pending p
  case h_14 => exact s.refuse_pending p _
  all_goals rfl

theorem State.writeEnd_pending (p : PortId) (v : Word) : (s.writeEnd p v).pending = s.pending := by
  unfold State.writeEnd State.endUrgent State.endSlot
  repeat' split
  · rfl
  · exact s.refuse_pending p _
  · rfl
  · exact s.refuse_pending p _
  · exact s.refuse_pending p _

theorem State.writeThreshold_pending (p : PortId) (v : Word) : (s.writeThreshold p v).pending = s.pending := by
  unfold State.writeThreshold
  split
  · rfl
  · exact s.refuse_pending p _

theorem State.writeSignal_pending (p : PortId) (v : Word) : (s.writeSignal p v).pending = s.pending := by
  unfold State.writeSignal
  split
  · exact ((Quiet.refl s).deliver _ _ _).pending
  · exact s.refuse_pending p _

theorem State.doDropPort_pending (n : PortId) : (s.doDropPort n).pending = s.pending := by
  unfold State.doDropPort
  split
  · exact (s.setWait 0 (.control n)).tearDown_pending n .drop
  · rfl

theorem State.writeControl_pending (p : PortId) (v : Word) : (s.writeControl p v).pending = s.pending := by
  unfold State.writeControl
  split
  · next c _ =>
    cases c with
    | dropPort n => exact s.doDropPort_pending n
    | ringReset r => exact ((Quiet.refl s).doRingReset r).pending
    | lockFree l => exact ((Quiet.refl s).doLockFree l).pending
    | clearFault => rfl
  · exact s.refuse_pending p _

theorem State.writePortWord_pending (p : PortId) (k : Fin 16) (v : Word) :
    (s.writePortWord p k v).pending = s.pending := by
  unfold State.writePortWord
  split
  · exact s.writeEnd_pending p v
  · rfl
  · rfl
  · rfl
  · exact s.writeThreshold_pending p v
  · exact s.writeSignal_pending p v
  · exact s.writeControl_pending p v
  · exact s.refuse_pending p _

theorem State.portWindow_pending (p : PortId) (k : Fin 16) (d : Dir) (v : Word) :
    (s.portWindow p k d v).pending = s.pending := by
  unfold State.portWindow
  repeat' split
  · exact s.refuse_pending p _
  · exact s.refuse_pending p _
  · exact s.readPortWord_pending p k
  · exact s.refuse_pending p _
  · exact s.refuse_pending p _
  · exact s.writePortWord_pending p k v

/-! ## The arrival and the presentation of a cycle -/

theorem State.tableCycle_pending (p : PortId) (o : Nat) (d : Dir) (a : Addr) (v : Word) :
    (s.tableCycle p o d a v).pending = s.pending := by
  unfold State.tableCycle
  repeat' split
  · rfl
  · exact s.applyTable_pending (tableWordOf o) v
  · exact s.refuse_pending p _

theorem State.arrive_pending (p : PortId) (d : Dir) (a : Addr) (v : Word) : (s.arrive p d a v).pending = s.pending := by
  unfold State.arrive
  split
  · exact s.portWindow_pending p _ d v
  · exact s.tableCycle_pending p _ d a v
  · exact s.refuse_pending p _
  · exact ((Quiet.refl s).windowCycle p _ d a v).pending
  · rfl

theorem State.present_pending (p : PortId) (d : Dir) (a : Addr) (v : Word) : (s.present p d a v).pending = s.pending := by
  unfold State.present
  repeat' split
  · rfl
  · rfl
  · rfl
  · exact (s.taking p d a v).arrive_pending p d a v

/-! ## Start-up -/

theorem State.leaveOff_pending (p : PortId) : (s.leaveOff p).pending = s.pending := by
  unfold State.leaveOff
  dsimp only
  split <;> rfl

theorem State.arriveHeld_pending (p : PortId) : (s.arriveHeld p).pending = s.pending := by
  unfold State.arriveHeld
  repeat' split
  · rfl
  · exact (s.setWait p .arriving).arrive_pending p _ _ _
  · rfl

theorem State.arriveAll_pending : s.arriveAll.pending = s.pending := by
  unfold State.arriveAll
  split <;> exact State.foldl_pending State.arriveHeld_pending _ _

theorem State.endStartUp_pending : s.endStartUp.pending = s.pending :=
  (State.arriveAll_pending _).trans (State.foldl_pending State.leaveOff_pending allPorts { s with part := .running })

theorem State.warmReset_pending : s.warmReset.pending = s.pending := by
  rw [State.warmReset_eq]

theorem State.powerDown_pending : s.powerDown.pending = s.pending := by
  unfold State.powerDown
  split <;> rfl

theorem State.powerUp_pending : s.powerUp.pending = s.pending := by
  unfold State.powerUp
  split <;> rfl

theorem State.rstnFalls_pending : s.rstnFalls.pending = s.pending := by
  unfold State.rstnFalls
  repeat' split
  · rfl
  · exact State.warmReset_pending _
  · rfl

theorem State.beginSweep_pending : s.beginSweep.pending = s.pending := by
  unfold State.beginSweep
  split <;> rfl

theorem State.rstnRises_pending : s.rstnRises.pending = s.pending := by
  unfold State.rstnRises
  split
  · rfl
  · exact State.beginSweep_pending _

/-! ## Accesses -/

theorem State.memUpset_pending (a : Addr) (u : Upset) : (s.memUpset a u).pending = s.pending := by
  rw [State.memUpset_eq]

theorem State.memEffect_pending (q : Request) (u : Upset) : (s.memEffect q u).pending = s.pending := by
  rw [State.memEffect_eq]

theorem State.clearDone_pending (i : Nat) (a : Addr) : (s.clearDone i a).pending = s.pending := by
  unfold State.clearDone
  dsimp only
  repeat' split
  · rfl
  · exact State.endStartUp_pending _
  · exact State.warmReset_pending _

theorem State.takeSwept_pending (o : Nat) (c : MemCell) : (s.takeSwept o c).pending = s.pending := by
  unfold State.takeSwept
  split
  · rw [State.rejectTable_pending, State.damageTable_pending, ((Quiet.refl s).reportParity _ _).pending]
  · exact s.applyTable_pending _ _

theorem State.sweepDone_pending (i : Nat) (a : Addr) (u : Upset) : (s.sweepDone i a u).pending = s.pending := by
  have taken (c : MemCell) :
      ((({ s with inProg := none } : State).memUpset a u).takeSwept (sweepOffset i) c).pending = s.pending := by
    rw [State.takeSwept_pending, State.memUpset_pending]
  unfold State.sweepDone
  dsimp only
  split
  · exact taken _
  · exact (State.endStartUp_pending _).trans (taken _)

theorem State.staleDone_pending (x : Access) (u : Upset) : (s.staleDone x u).pending = s.pending :=
  (State.beginSweep_pending _).trans (State.memEffect_pending { s with inProg := none } x.req u)

theorem State.grantedDone_pending (x : Access) (u : Upset) : (s.grantedDone x u).pending = s.pending := by
  have passed (t : State) (b : Bool) (w : Word) :
      Quiet t (((t.reportIf b x.req.addr x.req.code).judge x.req.watch x.req.kind x.old).passResult x.req w b) :=
    (((Quiet.refl t).reportIf _ _ _).judge _ _ _).passResult _ _ _
  exact (passed _ _ _).pending.trans (State.memEffect_pending { s with inProg := none } x.req u)

theorem State.beginAccess_pending (q : Fin 5) (r : Request) (u : Upset) : (s.beginAccess q r u).pending = s.pending := by
  unfold State.beginAccess
  dsimp only
  split
  · exact State.memUpset_pending _ r.addr u
  · rfl

theorem State.grant_pending (u : Upset) : (s.grant u).pending = s.pending := by
  unfold State.grant
  repeat' split
  · exact s.beginAccess_pending _ _ u
  all_goals rfl

theorem State.completeAccess_pending (u : Upset) : (s.completeAccess u).pending = s.pending := by
  unfold State.completeAccess
  split
  · rfl
  · next x _ =>
    split
    · exact s.clearDone_pending _ _
    · exact s.sweepDone_pending _ _ u
    · exact s.staleDone_pending x u
    all_goals exact s.grantedDone_pending x u

theorem State.completeClear_pending : s.completeClear.pending = s.pending := by
  unfold State.completeClear
  repeat' split
  · exact s.clearDone_pending _ _
  all_goals rfl

theorem State.completeSweep_pending (u : Upset) : (s.completeSweep u).pending = s.pending := by
  unfold State.completeSweep
  repeat' split
  · exact s.sweepDone_pending _ _ u
  · exact s.staleDone_pending _ u
  all_goals rfl

theorem State.completeStop_pending (c : ChanId) (u : Upset) : (s.completeStop c u).pending = s.pending := by
  unfold State.completeStop
  repeat' split
  · rfl
  · exact s.completeAccess_pending u
  · exact ((Quiet.refl s).settleStop c).pending

/-! ## Pins and ticks -/

theorem State.prstnFalls_pending (p : PortId) : (s.prstnFalls p).pending = s.pending := by
  unfold State.prstnFalls
  dsimp only
  split
  · exact State.tearDown_pending _ p .prstn
  · rfl

theorem State.boundary_pending : s.boundary.pending = s.pending := by
  have q : Quiet s s.settleDue.countDown := (Quiet.settleDue (.refl s)).countDown
  unfold State.boundary
  split
  · dsimp only
    exact q.pending
  · rfl

end

/-! ## O3 -/

/-- A command that is no cycle has a next state, which its own operation makes, with the queue as it was. -/
theorem exec_answers_of_event {i : Instr} (h : cycleOf i = none) (s : State) :
    ∃ t : State, exec i s = .next t ∧ t.pending = s.pending := by
  have q : Quiet s s := .refl s
  cases i with
  | ponnLow => exact ⟨_, rfl, s.powerDown_pending⟩
  | ponnHigh => exact ⟨_, rfl, s.powerUp_pending⟩
  | coldClearWriteComplete => exact ⟨_, rfl, s.completeClear_pending⟩
  | rstnLow => exact ⟨_, rfl, s.rstnFalls_pending⟩
  | sweepStart => exact ⟨_, rfl, s.rstnRises_pending⟩
  | sweepReadComplete u => exact ⟨_, rfl, s.completeSweep_pending u⟩
  | portReset p => exact ⟨_, rfl, s.prstnFalls_pending p⟩
  | teardownComplete p => exact ⟨_, rfl, s.finishTeardown_pending p⟩
  | portUp p => exact ⟨_, rfl, rfl⟩
  | strobeNegated p => exact ⟨_, rfl, rfl⟩
  | holdListTakeUp r => exact ⟨_, rfl, (q.resumeRing r).pending⟩
  | stalledPostOpen r => exact ⟨_, rfl, (q.openHead r).pending⟩
  | stallLimitExpiry r p => exact ⟨_, rfl, (q.stallExpires r p).pending⟩
  | lockHandover l =>
    refine ⟨_, rfl, ?_⟩
    split
    · exact (q.releaseLock l).pending
    · rfl
  | leaseExpiry l => exact ⟨_, rfl, (q.leaseExpires l).pending⟩
  | tickBoundary => exact ⟨_, rfl, s.boundary_pending⟩
  | stopPendingComplete c u => exact ⟨_, rfl, s.completeStop_pending c u⟩
  | channelPick => exact ⟨_, rfl, q.pickChan.pending⟩
  | arbiterGrant u => exact ⟨_, rfl, s.grant_pending u⟩
  | memoryAccessComplete u => exact ⟨_, rfl, s.completeAccess_pending u⟩
  | _ => cases h

/-- Settles O3: a row that is a cycle presents it, and every other command is an operation of one block or of start-up control. -/
theorem everyCommandAnswers : Obligations.EveryCommandAnswers := by
  intro i s
  cases h : cycleOf i with
  | some x =>
    obtain ⟨p, d, a, v⟩ := x
    exact ⟨_, exec_of_cycleOf h s, s.present_pending p d a v⟩
  | none => exact exec_answers_of_event h s

end Sys2Proof.Machine
